-- ==== Sys2Proof/Word.lean ====
section
/-! DEFINITION. The word types of the Rhatum 7, its engines, and the plainest arithmetic on words. -/

namespace Sys2Proof

/-- One byte of memory. -/
abbrev Byte := BitVec 8

/-- A 32-bit instruction word, vector lane or accumulator element. -/
abbrev W32 := BitVec 32

/-- A 64-bit scalar register, queue entry or address. -/
abbrev Word := BitVec 64

/-- The five engines of a core (R7), in the order of their engine codes (R24). -/
inductive Eng where
  | A | C | M | V | F
  deriving DecidableEq, Repr, Inhabited

/-- The engine code of R24. -/
def Eng.code : Eng → Nat
  | .A => 0 | .C => 1 | .M => 2 | .V => 3 | .F => 4

/-- The index of an engine's entry in a table of five. -/
def Eng.ix : Eng → Fin 5
  | .A => 0 | .C => 1 | .M => 2 | .V => 3 | .F => 4

/-- The engine a code names; codes 5-7 name none. -/
def Eng.ofCode : Nat → Option Eng
  | 0 => some .A | 1 => some .C | 2 => some .M | 3 => some .V | 4 => some .F | _ => none

/-- The previous ring neighbour of an engine (R18). -/
def Eng.prev : Eng → Eng
  | .A => .F | .C => .A | .M => .C | .V => .M | .F => .V

/-- The next ring neighbour of an engine (R18). -/
def Eng.next : Eng → Eng
  | .A => .C | .C => .M | .M => .V | .V => .F | .F => .A

/-- The five engines in ring order. -/
def Eng.all : List Eng := [.A, .C, .M, .V, .F]

/-- The four token bits of a word (R22): bit 3 wait-prev, bit 2 wait-next, bit 1 post-prev, bit 0 post-next. -/
abbrev Tok := BitVec 4

/-- A core: die * 196 + site (R86, R131). -/
abbrev CoreId := Fin 392

/-- A die. -/
abbrev DieId := Fin 2

/-- The die of a core. -/
def dieOf (k : CoreId) : DieId := if k.val < 196 then 0 else 1

/-- The site of a core on its die: 14 * row + column. -/
def siteOf (k : CoreId) : Nat := k.val % 196

/-- The core at a die and a site, where the site number is one (0-195). -/
def coreAt (d : DieId) (site : Nat) : Option CoreId :=
  if h : site < 196 then
    some ⟨d.val * 196 + site, by have := d.isLt; omega⟩
  else none

end Sys2Proof
end

