-- ==== Sys2Proof/Syntax.lean ====
section
/-! DEFINITION. The syntax of the Rhatum 7: operand forms and the one inductive of its operations and events,
one constructor per row of spec/opcode_table.json. -/

namespace Sys2Proof

/-- A source selector of an A-engine word (R27): a scalar register, a popped queue or a peeked queue. -/
inductive Src where
  | x (r : Fin 32)
  | pop (q : Fin 16)
  | peek (q : Fin 16)
  deriving DecidableEq, Repr

/-- A destination selector of an A-engine word (R27): a scalar register or a pushed queue. -/
inductive Dst where
  | x (r : Fin 32)
  | push (q : Fin 16)
  deriving DecidableEq, Repr

/-- A queue selector of a CD word (R29) where the role is a source. -/
inductive QSrc where
  | pop (q : Fin 16)
  | peek (q : Fin 16)
  deriving DecidableEq, Repr

/-- The sel field of a VM word (R32): a window, or an address popped or peeked from a queue. -/
inductive VSel where
  | win (w : Fin 8)
  | pop (q : Fin 16)
  | peek (q : Fin 16)
  deriving DecidableEq, Repr

/-- The lane types of R33, in the order of their codes. -/
inductive Ty where
  | f32 | bf16 | f16 | s32 | n32 | s16 | n16 | s8
  deriving DecidableEq, Repr

/-- The rounding modes of R66. -/
inductive Rnd where
  | rne | rtz | rdn | rup | rna
  deriving DecidableEq, Repr

/-- The mod field of a V3 or VQ word (R33). -/
structure Mod where
  ty : Ty
  rnd : Rnd
  sat : Bool
  deriving DecidableEq, Repr

/-- The memory element of v.ldx and v.stx (R35). -/
inductive Elem where
  | e32 | n16 | s16 | n8 | s8
  deriving DecidableEq, Repr

/-- The condition of v.br (R32), in the order of its codes. -/
inductive VCond where
  | any | all | none | nall
  deriving DecidableEq, Repr

/-- The numbered fields of a C-engine template (R152). -/
structure CFields where
  f1 : BitVec 64
  f2 : BitVec 64
  f3 : BitVec 32
  f4 : BitVec 32
  f5 : BitVec 16
  f6 : BitVec 16
  f7 : BitVec 6
  f8 : BitVec 10
  deriving DecidableEq, Repr

/-- A C operation with two queue operands and a small field: its direct word (R155) or its template form (R152). -/
inductive CForm where
  | direct (s1 s2 : QSrc) (small : BitVec 6)
  | image (f : CFields)
  deriving DecidableEq, Repr

/-- c.drain: its direct word (an accumulator and a queue) or its template form. -/
inductive CDrainForm where
  | direct (n : BitVec 6) (q : QSrc)
  | image (f : CFields)
  deriving DecidableEq, Repr

/-- The body fields of an M-engine template (R207). -/
structure MBody where
  aoff : BitVec 32
  boff : BitVec 32
  amoff : BitVec 32
  bmoff : BitVec 32
  n : BitVec 6
  shape : Fin 8
  sparse : Bool
  deriving DecidableEq, Repr

/-- A tile command: its direct word (first tile and queue) or its template form (R207). -/
inductive MForm where
  | direct (n : BitVec 6) (q : Fin 16)
  | image (b : MBody)
  deriving DecidableEq, Repr

/-- Whose unit a COPY_UNIT_PERFORMED event performs: the oldest operation of the text, the running command
of a command queue, or a segment copy (R153, R133, R277). -/
inductive CopyWork where
  | text
  | command (q : Fin 4)
  | segment (k : Nat)
  deriving DecidableEq, Repr

/-- What an ACCESS_PERFORMED event performs: the k-th pending store at one scope more, the oldest outstanding load of a core's A
engine (R244), or the load of the operand granule at an offset of the scratchpad for the next unit of a core's M engine (R203). -/
inductive AccessWork where
  | store (k : Nat)
  | load (core : CoreId)
  | operand (core : CoreId) (off : BitVec 21)
  deriving DecidableEq, Repr

/-- The operations of an atomic (R111). -/
inductive AmoOp where
  | add | min | max | and | or | xor | xchg | faddF32 | fmaxF32
  deriving DecidableEq, Repr

/-- An access that a peer makes to this device's HBM4 (R335): a load, a store, or an atomic under R111 or R112. -/
inductive PeerAccess where
  | load (addr : BitVec 39) (n : Nat)
  | store (addr : BitVec 39) (bytes : List Byte)
  | amo (op : AmoOp) (addr : BitVec 39) (v : Word)
  | cas (addr : BitVec 39) (expected v : Word)
  deriving DecidableEq, Repr

/-- What reaches a node of a reduction tree (R341, R342): the k-th packet between nodes of the device, or a packet of a peer
through an Umarn port, with its tree, sequence, values and beat. -/
inductive RedInput where
  | packet (k : Nat)
  | port (port : Fin 16) (tree : Fin 256) (seq : BitVec 32) (vals : List W32) (beat : BitVec 48)
  deriving DecidableEq, Repr

/-- The operations and events of the Rhatum 7. A constructor's first operand t holds the word's token bits;
an immediate, offset or row is the extended 64-bit value (R31, R39, R46). Events name where they happen. -/
inductive Instr where
  /-- ADD (R100): Adds two scalar sources modulo 2^64 into the destination. -/
  | add (t : Tok) (d : Dst) (a b : Src)
  /-- SUB (R100): Subtracts x[b] from x[a] modulo 2^64. -/
  | sub (t : Tok) (d : Dst) (a b : Src)
  /-- MUL (R100): Multiplies two scalar sources modulo 2^64. -/
  | mul (t : Tok) (d : Dst) (a b : Src)
  /-- MULH (R100): Writes bits 127:64 of the signed 128-bit product. -/
  | mulh (t : Tok) (d : Dst) (a b : Src)
  /-- MULHN (R100): Writes bits 127:64 of the natural 128-bit product. -/
  | mulhn (t : Tok) (d : Dst) (a b : Src)
  /-- DIV (R101): Signed division with defined results for a zero divisor and overflow. -/
  | div (t : Tok) (d : Dst) (a b : Src)
  /-- DIVN (R101): Natural division with all ones for a zero divisor. -/
  | divn (t : Tok) (d : Dst) (a b : Src)
  /-- REM (R101): Signed remainder taking the sign of the dividend. -/
  | rem (t : Tok) (d : Dst) (a b : Src)
  /-- REMN (R101): Natural remainder, the dividend for a zero divisor. -/
  | remn (t : Tok) (d : Dst) (a b : Src)
  /-- AND (R100): Bitwise and of two scalar sources. -/
  | and (t : Tok) (d : Dst) (a b : Src)
  /-- OR (R100): Bitwise or of two scalar sources. -/
  | or (t : Tok) (d : Dst) (a b : Src)
  /-- XOR (R100): Bitwise exclusive or of two scalar sources. -/
  | xor (t : Tok) (d : Dst) (a b : Src)
  /-- ANDN (R100): Writes x[a] and not x[b]. -/
  | andn (t : Tok) (d : Dst) (a b : Src)
  /-- SHL (R102): Shifts left by x[b][5:0] filling with zeros. -/
  | shl (t : Tok) (d : Dst) (a b : Src)
  /-- SHR (R102): Logical right shift by x[b][5:0]. -/
  | shr (t : Tok) (d : Dst) (a b : Src)
  /-- SRA (R102): Arithmetic right shift by x[b][5:0]. -/
  | sra (t : Tok) (d : Dst) (a b : Src)
  /-- MIN (R100): Signed minimum of two sources. -/
  | min (t : Tok) (d : Dst) (a b : Src)
  /-- MAX (R100): Signed maximum of two sources. -/
  | max (t : Tok) (d : Dst) (a b : Src)
  /-- MINN (R100): Natural minimum of two sources. -/
  | minn (t : Tok) (d : Dst) (a b : Src)
  /-- MAXN (R100): Natural maximum of two sources. -/
  | maxn (t : Tok) (d : Dst) (a b : Src)
  /-- CLZ (R100): Counts leading zero bits of x[a]. -/
  | clz (t : Tok) (d : Dst) (a : Src)
  /-- CTZ (R100): Counts trailing zero bits of x[a]. -/
  | ctz (t : Tok) (d : Dst) (a : Src)
  /-- POPC (R100): Counts the one bits of x[a]. -/
  | popc (t : Tok) (d : Dst) (a : Src)
  /-- BEXT (R103): Extracts the bits of x[a] under the mask x[b] into a packed field. -/
  | bext (t : Tok) (d : Dst) (a b : Src)
  /-- BDEP (R103): Deposits packed bits of x[a] at the mask positions of x[b]. -/
  | bdep (t : Tok) (d : Dst) (a b : Src)
  /-- SLT (R100): Writes 1 when x[a] is below x[b] as signed values. -/
  | slt (t : Tok) (d : Dst) (a b : Src)
  /-- SLTN (R100): Writes 1 when x[a] is below x[b] as natural values. -/
  | sltn (t : Tok) (d : Dst) (a b : Src)
  /-- SEQ (R100): Writes 1 when the two sources are equal. -/
  | seq (t : Tok) (d : Dst) (a b : Src)
  /-- SEL (R100): Selects x[a] when the value read from d is nonzero, else x[b]. -/
  | sel (t : Tok) (d : Dst) (a b : Src)
  /-- ADD_S32 (R99): Adds on 32 bits and sign-extends the result. -/
  | addS32 (t : Tok) (d : Dst) (a b : Src)
  /-- SUB_S32 (R99): Subtracts on 32 bits and sign-extends the result. -/
  | subS32 (t : Tok) (d : Dst) (a b : Src)
  /-- MUL_S32 (R99): Multiplies on 32 bits and sign-extends the result. -/
  | mulS32 (t : Tok) (d : Dst) (a b : Src)
  /-- SHL_S32 (R102): Left shift on 32 bits by x[b][4:0]. -/
  | shlS32 (t : Tok) (d : Dst) (a b : Src)
  /-- SHR_S32 (R102): Logical right shift on 32 bits, then sign-extension. -/
  | shrS32 (t : Tok) (d : Dst) (a b : Src)
  /-- SRA_S32 (R102): Arithmetic right shift on 32 bits. -/
  | sraS32 (t : Tok) (d : Dst) (a b : Src)
  /-- RSLOT (R315): Requests k ramp slots and waits up to PINWAIT for the grant. -/
  | rslot (t : Tok) (d : Dst) (a : Src)
  /-- HACK (R355): Supervisor request to stop, resume or single-step another core's cell. -/
  | hack (t : Tok) (a : Src)
  /-- TRC (R352): Advances A's beat and writes a trace record of x[a]. -/
  | trc (t : Tok) (a : Src)
  /-- ADD_IMM (R104): Adds a sign-extended immediate. -/
  | addImm (t : Tok) (d : Dst) (a : Src) (imm : Word)
  /-- ADD_S32_IMM (R104): Adds imm[31:0] on 32 bits. -/
  | addS32Imm (t : Tok) (d : Dst) (a : Src) (imm : Word)
  /-- MUL_IMM (R104): Multiplies by an immediate. -/
  | mulImm (t : Tok) (d : Dst) (a : Src) (imm : Word)
  /-- AND_IMM (R104): Bitwise and with an immediate. -/
  | andImm (t : Tok) (d : Dst) (a : Src) (imm : Word)
  /-- OR_IMM (R104): Bitwise or with an immediate. -/
  | orImm (t : Tok) (d : Dst) (a : Src) (imm : Word)
  /-- XOR_IMM (R104): Bitwise exclusive or with an immediate. -/
  | xorImm (t : Tok) (d : Dst) (a : Src) (imm : Word)
  /-- SHL_IMM (R104): Left shift by imm[5:0]. -/
  | shlImm (t : Tok) (d : Dst) (a : Src) (imm : Word)
  /-- SHR_IMM (R104): Logical right shift by imm[5:0]. -/
  | shrImm (t : Tok) (d : Dst) (a : Src) (imm : Word)
  /-- SRA_IMM (R104): Arithmetic right shift by imm[5:0]. -/
  | sraImm (t : Tok) (d : Dst) (a : Src) (imm : Word)
  /-- SLT_IMM (R104): Signed compare with an immediate. -/
  | sltImm (t : Tok) (d : Dst) (a : Src) (imm : Word)
  /-- SLTN_IMM (R104): Natural compare with an immediate. -/
  | sltnImm (t : Tok) (d : Dst) (a : Src) (imm : Word)
  /-- SEQ_IMM (R104): Equality compare with an immediate. -/
  | seqImm (t : Tok) (d : Dst) (a : Src) (imm : Word)
  /-- LI (R104): Loads a sign-extended immediate into the destination. -/
  | li (t : Tok) (d : Dst) (imm : Word)
  /-- BEQ (R106): A-owned branch taken when x[a] is zero, outcome pushed to the other engines. -/
  | beq (t : Tok) (a : Src) (off : Word)
  /-- BNE (R106): Branch taken when x[a] is nonzero. -/
  | bne (t : Tok) (a : Src) (off : Word)
  /-- BLT (R106): Branch taken when x[a] is negative. -/
  | blt (t : Tok) (a : Src) (off : Word)
  /-- BGE (R106): Branch taken when x[a] is non-negative. -/
  | bge (t : Tok) (a : Src) (off : Word)
  /-- BGT (R106): Branch taken when x[a] is positive. -/
  | bgt (t : Tok) (a : Src) (off : Word)
  /-- BLE (R106): Branch taken when x[a] is not positive. -/
  | ble (t : Tok) (a : Src) (off : Word)
  /-- JMP (R106): Unconditional jump followed by every engine. -/
  | jmp (t : Tok) (off : Word)
  /-- CALL (R95): Pushes the return address on every hidden link stack, writes x31 and jumps. -/
  | call (t : Tok) (off : Word)
  /-- RET (R95): Pops every link stack and returns, checking x31 in A. -/
  | ret (t : Tok)
  /-- NOP (R118): Walks one word with no other effect. -/
  | nop (t : Tok)
  /-- HALT (R89): Holding word that ends the iteration or the cell once every engine reaches it. -/
  | halt (t : Tok)
  /-- TRAP (R116): Enters the cell's trap handler on purpose with a code. -/
  | trap (t : Tok) (code : BitVec 18)
  /-- ERET (R117): Ends the trap handler and resumes the five engines at their EPCs. -/
  | eret (t : Tok)
  /-- LTRIG (R91): Waits for earlier accesses and makes the cell's DONE arrival early. -/
  | ltrig (t : Tok)
  /-- LCMT (R271): Layer commit: waits, publishes slots, takes the checkpoint and releases mailbox staging. -/
  | lcmt (t : Tok)
  /-- RPLY (R276): Ends the context handler and restores the checkpoint for replay. -/
  | rply (t : Tok)
  /-- MARK (R246): Waits until every access ordered before it is performed at the named scope. -/
  | mark (t : Tok) (scope : BitVec 3)
  /-- RND (R119): Returns the next keyed random value and advances RNDCTR. -/
  | rnd (t : Tok) (d : Dst)
  /-- SRD (R115): Reads a system register into a scalar destination. -/
  | srd (t : Tok) (d : Dst) (r : BitVec 12)
  /-- SWR (R115): Writes a system register; the row for registers with no row of their own. -/
  | swr (t : Tok) (a : Src) (r : BitVec 12)
  /-- TSET (R120): Loads a 32-byte template image into template n of an engine. -/
  | tset (t : Tok) (n : BitVec 6) (a : Src) (e : Eng)
  /-- LD_N8 (R108): Loads one byte zero-extended. -/
  | ldN8 (t : Tok) (d : Dst) (base : Src) (imm : Word)
  /-- LD_N16 (R108): Loads two bytes zero-extended. -/
  | ldN16 (t : Tok) (d : Dst) (base : Src) (imm : Word)
  /-- LD_N32 (R108): Loads four bytes zero-extended. -/
  | ldN32 (t : Tok) (d : Dst) (base : Src) (imm : Word)
  /-- LD_N64 (R108): Loads eight bytes. -/
  | ldN64 (t : Tok) (d : Dst) (base : Src) (imm : Word)
  /-- LD_S8 (R108): Loads one byte sign-extended. -/
  | ldS8 (t : Tok) (d : Dst) (base : Src) (imm : Word)
  /-- LD_S16 (R108): Loads two bytes sign-extended. -/
  | ldS16 (t : Tok) (d : Dst) (base : Src) (imm : Word)
  /-- LD_S32 (R108): Loads four bytes sign-extended. -/
  | ldS32 (t : Tok) (d : Dst) (base : Src) (imm : Word)
  /-- ST_N8 (R108): Stores the low byte of x[s]. -/
  | stN8 (t : Tok) (src base : Src) (imm : Word)
  /-- ST_N16 (R108): Stores the low two bytes of x[s]. -/
  | stN16 (t : Tok) (src base : Src) (imm : Word)
  /-- ST_N32 (R108): Stores the low four bytes of x[s]. -/
  | stN32 (t : Tok) (src base : Src) (imm : Word)
  /-- ST_N64 (R108): Stores all eight bytes of x[s]. -/
  | stN64 (t : Tok) (src base : Src) (imm : Word)
  /-- LDQ_N8 (R110): Run-ahead load of one byte into a reserved queue slot. -/
  | ldqN8 (t : Tok) (q : Fin 16) (base : Src) (imm : Word)
  /-- LDQ_N16 (R110): Run-ahead load of two bytes zero-extended. -/
  | ldqN16 (t : Tok) (q : Fin 16) (base : Src) (imm : Word)
  /-- LDQ_N32 (R110): Run-ahead load of four bytes zero-extended. -/
  | ldqN32 (t : Tok) (q : Fin 16) (base : Src) (imm : Word)
  /-- LDQ_N64 (R110): Run-ahead load of eight bytes. -/
  | ldqN64 (t : Tok) (q : Fin 16) (base : Src) (imm : Word)
  /-- LDQ_S8 (R110): Run-ahead load of one byte sign-extended. -/
  | ldqS8 (t : Tok) (q : Fin 16) (base : Src) (imm : Word)
  /-- LDQ_S16 (R110): Run-ahead load of two bytes sign-extended. -/
  | ldqS16 (t : Tok) (q : Fin 16) (base : Src) (imm : Word)
  /-- LDQ_S32 (R110): Run-ahead load of four bytes sign-extended. -/
  | ldqS32 (t : Tok) (q : Fin 16) (base : Src) (imm : Word)
  /-- AMO_ADD (R111): Atomic add at the granule's home, returning the old value. -/
  | amoAdd (t : Tok) (d : Dst) (a b : Src)
  /-- AMO_MIN (R111): Atomic signed minimum. -/
  | amoMin (t : Tok) (d : Dst) (a b : Src)
  /-- AMO_MAX (R111): Atomic signed maximum. -/
  | amoMax (t : Tok) (d : Dst) (a b : Src)
  /-- AMO_AND (R111): Atomic bitwise and. -/
  | amoAnd (t : Tok) (d : Dst) (a b : Src)
  /-- AMO_OR (R111): Atomic bitwise or. -/
  | amoOr (t : Tok) (d : Dst) (a b : Src)
  /-- AMO_XOR (R111): Atomic bitwise exclusive or. -/
  | amoXor (t : Tok) (d : Dst) (a b : Src)
  /-- AMO_XCHG (R111): Atomic exchange. -/
  | amoXchg (t : Tok) (d : Dst) (a b : Src)
  /-- AMO_FADD_F32 (R111): Atomic f32 add with rne at the home. -/
  | amoFaddF32 (t : Tok) (d : Dst) (a b : Src)
  /-- AMO_FMAX_F32 (R111): Atomic f32 maximum. -/
  | amoFmaxF32 (t : Tok) (d : Dst) (a b : Src)
  /-- CAS (R112): Compare and swap of 8 bytes at the granule's home. -/
  | cas (t : Tok) (d : Dst) (a b : Src)
  /-- AWAIT (R114): Waits until a granule differs from an expected value or the timeout runs out. -/
  | await (t : Tok) (d : Dst) (a b : Src)
  /-- BAR_INIT (R254): Initialises a barrier object from a word, keeping GEN. -/
  | barInit (t : Tok) (a b : Src)
  /-- BAR_ARR (R255): Makes one arrival at a barrier object and records it in the arrival table. -/
  | barArr (t : Tok) (a : Src)
  /-- BAR_ADD (R256): Adds a signed value to a barrier's pending bytes. -/
  | barAdd (t : Tok) (a b : Src)
  /-- BAR_WAIT (R257): Waits for a completion of a barrier object. -/
  | barWait (t : Tok) (a : Src)
  /-- BAR_TEST (R258): Returns the status of a barrier object once. -/
  | barTest (t : Tok) (d : Dst) (a : Src)
  /-- PUB (R249): Publishes a buffer slot's shadow at a scope as one event. -/
  | pub (t : Tok) (a : Src) (scope : BitVec 3)
  /-- PUSH (R132): Enqueues a command block on the issuing core's command queue. -/
  | push (t : Tok) (a b : Src)
  /-- RENQ (R132): Enqueues a command block on a named command queue of any core. -/
  | renq (t : Tok) (a b : Src)
  /-- QSTAT (R136): Returns the status of a command queue for the issuing domain. -/
  | qstat (t : Tok) (d : Dst) (a : Src)
  /-- LNCH (R84): Reads and checks a launch record and text header and enters it in the scoreboard. -/
  | lnch (t : Tok) (d : Dst) (a : Src)
  /-- FPUSH (R198): Appends a format word to M's format queue. -/
  | fpush (t : Tok) (a : Src)
  /-- SGIN (R277): Starts bringing a segment into a resident slot. -/
  | sgin (t : Tok) (d : Dst) (a b : Src)
  /-- SGOUT (R277): Starts evicting a resident segment to its tier. -/
  | sgout (t : Tok) (d : Dst) (a b : Src)
  /-- PATCH_WORD (R45): Amends a template field and issues the operation the template holds. -/
  | patchWord (e : Eng) (n : BitVec 6) (fsel : BitVec 4) (value : BitVec 74)
  /-- C_COPY (R155): Copies bytes, or makes bank updates, between memory levels. -/
  | cCopy (t : Tok) (o : CForm)
  /-- C_GATH (R159): Template-only gather of indexed elements into a packed buffer. -/
  | cGath (t : Tok) (f : CFields)
  /-- C_SCAT (R159): Template-only scatter of packed elements to indexed places. -/
  | cScat (t : Tok) (f : CFields)
  /-- C_FILL (R155): Fills bytes with a 64-bit pattern. -/
  | cFill (t : Tok) (o : CForm)
  /-- C_CONV_F32 (R76): Quantises f32 source elements to a matrix format and writes a trailer. -/
  | cConvF32 (t : Tok) (o : CForm)
  /-- C_CONV_BF16 (R76): Quantises bf16 source elements and writes a trailer. -/
  | cConvBf16 (t : Tok) (o : CForm)
  /-- C_CONV_F16 (R76): Quantises f16 source elements and writes a trailer. -/
  | cConvF16 (t : Tok) (o : CForm)
  /-- C_DRAIN (R156): Joins M and writes accumulator tiles to memory. -/
  | cDrain (t : Tok) (o : CDrainForm)
  /-- C_DRAIN_SEL (R157): Template-only drain that computes max, exponential sum and top-k into a record. -/
  | cDrainSel (t : Tok) (f : CFields)
  /-- C_WMAP (R164): Maps a window from a shape record and starts fetching its rows. -/
  | cWmap (t : Tok) (w : Fin 8) (q : QSrc)
  /-- C_WADV (R165): Advances a window's head and fetches the next rows. -/
  | cWadv (t : Tok) (w : Fin 8) (n : BitVec 6)
  /-- C_WRET (R166): Unmaps a window after its fetches end. -/
  | cWret (t : Tok) (w : Fin 8)
  /-- C_PFX (R170): Prefetches translations of consecutive 64 KiB pages without faulting. -/
  | cPfx (t : Tok) (q : QSrc) (n : BitVec 6)
  /-- C_RSEND (R343): Template-only send of a contribution to a reduction tree node. -/
  | cRsend (t : Tok) (f : CFields)
  /-- C_RRECV (R343): Template-only receive of a reduction tree's root result. -/
  | cRrecv (t : Tok) (f : CFields)
  /-- C_MBX (R360): Stages a value for host stream k until the next commit. -/
  | cMbx (t : Tok) (q : QSrc) (k : BitVec 6)
  /-- M_LVL (R206): Writes a level record into the shadow nest configuration. -/
  | mLvl (t : Tok) (q : Fin 16) (k : Fin 6)
  /-- M_GO (R208): Checks the shadow nest and starts it as the live nest. -/
  | mGo (t : Tok) (body : Option MBody)
  /-- M_ZERO (R202): Zeroes a run of accumulator tiles. -/
  | mZero (t : Tok) (n c : BitVec 6)
  /-- M_STOP (R209): Ends the live nest after its issued body commands. -/
  | mStop (t : Tok)
  /-- M_MMA (R200): Dense matrix multiply-accumulate of one shape into accumulator tiles. -/
  | mMma (t : Tok) (shape : Fin 8) (o : MForm)
  /-- M_MMAS (R200): Bitmap-sparse matrix multiply-accumulate. -/
  | mMmas (t : Tok) (shape : Fin 8) (o : MForm)
  /-- V_LD_N8 (R179): Loads a tile of bytes zero-extended from a window or address. -/
  | vLdN8 (t : Tok) (d : Fin 16) (sel : VSel) (row : Word)
  /-- V_LD_S8 (R179): Loads a tile of bytes sign-extended. -/
  | vLdS8 (t : Tok) (d : Fin 16) (sel : VSel) (row : Word)
  /-- V_LD_N16 (R179): Loads a tile of 16-bit elements zero-extended. -/
  | vLdN16 (t : Tok) (d : Fin 16) (sel : VSel) (row : Word)
  /-- V_LD_S16 (R179): Loads a tile of 16-bit elements sign-extended. -/
  | vLdS16 (t : Tok) (d : Fin 16) (sel : VSel) (row : Word)
  /-- V_LD (R179): Loads a tile of 32-bit elements, optionally trailer-checked. -/
  | vLd (t : Tok) (d : Fin 16) (sel : VSel) (row : Word)
  /-- V_ST_N8 (R179): Stores the low bytes of a tile. -/
  | vStN8 (t : Tok) (d : Fin 16) (sel : VSel) (row : Word)
  /-- V_ST_N16 (R179): Stores the low 16 bits of each lane. -/
  | vStN16 (t : Tok) (d : Fin 16) (sel : VSel) (row : Word)
  /-- V_ST (R179): Stores a tile of 32-bit lanes. -/
  | vSt (t : Tok) (d : Fin 16) (sel : VSel) (row : Word)
  /-- V_LDX (R181): Gathers one element per lane from base plus index. -/
  | vLdx (t : Tok) (d a : Fin 16) (q : Fin 16) (e : Elem)
  /-- V_STX (R181): Scatters one element per lane. -/
  | vStx (t : Tok) (d a : Fin 16) (q : Fin 16) (e : Elem)
  /-- V_ADD (R175): Lanewise add rounded once. -/
  | vAdd (t : Tok) (d a b : Fin 16) (m : Mod)
  /-- V_SUB (R175): Lanewise subtract. -/
  | vSub (t : Tok) (d a b : Fin 16) (m : Mod)
  /-- V_MUL (R175): Lanewise multiply. -/
  | vMul (t : Tok) (d a b : Fin 16) (m : Mod)
  /-- V_FMA (R175): Lanewise fused multiply-add into vd. -/
  | vFma (t : Tok) (d a b : Fin 16) (m : Mod)
  /-- V_MIN (R175): Lanewise minimum. -/
  | vMin (t : Tok) (d a b : Fin 16) (m : Mod)
  /-- V_MAX (R175): Lanewise maximum. -/
  | vMax (t : Tok) (d a b : Fin 16) (m : Mod)
  /-- V_ABS (R175): Lanewise absolute value. -/
  | vAbs (t : Tok) (d a : Fin 16) (m : Mod)
  /-- V_NEG (R175): Lanewise negation. -/
  | vNeg (t : Tok) (d a : Fin 16) (m : Mod)
  /-- V_AND (R176): Lanewise bitwise and. -/
  | vAnd (t : Tok) (d a b : Fin 16) (m : Mod)
  /-- V_OR (R176): Lanewise bitwise or. -/
  | vOr (t : Tok) (d a b : Fin 16) (m : Mod)
  /-- V_XOR (R176): Lanewise bitwise exclusive or. -/
  | vXor (t : Tok) (d a b : Fin 16) (m : Mod)
  /-- V_SHL (R176): Lanewise left shift with optional saturation. -/
  | vShl (t : Tok) (d a b : Fin 16) (m : Mod)
  /-- V_SHR (R176): Lanewise right shift. -/
  | vShr (t : Tok) (d a b : Fin 16) (m : Mod)
  /-- V_SEL (R176): Lanewise select by the old vd. -/
  | vSel (t : Tok) (d a b : Fin 16) (m : Mod)
  /-- V_EXP2 (R177): Correctly rounded 2^x per lane. -/
  | vExp2 (t : Tok) (d a : Fin 16) (m : Mod)
  /-- V_LOG2 (R177): Correctly rounded log2 x per lane. -/
  | vLog2 (t : Tok) (d a : Fin 16) (m : Mod)
  /-- V_RCP (R177): Correctly rounded reciprocal per lane. -/
  | vRcp (t : Tok) (d a : Fin 16) (m : Mod)
  /-- V_RSQ (R177): Correctly rounded reciprocal square root per lane. -/
  | vRsq (t : Tok) (d a : Fin 16) (m : Mod)
  /-- V_CMP_EQ (R176): Lanewise equality compare. -/
  | vCmpEq (t : Tok) (d a b : Fin 16) (m : Mod)
  /-- V_CMP_NE (R176): Lanewise inequality compare. -/
  | vCmpNe (t : Tok) (d a b : Fin 16) (m : Mod)
  /-- V_CMP_LT (R176): Lanewise less-than compare. -/
  | vCmpLt (t : Tok) (d a b : Fin 16) (m : Mod)
  /-- V_CMP_LE (R176): Lanewise less-or-equal compare. -/
  | vCmpLe (t : Tok) (d a b : Fin 16) (m : Mod)
  /-- V_ROTR (R182): Rotates each row by a popped count. -/
  | vRotr (t : Tok) (d a : Fin 16) (q : Fin 16) (m : Mod)
  /-- V_ROTC (R182): Rotates each column by a popped count. -/
  | vRotc (t : Tok) (d a : Fin 16) (q : Fin 16) (m : Mod)
  /-- V_BCR (R182): Broadcasts one row to every row. -/
  | vBcr (t : Tok) (d a : Fin 16) (q : Fin 16) (m : Mod)
  /-- V_BCC (R182): Broadcasts one column to every column. -/
  | vBcc (t : Tok) (d a : Fin 16) (q : Fin 16) (m : Mod)
  /-- V_SCANR (R183): Inclusive prefix sum along each row. -/
  | vScanr (t : Tok) (d a : Fin 16) (m : Mod)
  /-- V_IOTA (R184): Writes each lane's index. -/
  | vIota (t : Tok) (d : Fin 16) (m : Mod)
  /-- V_SPLAT (R184): Writes a popped value into every lane. -/
  | vSplat (t : Tok) (d : Fin 16) (q : Fin 16) (m : Mod)
  /-- V_REDR_ADD (R183): Row-axis tree sum in fixed order. -/
  | vRedrAdd (t : Tok) (d a : Fin 16) (m : Mod)
  /-- V_REDR_MAX (R183): Row-axis maximum. -/
  | vRedrMax (t : Tok) (d a : Fin 16) (m : Mod)
  /-- V_REDR_MIN (R183): Row-axis minimum. -/
  | vRedrMin (t : Tok) (d a : Fin 16) (m : Mod)
  /-- V_REDC_ADD (R183): Column-axis tree sum in fixed order. -/
  | vRedcAdd (t : Tok) (d a : Fin 16) (m : Mod)
  /-- V_REDC_MAX (R183): Column-axis maximum. -/
  | vRedcMax (t : Tok) (d a : Fin 16) (m : Mod)
  /-- V_REDC_MIN (R183): Column-axis minimum. -/
  | vRedcMin (t : Tok) (d a : Fin 16) (m : Mod)
  /-- V_PACK (R185): Packs narrow elements densely into lanes. -/
  | vPack (t : Tok) (d a : Fin 16) (m : Mod)
  /-- V_UNPACK (R185): Unpacks dense narrow elements into lanes. -/
  | vUnpack (t : Tok) (d a : Fin 16) (m : Mod)
  /-- V_PART (R186): Partitions lanes into a dense index list and pushes the count. -/
  | vPart (t : Tok) (d a : Fin 16) (q : Fin 16) (m : Mod)
  /-- V_SMASS (R188): Softmax mass check of stubs against theta, raising the context fault. -/
  | vSmass (t : Tok) (d a b : Fin 16)
  /-- V_STUB (R189): Accumulates and finishes the mean key of an evicted segment. -/
  | vStub (t : Tok) (d a : Fin 16) (q : Fin 16) (m : Mod)
  /-- V_BR (R190): V-owned branch on a lane condition, followed by every engine. -/
  | vBr (t : Tok) (a : Fin 16) (c : VCond) (off : Word)
  /-- V_CVT (R178): Converts each lane between lane types with the opcode's destination and saturation. -/
  | vCvt (t : Tok) (d a : Fin 16) (dty sty : Ty) (rnd : Rnd) (sat : Bool)
  /-- F_LD (R225): Loads a function register from a memory image. -/
  | fLd (t : Tok) (d : Fin 16) (q : Fin 16)
  /-- F_ST (R225): Stores a function register as a memory image. -/
  | fSt (t : Tok) (d : Fin 16) (q : Fin 16)
  /-- F_MOV (R226): Copies a function register. -/
  | fMov (t : Tok) (d a : Fin 16)
  /-- F_CONST (R226): Makes a constant function on a popped domain. -/
  | fConst (t : Tok) (d : Fin 16) (q : Fin 16)
  /-- F_FIT (R227): Fits a Chebyshev series from samples in a tile. -/
  | fFit (t : Tok) (d a : Fin 16) (q : Fin 16)
  /-- F_LEN (R226): Pushes a register's length. -/
  | fLen (t : Tok) (a : Fin 16) (q : Fin 16)
  /-- F_DOM_RESTRICT (R233): Forms a function on a sub-interval of its domain. -/
  | fDomRestrict (t : Tok) (d a : Fin 16) (q : Fin 16)
  /-- F_DOM_RESCALE (R233): Replaces a function's domain keeping its coefficients. -/
  | fDomRescale (t : Tok) (d a : Fin 16) (q : Fin 16)
  /-- F_TRUNC (R226): Truncates a register to a popped length or empties it. -/
  | fTrunc (t : Tok) (d a : Fin 16) (q : Fin 16)
  /-- F_ADD (R228): Adds two series on one domain. -/
  | fAdd (t : Tok) (d a b : Fin 16)
  /-- F_SUB (R228): Subtracts two series on one domain. -/
  | fSub (t : Tok) (d a b : Fin 16)
  /-- F_MUL (R229): Multiplies two series in fixed order. -/
  | fMul (t : Tok) (d a b : Fin 16)
  /-- F_SCAL (R228): Scales a series by a popped scalar. -/
  | fScal (t : Tok) (d a : Fin 16) (q : Fin 16)
  /-- F_COMP (R232): Composes fa with fb on fb's domain. -/
  | fComp (t : Tok) (d a b : Fin 16)
  /-- F_INT (R230): Forms the antiderivative zero at a. -/
  | fInt (t : Tok) (d a : Fin 16)
  /-- F_DER (R231): Forms the derivative. -/
  | fDer (t : Tok) (d a : Fin 16)
  /-- F_EVAL (R235): Evaluates a function register at every lane of a tile under a write lease. -/
  | fEval (t : Tok) (d a b : Fin 16)
  /-- F_ROOT (R237): Finds real roots by a fixed method and pushes a header and roots. -/
  | fRoot (t : Tok) (a : Fin 16) (q : Fin 16)
  /-- F_EXT (R238): Pushes the greatest and least values and their abscissas. -/
  | fExt (t : Tok) (a : Fin 16) (q : Fin 16)
  /-- LDQ_DATA_ARRIVAL (R110): Data of a run-ahead load arrives and fills its reserved queue slot. -/
  | ldqDataArrival (core : CoreId) (k : Nat)
  /-- WINDOW_ROW_ARRIVAL (R163): A fetched window row is written into its ring slot and the arrived count advances. -/
  | windowRowArrival (core : CoreId) (w : Fin 8) (row : Nat)
  /-- COPY_UNIT_PERFORMED (R153): A C operation's chunk or element is performed and its bytes are subtracted from its barrier. -/
  | copyUnitPerformed (core : CoreId) (u : CopyWork)
  /-- NEST_BODY_COMMAND (R208): The live nest issues its next body command at the next index vector. -/
  | nestBodyCommand (core : CoreId)
  /-- COMMAND_RUN (R133): The command at a queue's head runs on the target core's copy engine. -/
  | commandRun (core : CoreId) (q : Fin 4)
  /-- COMMAND_COMPLETE (R133): A command's writes are performed at device scope and its charge is subtracted. -/
  | commandComplete (core : CoreId) (q : Fin 4)
  /-- SPILL_REFILL (R137): The overflow engine moves a spilled command back into its queue as an entry frees. -/
  | spillRefill (core : CoreId) (q : Fin 4)
  /-- SEGMENT_FINAL_STEP (R277): After a segment copy is performed, the descriptor takes its final state. -/
  | segmentFinalStep (core : CoreId) (k : Nat)
  /-- QUEUE_OVERFLOW (R123): A push stalled QSTALL cycles on a full queue takes queue-overflow. -/
  | queueOverflow (core : CoreId) (e : Eng)
  /-- QUEUE_UNDERFLOW (R123): A pop or peek stalled QSTALL cycles on an empty queue takes queue-underflow. -/
  | queueUnderflow (core : CoreId) (e : Eng)
  /-- FORMAT_QUEUE_OVERFLOW (R198): fpush stalled QSTALL cycles on a full format queue faults. -/
  | formatQueueOverflow (core : CoreId)
  /-- FORMAT_UNDERFLOW (R199): An M command stalled QSTALL cycles on an empty format queue faults. -/
  | formatUnderflow (core : CoreId)
  /-- QUOTA_TIMEOUT (R132): A push or renq at quota for QSTALL cycles takes the quota fault. -/
  | quotaTimeout (core : CoreId)
  /-- MAILBOX_STAGING_OVERFLOW (R360): c.mbx stalled QSTALL cycles on full staging takes queue-overflow. -/
  | mailboxStagingOverflow (core : CoreId)
  /-- AWAIT_WAKE (R114): A write to the awaited granule wakes the await to read again. -/
  | awaitWake (core : CoreId)
  /-- AWAIT_TIMEOUT (R114): An await's timeout runs out and it returns the value read. -/
  | awaitTimeout (core : CoreId)
  /-- BARRIER_TIMEOUT (R257): A bar.wait exceeding the object's TIMEOUT sets TOUT and faults. -/
  | barrierTimeout (core : CoreId)
  /-- RSLOT_WAIT_EXPIRY (R315): An rslot waiting PINWAIT withdraws its ungranted remainder and returns. -/
  | rslotWaitExpiry (core : CoreId)
  /-- DEADLOCK (R96): A cell with no progress for 2^24 cycles takes the deadlock fault in A. -/
  | deadlock (core : CoreId)
  /-- ENGINE_PRECISE_FAULT (R283): An engine-precise fault stops the cell at instruction boundaries and is routed. -/
  | enginePreciseFault (core : CoreId)
  /-- SUPERVISOR_EVENT_POST (R288): An event is written to the die's ring and TAIL advanced when there is room. -/
  | supervisorEventPost (die : DieId)
  /-- DATAPATH_CHECK_FAULT (R294): A detected datapath or storage error is taken layer-precisely. -/
  | datapathCheckFault (core : CoreId) (e : Eng) (code : BitVec 32) (addr : Word)
  /-- LAYER_ROLLBACK (R273): After in-flight commands complete, shadows are discarded and the checkpoint restored. -/
  | layerRollback (core : CoreId)
  /-- DUMP (R299): The Aedty core pre-empts a domain's cells and writes a signed dump. -/
  | dump
  /-- CELLCTL_RESUME (R289): CELLCTL action 1 resumes a held cell at its EPCs. -/
  | cellctlResume (core : CoreId) (v : Word)
  /-- CELLCTL_ENTER_CONTEXT_HANDLER (R289): CELLCTL action 2 optionally raises the depth limit and enters HCTX. -/
  | cellctlEnterContextHandler (core : CoreId) (v : Word)
  /-- CELLCTL_RESUME_CHECKPOINT (R289): CELLCTL action 3 resumes a held cell from its checkpoint. -/
  | cellctlResumeCheckpoint (core : CoreId) (v : Word)
  /-- CELLCTL_ENTER_TRAP (R289): CELLCTL action 4 enters the trap handler with the held cause. -/
  | cellctlEnterTrap (core : CoreId) (v : Word)
  /-- CELLCTL_END_AND_DUMP (R289): CELLCTL action 5 ends the cell and dumps its domain. -/
  | cellctlEndAndDump (core : CoreId) (v : Word)
  /-- CELLCTL_END (R289): CELLCTL action 6 ends the held cell. -/
  | cellctlEnd (core : CoreId) (v : Word)
  /-- SCHEDCMD_PREEMPT_CELL (R325): SCHEDCMD action 1 pre-empts the cell at a site. -/
  | schedcmdPreemptCell (core : CoreId) (v : Word)
  /-- SCHEDCMD_PREEMPT_DOMAIN (R325): SCHEDCMD action 2 pre-empts every cell of a domain on the die. -/
  | schedcmdPreemptDomain (core : CoreId) (v : Word)
  /-- TLBINV (R293): Drops cached translations of a domain or page on both dies. -/
  | tlbinv (core : CoreId) (v : Word)
  /-- ECLAIM (R314): Reads and clears a domain's account word atomically. -/
  | eclaim (core : CoreId) (v : Word)
  /-- ESAT_CLEAR (R314): Writing 0 to ESAT clears the saturation flag of the domain's entry. -/
  | esatClear (core : CoreId) (v : Word)
  /-- CQCTL_RESUME (R140): Resumes a halted queue's head command from its progress. -/
  | cqctlResume (core : CoreId) (v : Word)
  /-- CQCTL_DISCARD (R140): Discards a halted queue's head command and releases its bytes. -/
  | cqctlDiscard (core : CoreId) (v : Word)
  /-- CTXREC_WRITE (R269): Checks a context record and loads SMTHETA and SMTAG.CTX from it. -/
  | ctxrecWrite (core : CoreId) (v : Word)
  /-- CKSLOT_WRITE (R268): Sets the checkpoint slot after checking its region. -/
  | ckslotWrite (core : CoreId) (v : Word)
  /-- PBLEN_WRITE (R247): Registers, re-registers or disables a published buffer slot. -/
  | pblenWrite (core : CoreId) (v : Word)
  /-- CHRONOGRAPH_CONTROL_WRITE (R354): Writing a chronograph's control word sets its source and clears its data. -/
  | chronographControlWrite (core : CoreId) (n : Fin 16) (v : Word)
  /-- TREE_DESCRIPTOR_WRITE (R341): Writing a tree descriptor with V=1 clears its combine entries and sequence records. -/
  | treeDescriptorWrite (core : CoreId) (tree : Fin 256) (n : Fin 256) (v : Word)
  /-- CHANNEL_RETIRE (R336): Writing a channel entry with V=0 starts its drain. -/
  | channelRetire (core : CoreId) (c : BitVec 12) (v : Word)
  /-- CHANNEL_DRAIN_END (R336): After 50 µs unacknowledged writes are dropped and the entry takes V=0. -/
  | channelDrainEnd (c : BitVec 12)
  /-- PEER_STORE_ACK (R335): A peer store's acknowledgement arrives and it is performed at fabric scope. -/
  | peerStoreAck (k : Nat)
  /-- REDUCTION_INPUT_ARRIVAL (R342): An input reaches a tree node; when complete the node sends its sum upward. -/
  | reductionInputArrival (r : RedInput)
  /-- REDUCTION_TIMEOUT (R344): The root probes, writes the missing-input list and faults the c.rrecv. -/
  | reductionTimeout (core : CoreId)
  /-- HOST_WRITE (R340): A host write reaches the device through CXL and is performed at device scope. -/
  | hostWrite (pa : BitVec 48) (bytes : List Byte)
  /-- HOST_MEM_ACCESS (R339): A host CXL.mem access is served in the window or poisoned outside it. -/
  | hostMemAccess (addr : BitVec 48) (data : Option (List Byte))
  /-- LAUNCH_ISSUE (R318): The escapement issues a ready, placeable launch in priority order. -/
  | launchIssue (die : DieId)
  /-- CELL_START (R88): A cell takes a core with its start state and maps its input windows. -/
  | cellStart (core : CoreId) (slot : Nat)
  /-- ITERATION_END (R89): At halt with T levels remaining, indices advance and the PCs return to the entry. -/
  | iterationEnd (core : CoreId)
  /-- CELL_END (R89): The cell ends once every engine reaches halt, discarding its state. -/
  | cellEnd (core : CoreId)
  /-- SAMPLE_BOUNDARY (R305): Every 100 ns the governor grants ramp slots and chooses ballast duty. -/
  | sampleBoundary
  /-- RAMP_VIOLATION (R306): A pinned launch not granted in full within PINWAIT is removed. -/
  | rampViolation (die : DieId) (slot : Nat)
  /-- THROTTLE_HOLD (R307): Ticks reaching the sample ceiling hold M and V issue for the rest of the sample. -/
  | throttleHold
  /-- STATIC_CHARGE (R313): Every 4,096 cycles each core charges static ticks and adds pending charges to accounts. -/
  | staticCharge
  /-- PRIORITY_PREEMPTION (R320): A ready launch of higher priority pre-empts eligible victims. -/
  | priorityPreemption (die : DieId)
  /-- TIME_SLICE_PREEMPTION (R320): A cell that has run SLICE is pre-empted for another domain's launch. -/
  | timeSlicePreemption (die : DieId)
  /-- PREEMPTION_STOP (R321): Every engine stops at an instruction boundary and the switch image is saved. -/
  | preemptionStop (core : CoreId)
  /-- CELL_RESUME (R319): A pre-empted cell is restored from its image and resumes. -/
  | cellResume (core : CoreId) (k : Nat)
  /-- HACK_STOP (R356): The target cell freezes on one edge and is written to its dump area. -/
  | hackStop (core : CoreId)
  /-- HACK_STEP_STOP (R355): After the chosen engine retires one instruction the cell stops again. -/
  | hackStepStop (core : CoreId)
  /-- FRAME_WRITE (R362): The Aedty core writes a released entry as a frame and advances CTR. -/
  | frameWrite (k : Nat)
  /-- STREAM_OPEN (R358): Mailbox request opening a host token stream. -/
  | streamOpen (req : BitVec 512)
  /-- STREAM_CLOSE (R358): Mailbox request closing a host token stream. -/
  | streamClose (req : BitVec 512)
  /-- ATTESTATION (R346): Mailbox request producing a signed attestation report. -/
  | attestation (req : BitVec 512)
  /-- SUSPEND (R326): Mailbox request taking the device to retention in ordered steps. -/
  | suspend (req : BitVec 512)
  /-- PORT_QUIESCE_TIMEOUT (R326): A port unanswered after 50 ms is saved as it stands. -/
  | portQuiesceTimeout (port : Fin 16)
  /-- RESUME (R328): Mailbox request restoring the device from retention. -/
  | resume (req : BitVec 512)
  /-- DUMP_BUFFER_REGISTER (R369): Mailbox request registering the host dump buffer. -/
  | dumpBufferRegister (req : BitVec 512)
  /-- IMAGE_LOAD (R367): Mailbox request loading and verifying one die image at boot. -/
  | imageLoad (req : BitVec 512)
  /-- POWER_ON_BOOT (R366): With VAUX stable the Aedty core verifies images and brings the device up. -/
  | powerOnBoot
  /-- ENVELOPE_EVENT (R294): A clock, rail or thermal fault stops issue and posts an event. -/
  | envelopeEvent
  /-- PATROL_READ (R294): A patrol read scrubs SRAM or HBM4 and corrects or poisons granules. -/
  | patrolRead (loc : Nat) (correctable : Bool)
  /-- ACCESS_PERFORMED (R244): A load or store an engine issued earlier becomes performed at a scope: a load's value is fixed and delivered, a store becomes visible to the observers of that scope. -/
  | accessPerformed (w : AccessWork)
  /-- MATRIX_UNIT_PERFORMED (R210): The matrix engine finishes one k-group unit of an accumulator tile; after a command's last unit its accumulator writes are performed and its tokens are posted. -/
  | matrixUnitPerformed (core : CoreId)
  /-- F_LAST_STEP (R240): An F instruction in flight reaches its last step: it allocates and writes its register, writes the f.eval tile, or pushes its results, and its lease ends and its tokens are posted. -/
  | fLastStep (core : CoreId)
  /-- PEER_ACCESS (R335): A load, store or atomic from a peer arrives over an Umarn port and is performed at this device's memory controller, with stores acknowledged once performed at device scope. -/
  | peerAccess (a : PeerAccess)
  /-- PEER_QUIESCE (R326): A peer's quiesce arrives at a port; the device drains its flits toward the peer, answers, sets QSC and holds packets bound for the peer while pausing tree waits. -/
  | peerQuiesce (port : Fin 16)
  /-- PEER_PORT_REOPEN (R328): A suspended peer resumes and reopens its port; QSC clears, link sequence state is restored and held packets and flits are sent. -/
  | peerPortReopen (port : Fin 16)
  /-- LANE_DEGRADE (R294): Lanes of an Umarn or CXL link are lost or regained, so the port runs degraded or goes down and the link reassigns channel traffic to other ports. -/
  | laneDegrade (port : Fin 16) (lanes : BitVec 3)
  /-- MAILBOX_UNKNOWN_OP (R369): A doorbell submits a request whose OP is unknown, or is refused at boot, and the Aedty core replies with status 3 and signals MSI-X vector 2. -/
  | mailboxUnknownOp (req : BitVec 512)
  deriving DecidableEq, Repr

end Sys2Proof
end

