-- ==== Sys2Proof/Machine/State.lean ====
section
/-! DEFINITION. The state of the device: cells, cores, dies, memory, and the few fields that are the model's own. -/

namespace Sys2Proof.Machine

/-! ## Why a step can stop -/

/-- Reasons for which the machine stops with a fault. Every fault of the Rhatum 7 is taken by the device itself, in a
next state (R282-R289), so there is one reason only. -/
inductive Fault where
  /-- Raised by no instruction: a placeholder for a stuck machine. Safe. -/
  | stuck
  deriving DecidableEq, Repr

/-- Reasons for which an instruction has no meaning in the model. -/
inductive Refusal where
  /-- An arm of the dispatch whose meaning is not written. Safe. -/
  | notModelled (mnemonic : String)
  deriving DecidableEq, Repr

/-! ## Small pieces -/

/-- One value for each engine. -/
structure Five (α : Type) where
  a : α
  c : α
  m : α
  v : α
  f : α
  deriving DecidableEq, Repr

/-- The value of an engine. -/
def Five.get {α : Type} (x : Five α) : Eng → α
  | .A => x.a | .C => x.c | .M => x.m | .V => x.v | .F => x.f

/-- The value of one engine replaced. -/
def Five.set {α : Type} (x : Five α) (e : Eng) (y : α) : Five α :=
  match e with
  | .A => { x with a := y } | .C => { x with c := y } | .M => { x with m := y }
  | .V => { x with v := y } | .F => { x with f := y }

/-- The same value for every engine. -/
def Five.all {α : Type} (y : α) : Five α := ⟨y, y, y, y, y⟩

/-- A tile of 1,024 lanes, lane 64 r + c for row r and column c (R172, R192). -/
abbrev Tile := Vector W32 1024

/-- The tile of zeros. -/
def Tile.zero : Tile := Vector.replicate 1024 0

/-- How many stores of each engine of the cell are known to be ordered before a point of an engine (R245). -/
abbrev Known := Five Nat

/-- A token in a FIFO (R126), with the order it carries and its poster's beat (R351). -/
structure Token where
  beat : BitVec 48
  known : Known
  deriving DecidableEq, Repr

/-- An entry of a queue register (R121): a value, or a slot that an ldq reserved and whose data has not arrived (R110). -/
structure QEntry where
  value : Word
  arrived : Bool
  beat : BitVec 48
  known : Known
  deriving DecidableEq, Repr

/-- A function register (R216): empty when it has no coefficients. Values are FP64 bit patterns. -/
structure FReg where
  lo : Word
  hi : Word
  coef : List Word
  deriving DecidableEq, Repr

/-- A window's shape record, once mapped (R161). -/
structure Shape where
  base : Word
  stride : Word
  rows : Nat
  rowlen : Nat
  ringrows : Nat
  ring : Nat
  fmt : BitVec 8
  deriving DecidableEq, Repr

/-- A c.wmap or c.wadv in flight (R151, R164, R165): the tensor rows that it fetches, its count among C's accesses, and when
it issued. -/
structure WindowFetch where
  lo : Nat
  upto : Nat
  seq : Nat
  since : Nat
  /-- The address of its word, or of its first prefix. -/
  pc : Word
  deriving DecidableEq, Repr

/-- A window (R163): its mapping and head, the tensor rows whose slots have not been written, and the fetches in flight. -/
structure Window where
  shape : Option Shape
  head : Nat
  missing : List Nat
  owed : List WindowFetch
  deriving DecidableEq, Repr

/-- The path of one engine: program counter, walk count, hidden link stack (newest first), branch-outcome queue
(oldest first), and whether the engine stands at a halt word (R89, R93-R95). While the engine walks a prefix chain, pc is the
address of its first prefix (R41), and exts holds the extensions of the prefixes it has walked. -/
structure Path where
  pc : Word
  walk : Nat
  exts : List (BitVec 29)
  links : List Word
  outs : List Bool
  halted : Bool
  deriving DecidableEq, Repr

/-- The kinds of fault (R282). -/
inductive Kind where
  | software | illegal | privilege | alignment | underflow | overflow | binding | lease | linkDepth | bankConflict
  | formatUnderflow | shape | translation | protection | trailer | domainMismatch | pool | context | replayDepth
  | rampViolation | quota | reduction | barrierTimeout | launchShape | peerDropped | deadlock | datapath
  deriving DecidableEq, Repr

/-- A fault: kind, code, and the fields of its record (R275, R290). -/
structure Flt where
  kind : Kind
  code : BitVec 32
  addr : Word := 0
  info : Word := 0
  info2 : Word := 0
  /-- Segment, share and stub lane of a context fault (R188). -/
  seg : W32 := 0
  share : W32 := 0
  lane : BitVec 10 := 0
  /-- The storage of a code-2 datapath-check or trailer-check fault: its location and bytes (R297). -/
  watch : Option (Nat × Nat) := none
  deriving DecidableEq, Repr

/-- What an instruction that cannot proceed waits for. -/
inductive Why where
  /-- A queue is empty, or full (R123). -/
  | qEmpty (q : Fin 16)
  | qFull (q : Fin 16)
  /-- Data of an outstanding load (R108). -/
  | data
  /-- Data of a queue's reserved slot (R110). -/
  | slot (q : Fin 16)
  /-- Token FIFO j is empty (R126). -/
  | token (j : Fin 10)
  /-- The format queue is full (R198) or empty (R199). -/
  | fmtFull
  | fmtEmpty
  /-- A command queue at quota, and the command block that was read before the wait (R132). -/
  | quota (name : BitVec 11) (block : BitVec 512)
  /-- Mailbox staging full (R360). -/
  | staging
  /-- await (R114), bar.wait (R257) and rslot (R315). -/
  | await
  | barWait
  | rslot
  /-- An outcome bit, or room for one (R94). -/
  | outcome
  | outFull
  /-- A template stall (R47). -/
  | template
  /-- A post owed to a full FIFO (R126). -/
  | post (j : Fin 10)
  /-- The slip window (R93). -/
  | slip
  /-- The engine's own units, nests, operations or windows in flight (R151, R156, R163, R203, R208). -/
  | unit
  /-- A holding word that A has not retired (R25), or A waiting at one (R271, R276). -/
  | hold
  /-- A waiting at halt (R89). -/
  | halt
  /-- A waiting for room in the Aedty core for what its commit releases, in lcmt or in halt (R361). -/
  | room (atHalt : Bool)
  /-- M or V held by the throttle (R307). -/
  | throttle
  /-- Rows of a window that a windowed load reads, at the head H that its issue has resolved (R179). -/
  | rows (h : Nat)
  /-- A reduction result (R343). -/
  | tree
  /-- The performance of a hack's action (R355). -/
  | hack
  deriving DecidableEq, Repr

/-- A stall: what is waited for, since when, and the limit in cycles that ends it with a fault, when it has one. -/
structure Stall where
  why : Why
  since : Nat
  limit : Option Nat
  deriving DecidableEq, Repr

/-- The running state of one engine that no rollback restores. -/
structure EngRun where
  /-- Beat (R351). -/
  beat : BitVec 48
  /-- Stores issued by this engine since the cell started. -/
  issued : Nat
  /-- Stores known to be ordered before this engine's next instruction (R245). -/
  known : Known
  /-- Token FIFOs this engine still has to post to (R126). -/
  owed : List (Fin 10)
  stall : Option Stall
  /-- Queue-head class, since when it has been this class, and the counters by class (R353). -/
  head : BitVec 8
  headAt : Nat
  headCount : List (BitVec 8 × BitVec 48)
  /-- Words retired since the last hack resume (R355). -/
  stepped : Bool
  deriving DecidableEq, Repr

/-! ## Cells -/

/-- The matrix engine's configuration: six level records and the body (R205-R207). -/
structure Nest where
  levels : Vector Word 6
  body : MBody
  deriving DecidableEq, Repr

/-- A value staged for a host stream by c.mbx (R360). -/
structure Staged where
  stream : BitVec 6
  value : Word
  deriving DecidableEq, Repr

/-- The state that a layer-precise rollback restores (R270). -/
structure Roll where
  paths : Five Path
  x : Vector Word 32
  q : Vector (List QEntry) 16
  tok : Vector (List Token) 10
  v : Vector Tile 16
  f : Vector FReg 16
  ftrc : BitVec 2
  food : BitVec 48
  rootLast : BitVec 5
  rootOvf : Bool
  vsatn : BitVec 48
  vnann : BitVec 48
  msatn : BitVec 48
  rndctr : Word
  win : Vector Window 8
  fmtq : List Word
  shadow : Nest
  arrivals : List (Word × BitVec 32)
  staging : List Staged
  deriving DecidableEq, Repr

/-- Who a cell is (R80-R87): its launch's record and handle, its number, and what the text header gives it. -/
structure Ident where
  handle : Word
  record : BitVec 512
  lrec : Word
  cellno : BitVec 32
  domain : BitVec 16
  supv : Bool
  multiWave : Bool
  /-- T indices and fixed spatial indices, level by level (R86). -/
  index : Vector Nat 6
  entry : Word
  qbind : BitVec 128
  hctx : W32
  htrap : W32
  textlen : Nat
  /-- The model's own number of this cell, never used twice. -/
  serial : Nat
  /-- The DONE arrival has been made (R90). -/
  done : Bool
  /-- When the cell started or last resumed (R320). -/
  since : Nat
  /-- Scoreboard slot of the launch on this die. -/
  slot : Nat
  deriving DecidableEq, Repr

/-- The trap registers (R285). -/
structure Traps where
  vec : BitVec 27
  cause : Word
  epc : Five Word
  /-- The paths set aside at trap entry, and the mode (R286). -/
  aside : Option (Five Path)
  deriving DecidableEq, Repr

/-- The context registers and the checkpoint's number (R268). -/
structure Context where
  limit : BitVec 3
  depth : BitVec 3
  raised : Bool
  active : Bool
  ctxrec : Word
  ctoken : Word
  number : W32
  rply : W32
  ckslot : Word
  deriving DecidableEq, Repr

/-- The registers of a buffer slot (R247). -/
structure PubSlot where
  b0 : Word
  b1 : Word
  ver : Word
  len : Word
  deriving DecidableEq, Repr

/-- The kinds of barrier-log entry (R259). -/
inductive LogKind where
  | init | arr | add
  deriving DecidableEq, Repr

/-- A barrier-log entry (R259): object, kind, generation or value, and whether a rollback made it a credit. -/
structure LogEntry where
  obj : Word
  kind : LogKind
  value : Word
  credit : Bool
  deriving DecidableEq, Repr

/-- The other registers of a cell that no rollback restores. -/
structure Misc where
  slipw : BitVec 16
  qstall : W32
  cqquota : BitVec 13
  ftol : Word
  fmaxlen : BitVec 11
  fpolicy : Bool
  rootStart : BitVec 4
  vctl : Bool
  smtheta : W32
  smtag : BitVec 40
  mctl : BitVec 2
  iter : BitVec 48
  cprogValid : Bool
  cprogP : W32
  cprogPc : Word
  pbsel : Fin 8
  trcbase : Word
  trcsize : BitVec 16
  trcauto : Bool
  trcpos : W32
  trclost : W32
  qhsel : BitVec 11
  chridx : BitVec 10
  rreq : BitVec 10
  rgrant : BitVec 10
  released : W32
  drop : BitVec 16
  /-- MODEL: the generation that a bar.wait without an arrival read first (R257). -/
  waitGen : BitVec 32
  /-- MODEL: since when A has waited in a bar.wait on an object whose TIMEOUT it has read as nonzero, which the watchdog does not count
  (R257). -/
  waitTimed : Option Nat
  deriving DecidableEq, Repr

/-- What the kinds of C operation are (R52). -/
inductive CKind where
  | copy | gath | scat | fill
  | conv (src : Ty)
  | drain | drainSel | rsend | rrecv
  deriving DecidableEq, Repr

/-- A C operation in flight (R151-R153): its fields, its progress, and what it must give back if it faults. -/
structure COp where
  kind : CKind
  f : CFields
  /-- Units delivered. -/
  p : Nat
  /-- Bytes charged to the barrier and not yet subtracted. -/
  left : Nat
  /-- Path of C at the word, and its word's address. -/
  path : Path
  /-- Values popped and tokens taken by the operation, and by the words of C behind it that are no operations, newest first. -/
  popped : List (Fin 16 × QEntry)
  taken : List (Fin 10 × Token)
  /-- Outcome bits that C has consumed since it issued the operation, oldest first. -/
  eaten : List Bool
  /-- Windows that words of C behind the operation have changed, as they were, newest first, and how many entries such words have
  staged. -/
  wins : List (Fin 8 × Window)
  staged : Nat
  posts : Tok
  /-- When the operation issued. -/
  since : Nat
  /-- Its count among C's accesses. -/
  seq : Nat
  /-- The source bytes of a conversion that have been read, from its first element (R77). -/
  kept : List Byte
  /-- Template that the issuing patch word amended, as it was before. -/
  undo : Option (BitVec 6 × BitVec 256)
  /-- Words of C behind the operation that are no operations, to be charged once they stand (R312, R330). -/
  behind : Nat
  deriving DecidableEq, Repr

/-- Tokens that a word of C posts once its own and C's earlier accesses are performed (R23, R126, R127). -/
structure CPost where
  seq : Nat
  posts : Tok
  deriving DecidableEq, Repr

/-- A tile command of M in flight (R200, R210): its operands, its format word and its next unit. -/
structure MCmd where
  sparse : Bool
  shape : Fin 8
  n : Nat
  a : Word
  b : Word
  am : Word
  bm : Word
  fmt : Word
  /-- The address of its word, or of its first prefix. -/
  pc : Word
  unit : Nat
  /-- Tokens posted when the command's accumulator writes are performed. -/
  posts : List (Fin 10)
  /-- The command is a body of the live nest. -/
  ofNest : Bool
  /-- Operand granules of the next unit that M's load queue has already read: location and bytes (R203). -/
  early : List (Nat × List Byte)
  deriving DecidableEq, Repr

/-- The live nest (R208): its configuration, format word, next body index, and the tokens it owes. -/
structure LiveNest where
  nest : Nest
  fmt : Word
  /-- The address of the word that started it. -/
  pc : Word
  next : Nat
  total : Nat
  posts : List (Fin 10)
  deriving DecidableEq, Repr

/-- What an F instruction in flight does at its last step (R240). -/
inductive FStep where
  /-- f.eval: a result tile (R235), with the inputs outside the domain that were counted. -/
  | tile (d : Fin 16) (t : Tile) (ood : Nat)
  /-- f.fit: a register's working result, truncated under the registers that its issue read (R221, R223, R227): whether it was cut,
  whether it holds a NaN or an infinity, and FPOLICY.FIT. -/
  | reg (d : Fin 16) (src : Fin 16) (lo hi : Word) (coef : List Word) (cut wild fit : Bool)
  /-- f.root, f.ext and f.len: values pushed at once (R236), and the LAST and OVF that f.root or f.ext leaves. -/
  | push (q : Fin 16) (vals : List Word) (last : Option (BitVec 5)) (ovf : Bool)
  deriving DecidableEq, Repr

/-- An F instruction in flight (R128, R240). -/
structure FOp where
  step : FStep
  path : Path
  popped : List (Fin 16 × QEntry)
  taken : List (Fin 10 × Token)
  eaten : List Bool
  posts : Tok
  since : Nat
  undo : Option (BitVec 6 × BitVec 256)
  /-- The class and the units that it is charged (R312). -/
  cls : Fin 16
  units : Nat
  /-- Units charged so far, of a class whose unit is a cycle: those that have run when the core's charges were last looked at. -/
  paid : Nat
  /-- A push at the last step has found its queue full: since when, and the limit (R236). -/
  full : Option (Nat × Option Nat)
  deriving DecidableEq, Repr

/-- Where the data of an outstanding load of A goes (R108, R110). -/
inductive LoadDst where
  | reg (r : Fin 32)
  /-- The oldest unfilled slot of a queue. -/
  | slot (q : Fin 16)
  deriving DecidableEq, Repr

/-- The read-modify-write of an outstanding amo or cas (R111, R112): its operand, or the expected and the new value. -/
inductive Rmw where
  | amo (op : AmoOp) (v : Word)
  | cas (e v : Word)
  deriving DecidableEq, Repr

/-- An outstanding load of A (R109): its word, the issued address, its location, size and extension; an amo or a cas carries its
operation. -/
structure Load where
  /-- The address of its word, or of its first prefix. -/
  pc : Word
  addr : Word
  loc : Nat
  n : Nat
  signed : Bool
  dst : LoadDst
  rmw : Option Rmw
  /-- Data that arrived while the cell was stopped, held at the core until its resume (R356). -/
  got : Option Word
  deriving DecidableEq, Repr

/-- A segment copy in flight (R277), on the copy engine of a core, for a cell that may have left it. -/
structure SegCopy where
  owner : Nat
  core : CoreId
  domain : BitVec 16
  supv : Bool
  ctxrec : Word
  seg : Nat
  slot : Nat
  inward : Bool
  /-- Whether bytes are copied at all. -/
  move : Bool
  blockBytes : Nat
  /-- Chunks copied. -/
  unit : Nat
  /-- The addresses of the segment's blocks in its tier. -/
  tiers : List Word
  /-- The address of the resident slot. -/
  resBase : Word
  bar : W32
  since : Nat
  /-- The address of the word that issued it, or of its first prefix (R356). -/
  pc : Word := 0
  deriving DecidableEq, Repr

/-- A store or C chunk to a peer that is not yet acknowledged (R335): its channel, the engine that made it and its count
among the engine's, its issued address and size, and the barrier entry from which the acknowledgement subtracts bytes
(R153). A command and a segment copy have the serial 0. -/
structure PeerStore where
  channel : BitVec 12
  core : CoreId
  serial : Nat
  eng : Eng
  seq : Nat
  addr : Word
  len : Nat
  bar : W32
  charge : Nat
  /-- Serial of the cell in whose published buffers the barrier object may lie (R248). -/
  who : Option Nat
  /-- The address of the word that sent it, or of its first prefix (R356). -/
  pc : Word := 0
  deriving DecidableEq, Repr

/-- Work that a cell has in flight beside its engines' walks. -/
structure Flight where
  cops : List COp
  mcmd : Option MCmd
  nest : Option LiveNest
  fop : Option FOp
  loads : List Load
  /-- Posts of C that wait for C's accesses, oldest first. -/
  cposts : List CPost
  /-- The operation whose progress CPROG keeps, as it stood at its stop (R153, R156, R171). -/
  stopped : Option COp
  /-- Dropped peer writes of the cell that no wait has reported (R336). -/
  dropped : List PeerStore
  deriving DecidableEq, Repr

/-- Why a cell is held (R287): the fault, its engine, whether it was a double fault, the resume addresses of the
stop, and whether it made a rollback. -/
structure Hold where
  flt : Flt
  eng : Eng
  pc : Word
  double : Bool
  resume : Five Word
  rolled : Bool
  deriving DecidableEq, Repr

/-- A fault that a cell has taken and whose stop is not complete (R283). -/
structure Raised where
  flt : Flt
  eng : Eng
  pc : Word
  /-- The step that took it, for the precedence of one cycle (R284). -/
  at_ : Nat
  deriving DecidableEq, Repr

/-- What becomes of a cell after a layer-precise rollback (R273, R274, R289, R296). -/
inductive RollThen where
  /-- Resume from the checkpoint, after a datapath-check or trailer-check fault of an engine at a word. -/
  | replay (flt : Flt) (eng : Eng) (pc : Word)
  /-- Resume from the checkpoint by CELLCTL action 3, with no handler running. -/
  | settle
  /-- A context fault: write the record and enter the handler. -/
  | context (flt : Flt) (pc : Word) (beat : BitVec 48)
  deriving DecidableEq, Repr

/-- The status of the cell of a core. -/
inductive Status where
  /-- The core runs no cell. -/
  | idle
  | running
  /-- A layer-precise rollback waits for the cell's commands and segment copies (R273). -/
  | rolling (next : RollThen)
  /-- Held for the supervisor (R287). -/
  | held (h : Hold)
  /-- Its A engine has retired halt: the iteration or the cell ends (R89). -/
  | halted
  deriving DecidableEq, Repr

/-- A cell (R80-R90). A core that runs no cell holds the state of a fresh one. -/
structure Cell where
  status : Status
  /-- Stopped by hack stop (R356). -/
  frozen : Bool
  raised : Option Raised
  ident : Ident
  roll : Roll
  run : Five EngRun
  ckpt : Roll
  /-- The CKSLOT region's bytes beside the checkpoint (R270). -/
  ckBytes : List Byte
  ckRegion : Word
  /-- Offsets in those bytes of granules that were uncorrectable when they were copied (R297). -/
  ckBad : List Nat
  /-- Posts that A still owed when the checkpoint was taken: those of the lcmt or the halt itself (R126, R271). -/
  ckOwed : List (Fin 10)
  tmpl : Five (Vector (Option (BitVec 256)) 64)
  acc : Vector Tile 64
  traps : Traps
  ctx : Context
  slots : Vector PubSlot 8
  blog : List LogEntry
  misc : Misc
  flight : Flight
  /-- When an engine last walked a word or an operation completed (R96). -/
  progress : Nat
  /-- A fault owed at resume for an uncorrectable read of a segment copy (R277). -/
  owed : Option Flt
  /-- When the context fault being served was taken (R277). -/
  faultAt : Nat
  /-- Input windows whose records could not be mapped at the cell's start: C maps them at its first word, or takes their faults there
  (R88; log entry 34). -/
  startLeft : List (Fin 8)
  /-- When the cell was frozen, and the core in whose dump area it was then written (R356, R357). -/
  frozenAt : Nat
  frozenOn : CoreId
  deriving DecidableEq, Repr

/-! ## Cores -/

/-- A command accepted on a queue (R130, R132). -/
structure Cmd where
  kind : CKind
  f : CFields
  bar : W32
  tag : Word
  domain : BitVec 16
  supv : Bool
  /-- Serial of the cell that issued it, and the address of the word that did, or of its first prefix (R356). -/
  owner : Nat
  pc : Word := 0
  deriving DecidableEq, Repr

/-- A command in the spill ring of a die (R137): the queue that it belongs to, and the entry of the ring that holds its block. -/
structure Spilled where
  core : CoreId
  queue : Fin 4
  place : Nat
  cmd : Cmd
  deriving DecidableEq, Repr

/-- A domain's counts on a command queue (R136, R137). -/
structure CqCount where
  domain : BitVec 16
  out : Nat
  done : W32
  deriving DecidableEq, Repr

/-- A command queue (R130-R140): entries held (the first is the head), whether the head has been started, its
progress, the source bytes that a conversion has read and the bytes charged for it, and the counts. -/
structure CmdQueue where
  entries : List Cmd
  running : Bool
  p : Nat
  kept : List Byte
  left : Nat
  halted : Bool
  counts : List CqCount
  deriving DecidableEq, Repr

/-- A cached translation (R293): domain, first page-unit of VA (VA[56:16]), units covered, the page-unit of the physical base,
and the permissions X, W, R. -/
structure TlbEntry where
  domain : BitVec 16
  vpn : Nat
  units : Nat
  ppn : Nat
  x : Bool
  w : Bool
  r : Bool
  deriving DecidableEq, Repr

/-- A core (R6, R7). -/
structure Core where
  cell : Cell
  cq : Vector CmdQueue 4
  /-- Whose turn it is on the C engine, 0 the running text, 1 + q queue q, 5 the segment copies, and the bytes moved in the turn (R133). -/
  cturn : Nat
  cmoved : Nat
  /-- The core's micro-TLB (R293). -/
  micro : List TlbEntry
  /-- The site may be given cells (R6, R296). -/
  enabled : Bool
  dperr : BitVec 8
  /-- Charges not yet added to accounts, by domain (R312, R313). -/
  pending : List (BitVec 16 × Nat)
  /-- Ballast and throttled cycles of the core, and the ballast cycles not yet added to an account (R309, R313). -/
  ballast : BitVec 48
  ballastPend : List (BitVec 16 × Nat)
  /-- MODEL: until when ballast may still issue on the core's M, whose command displaces it (R308; log entry 13). -/
  ballastTill : Nat
  throttled : BitVec 48
  /-- Word 0 of its domain's account as a restored image gave it, until the core's next addition (R313). -/
  view : Option Word
  /-- RNDKEY0 and RNDKEY1 (R79): one pair for each core, no part of the switch image (log entry 14). -/
  rndkey0 : Word
  rndkey1 : Word
  /-- The value that the core's last ECLAIM took (R314). -/
  eclaim : Word
  /-- A hack request on this core's cell that has not yet acted (R355). -/
  hackReq : Option Word
  /-- A request to pre-empt the core's cell, and the image slot chosen for it once there is one (R320, R323). -/
  leave : Option (Option Nat)
  /-- The locations and lengths of the pages of that slot, as they were translated when it was chosen (R323). -/
  slotAt : List (Nat × Nat)
  /-- The handle of the launch for which pre-emptions freed the core, until its cells run (R320). -/
  keep : Option Word
  deriving DecidableEq, Repr

/-! ## Memory -/

/-- A store that is not yet performed at every scope (R242-R244): at most 8 bytes of one granule; the serial of its cell is 0
for a command and a segment copy. -/
structure PStore where
  core : CoreId
  serial : Nat
  eng : Eng
  /-- The count of this store among its engine's, and its place among the pieces of one instruction (R181, R191). -/
  seq : Nat
  part : Nat
  /-- The issued address of its granule (R244). -/
  addr : Word
  loc : Nat
  bytes : List Byte
  /-- 0 issued, 1 performed at cell scope, 2 die, 3 device, 4 fabric. -/
  level : Nat
  /-- The address of its word, or of its first prefix. -/
  pc : Word
  deriving DecidableEq, Repr

/-- A registered buffer (R247): the serial of the cell that owns it, its slot, the core and domain through which its addresses are
read, the addresses of its backings and their size, whether backing 1 is visible, and the 4 KiB blocks of the shadow written since
the last publication. -/
structure Pub where
  owner : Nat
  slot : Fin 8
  core : CoreId
  domain : BitVec 16
  b0 : Word
  b1 : Word
  bytes : Nat
  flipped : Bool
  written : List Nat
  deriving DecidableEq, Repr

/-! ## Dies -/

/-- A launch held in a die's scoreboard (R84, R317). One that a ramp violation has removed keeps what its started cells need, under
a number that is no slot of the scoreboard, 512 or above (R306). -/
structure Launch where
  slot : Nat
  handle : Word
  record : BitVec 512
  lrec : Word
  header : BitVec 512
  /-- Cells not yet started on this die, in ascending cell number. -/
  waiting : List Nat
  /-- Cells started and not ended. -/
  live : Nat
  issued : Bool
  /-- The pages of its input windows have been translated (R318). -/
  prepared : Bool
  multiWave : Bool
  /-- Cores that an issued gang holds for its cells, and those that it has taken for pre-empted cells to resume on. -/
  gang : List CoreId
  resuming : List CoreId
  /-- Cores that its gang holds and that a cell of it has left by a pre-emption (R331). -/
  left : List CoreId
  seq : Nat
  accepted : Nat
  /-- Ramp slots granted to the launch on the die, and how many of its cells may start (R306). -/
  granted : Nat
  mayStart : Nat
  /-- The sample boundary at which a pinned launch, or a wave of it, was first placeable (R306). -/
  askedAt : Option Nat
  deriving DecidableEq, Repr

/-- A switch image held for a pre-empted cell (R321-R323); the cell of a retired core resumes on the spare that took the core's
numbers (R296). -/
structure Image where
  slot : Nat
  die : DieId
  cell : Cell
  only : Option CoreId
  /-- Offsets of its poisoned granules (R323). -/
  bad : List Nat
  deriving DecidableEq, Repr

/-- An event waiting for its die's ring (R288): bytes 0-63 as one number, and the copy of the record. -/
structure SupEvent where
  head : BitVec 512
  record : BitVec 512
  deriving DecidableEq, Repr

/-- A chronograph's data (R354). -/
structure Chrono where
  count : Word
  min : Word
  max : Word
  bins : Vector Word 32
  deriving DecidableEq, Repr

/-- A ramp request of a launch, by its handle (R305): the core whose rslot asked, the cells that resume together, or neither for cells
that start; the slots wanted and granted, and when. -/
structure RampReq where
  launch : Word
  core : Option CoreId
  resume : List Nat
  want : Nat
  got : Nat
  since : Nat
  deriving DecidableEq, Repr

/-- An input of a reduction sequence that a node holds (R342): own (0), or from a child (1 or 2), with its beat (R351). -/
structure NodeInput where
  child : Nat
  vals : List W32
  beat : BitVec 48
  deriving DecidableEq, Repr

/-- An open sequence at a tree node (R342). -/
structure OpenSeq where
  seq : Nat
  inputs : List NodeInput
  since : Nat
  deriving DecidableEq, Repr

/-- A tree node's combine state (R341-R344): open sequences, the latest completed or failed one, the root's results that no
c.rrecv has taken, with their beats, and the one that it delivered last, and the sequences that failed with the number of missing
inputs. -/
structure Node where
  tree : Fin 256
  site : Nat
  opens : List OpenSeq
  last : Option Nat
  results : List (Nat × List W32 × BitVec 48)
  given : Option (Nat × List W32 × BitVec 48)
  failed : List (Nat × Nat)
  deriving DecidableEq, Repr

/-- A die. -/
structure Die where
  board : List Launch
  nextSeq : W32
  spillBase : Word
  spillSize : BitVec 16
  /-- Commands spilled, oldest first (R137). -/
  spilled : List Spilled
  sevBase : W32
  sevSize : BitVec 16
  sevq : List SupEvent
  slice : BitVec 24
  agestep : BitVec 24
  imgbase : Word
  imgcount : BitVec 16
  pinwait : BitVec 24
  /-- The limit that governs since the last sample boundary (R314). -/
  pinUse : BitVec 24
  hackbase : W32
  chrono : Vector Chrono 16
  tlb : List TlbEntry
  spares : Nat
  nodes : List Node
  ramp : List RampReq
  images : List Image
  deriving DecidableEq, Repr

/-! ## The device -/

/-- An Umarn port (R334). -/
structure Port where
  up : Bool
  qsc : Bool
  lanes : BitVec 3
  peer : BitVec 9
  /-- When QSC was set (R344). -/
  qscAt : Nat
  deriving DecidableEq, Repr

/-- A reduction packet between nodes (R342). -/
structure Packet where
  die : DieId
  tree : Fin 256
  site : Nat
  child : Nat
  seq : Nat
  vals : List W32
  beat : BitVec 48
  deriving DecidableEq, Repr

/-- A token stream (R358). -/
structure Stream where
  id : BitVec 6
  domain : BitVec 16
  ring : Word
  logn : Nat
  ctr : Word
  /-- Frames written. -/
  frames : Nat
  /-- MODEL: the number of its opening, never used twice. -/
  opened : Nat
  deriving DecidableEq, Repr

/-- An entry that an lcmt released to a stream (R361). -/
structure Released where
  domain : BitVec 16
  stream : BitVec 6
  cellno : BitVec 32
  value : Word
  /-- Serial of the cell that released it, for its DROP count. -/
  owner : Nat
  /-- The number of the opening of the stream that was open at its release (R358). -/
  opened : Nat
  deriving DecidableEq, Repr

/-- The power registers that system software writes (R314). -/
structure Power where
  rlimus : Word
  rlimms : Word
  rlims : Word
  eweight : Vector Word 4
  estatic : BitVec 24
  hbmact : BitVec 16
  deriving DecidableEq, Repr

/-- The governor (R303-R309). -/
structure Governor where
  /-- The registers as written, and as they govern since the last sample boundary (R314). -/
  set : Power
  use : Power
  breach : BitVec 16
  meas : BitVec 24
  power : BitVec 12
  /-- Ticks and granted slots of past samples, newest first. -/
  history : List Nat
  grants : List Nat
  /-- Ticks metered so far in the sample. -/
  ticks : Nat
  /-- When the sample and the 4,096 cycles of R313 began. -/
  sampleAt : Nat
  staticAt : Nat
  /-- The throttle holds M and V, and whether it held in the sample before (R307). -/
  hold : Bool
  heldBefore : Bool
  /-- Ballast duty of the cores that issue ballast in this sample, in sixteenths (R309). -/
  ballastOn : List (CoreId × Nat)
  /-- Ticks of ballast metered in the sample (R303). -/
  ballastSum : Nat
  /-- Ticks of refresh, patrol and idle links over the whole of the sample (R303; log entry 13). -/
  idle : Nat
  /-- HBM4 activates in this sample, and in the samples before it, newest first (R314). -/
  acts : Nat
  actsBefore : List Nat
  deriving DecidableEq, Repr

/-- The dump in progress and those queued (R299). -/
structure Dump where
  domain : BitVec 16
  record : BitVec 512
  cell : Word
  secondary : List (BitVec 512)
  deriving DecidableEq, Repr

/-- The Aedty core and the host's side of it (R288, R299, R326-R328, R345, R358-R369). -/
structure Aedty where
  /-- 0 powered off, 1 images being verified, 2 booted (R366). -/
  phase : Nat
  bootsrc : BitVec 2
  testen : Bool
  /-- The bytes of the die images verified at boot, and the measurements (R345, R346, R367). -/
  loaded : List (List Byte)
  measure : List (BitVec 512)
  /-- The mailbox: its request area, its status word (bit 63 busy) and its reply (R369). -/
  mailReq : BitVec 512
  mailStatus : Word
  mailReply : BitVec 128
  dumpBase : Word
  dumpSize : Nat
  dumps : List Dump
  streams : List Stream
  /-- Streams closed since, for which entries released before the close are still to be written (R358). -/
  closed : List Stream
  released : List Released
  /-- 0 running, 1 waiting for the answers of the ports, 2 in retention (R326); and since when. -/
  suspended : Nat
  suspendAt : Nat
  /-- A suspend that waits for a dump; one whose steps 1 to 3 are in progress; and a resume that waits for the suspend (R326, R327). -/
  suspendAsked : Bool
  suspending : Bool
  resumeAsked : Bool
  suspcnt : W32
  /-- A clock, rail or thermal fault has stopped issue (R294). -/
  stopped : Bool
  msix : List Nat
  deriving DecidableEq, Repr

/-! ## The machine -/

/-- What the outside world or an agent does next. -/
inductive Act where
  /-- An engine walks its next word; `defer` leaves a load outstanding. -/
  | walk (core : CoreId) (e : Eng) (defer : Bool)
  /-- An event of the opcode table. -/
  | event (i : Instr)
  deriving DecidableEq, Repr

/-- One entry of the agenda: cycles that pass, then what happens. -/
structure Move where
  dt : Nat
  act : Act
  deriving DecidableEq, Repr

/-- The word being executed: its core and engine, whether a load is left outstanding, and the template that its patch word
amended, as it was before. -/
structure Cur where
  core : CoreId
  eng : Eng
  defer : Bool
  undo : Option (BitVec 6 × BitVec 256)
  deriving DecidableEq, Repr

/-- The state of the device. The fields under MODEL are the model's own, not the spec's. -/
structure State where
  cores : Vector Core 392
  dies : Vector Die 2
  /-- Bytes by location, strictly rising, none zero (Ops gives the locations). -/
  mem : List Host.Cell
  /-- Poisoned granules, by the location of their first byte (R295). -/
  poison : List Nat
  stores : List PStore
  pubs : List Pub
  /-- Segment copies in flight (R277). -/
  segs : List SegCopy
  /-- Storage at which a cell has taken a code-2 datapath-check or a trailer-check fault and that has not been written since:
  the cell's serial, location and bytes (R297). -/
  watch : List (Nat × Nat × Nat)
  gov : Governor
  ports : Vector Port 16
  packets : List Packet
  peerStores : List PeerStore
  /-- Channels that are draining, since when, and the entry that was written (R336). -/
  draining : List (BitVec 12 × Nat × Nat)
  aedty : Aedty
  /-- Serials of the cells whose commands are accepted and not complete, one entry for each command (R134). -/
  cmdOwners : List Nat
  /-- The greatest beats of the arrivals at a barrier object's generation and at its last completion (R351). -/
  barBeats : List (Nat × BitVec 48 × BitVec 48)
  /-- MODEL: cycles elapsed. -/
  now : Nat
  /-- MODEL: what happens next; when it is empty, background work and then the engine in focus go on. -/
  agenda : List Move
  focus : CoreId × Eng
  cur : Cur
  /-- MODEL: the counter with which the next free value is drawn. -/
  freeCtr : Nat
  /-- MODEL: the serial of the next cell, or of the next opening of a stream. -/
  nextSerial : Nat
  deriving DecidableEq, Repr

/-! ## Reset -/

/-- No stores known to be ordered. -/
def Known.none : Known := ⟨0, 0, 0, 0, 0⟩

/-- A path at an address, with nothing held. -/
def Path.at_ (pc : Word) : Path := ⟨pc, 0, [], [], [], false⟩

/-- A path at the first prefix of the chain that its engine is walking (R41). -/
def Path.rewind (p : Path) : Path := { p with walk := p.walk - p.exts.length, exts := [] }

/-- An empty function register. -/
def FReg.empty : FReg := ⟨0, 0, []⟩

/-- An unmapped window. -/
def Window.none : Window := ⟨Option.none, 0, [], []⟩

/-- Body fields of zero (R207). -/
def MBody.zero : MBody := ⟨0, 0, 0, 0, 0, 0, false⟩

/-- A configuration of zeros (R207). -/
def Nest.zero : Nest := ⟨Vector.replicate 6 0, MBody.zero⟩

/-- The start state of R88 of what a rollback restores: every engine at the entry; RNDCTR is CELLNO * 2^32 (R79, R86). -/
def Roll.start (entry : Word) (cellno : BitVec 32) : Roll :=
  { paths := Five.all (Path.at_ entry), x := Vector.replicate 32 0, q := Vector.replicate 16 [],
    tok := Vector.replicate 10 [], v := Vector.replicate 16 Tile.zero, f := Vector.replicate 16 FReg.empty,
    ftrc := 0, food := 0, rootLast := 0, rootOvf := false, vsatn := 0, vnann := 0, msatn := 0,
    rndctr := cellno ++ 0#32, win := Vector.replicate 8 Window.none, fmtq := [], shadow := Nest.zero, arrivals := [],
    staging := [] }

/-- An engine that has walked nothing. -/
def EngRun.start : EngRun :=
  { beat := 0, issued := 0, known := Known.none, owed := [], stall := none, head := 0x02, headAt := 0, headCount := [], stepped := false }

/-- The identity of a core that runs no cell. -/
def Ident.none : Ident :=
  { handle := 0, record := 0, lrec := 0, cellno := 0, domain := 0, supv := false, multiWave := false,
    index := Vector.replicate 6 0, entry := 0, qbind := 0, hctx := 0, htrap := 0, textlen := 0, serial := 0,
    done := false, since := 0, slot := 0 }

/-- The trap registers at cell start (R285): every route bit is 1 but 12, 14, 17, 18, 19, 25 and 26. -/
def Traps.start : Traps := { vec := 0x1F1AFFF, cause := 0, epc := Five.all 0, aside := none }

/-- The context registers at cell start (R268). -/
def Context.start : Context :=
  { limit := 3, depth := 0, raised := false, active := false, ctxrec := 0, ctoken := 0, number := 0, rply := 0,
    ckslot := 0 }

/-- A buffer slot at cell start (R247). -/
def PubSlot.none : PubSlot := { b0 := 0, b1 := 0, ver := 0, len := 0 }

/-- The other registers at cell start: SLIPW (R93), QSTALL (R125), CQQUOTA (R137), FTOL, FMAXLEN (R220), SMTHETA (R187). -/
def Misc.start : Misc :=
  { slipw := 2048, qstall := 4096, cqquota := 64, ftol := 0x3D70000000000000, fmaxlen := 1024, fpolicy := false,
    rootStart := 0, vctl := false, smtheta := 0x3E000000, smtag := 0, mctl := 0, iter := 0, cprogValid := false,
    cprogP := 0, cprogPc := 0, pbsel := 0, trcbase := 0, trcsize := 0, trcauto := false, trcpos := 0, trclost := 0, qhsel := 0,
    chridx := 0, rreq := 0, rgrant := 0, released := 0, drop := 0, waitGen := 0,
    waitTimed := none }

/-- Nothing in flight. -/
def Flight.none : Flight :=
  { cops := [], mcmd := Option.none, nest := Option.none, fop := Option.none, loads := [], cposts := [], stopped := Option.none, dropped := [] }

/-- The state of a cell at its start (R88), for a cell with an identity. -/
def Cell.start (st : Status) (id : Ident) (now : Nat) : Cell :=
  { status := st, frozen := false, raised := none, ident := id, roll := Roll.start id.entry id.cellno,
    run := Five.all EngRun.start, ckpt := Roll.start id.entry id.cellno, ckBytes := [], ckRegion := 0, ckBad := [], ckOwed := [],
    tmpl := Five.all (Vector.replicate 64 none), acc := Vector.replicate 64 Tile.zero, traps := Traps.start,
    ctx := Context.start, slots := Vector.replicate 8 PubSlot.none, blog := [], misc := Misc.start,
    flight := Flight.none, progress := now, owed := none, faultAt := 0, startLeft := [], frozenAt := 0, frozenOn := 0 }

/-- A command queue with nothing in it. -/
def CmdQueue.none : CmdQueue :=
  { entries := [], running := false, p := 0, kept := [], left := 0, halted := false, counts := [] }

/-- A core that runs no cell. -/
def Core.reset (enabled : Bool) : Core :=
  { cell := Cell.start .idle Ident.none 0, cq := Vector.replicate 4 CmdQueue.none, cturn := 0, cmoved := 0, micro := [],
    enabled := enabled, dperr := 0, pending := [], ballast := 0, ballastPend := [], ballastTill := 0, throttled := 0, view := none, rndkey0 := 0,
    rndkey1 := 0, eclaim := 0, hackReq := none, leave := none, slotAt := [], keep := none }

/-- A chronograph that has counted nothing: MIN is all ones (R354). -/
def Chrono.none : Chrono :=
  { count := 0, min := BitVec.allOnes 64, max := 0, bins := Vector.replicate 32 0 }

/-- A die at power-on: SLICE, AGESTEP (R325) and PINWAIT (R314) at their reset values, four spare sites (R6). -/
def Die.reset : Die :=
  { board := [], nextSeq := 1, spillBase := 0, spillSize := 0, spilled := [], sevBase := 0, sevSize := 0, sevq := [],
    slice := 2000, agestep := 1000, imgbase := 0, imgcount := 0, pinwait := 20, pinUse := 20, hackbase := 0,
    chrono := Vector.replicate 16 Chrono.none, tlb := [], spares := 4, nodes := [], ramp := [], images := [] }

/-- The power registers at power-on (R312, R314): the weights of classes 0-15 are 2, 4, 6, 8, 12, 52, 4, 16, 24, 40, 20, 32,
1, 4, 3 and 20. -/
def Power.reset : Power :=
  { rlimus := 0x003C003C, rlimms := 0x05DC05DC, rlims := 0x09600960,
    eweight := #v[0x0008000600040002, 0x001000040034000C, 0x0020001400280018, 0x0014000300040001], estatic := 72400,
    hbmact := 4096 }

/-- The governor at power-on. -/
def Governor.reset : Governor :=
  { set := Power.reset, use := Power.reset, breach := 0, meas := 0, power := 0, history := [], grants := [], ticks := 0,
    sampleAt := 0, staticAt := 0, hold := false, heldBefore := false, ballastOn := [], ballastSum := 0, idle := 0, acts := 0, actsBefore := [] }

/-- The Aedty core at power-on. -/
def Aedty.reset : Aedty :=
  { phase := 0, bootsrc := 0, testen := false, loaded := [], measure := [], mailReq := 0,
    mailReply := 0, mailStatus := 0, dumpBase := 0, dumpSize := 0, dumps := [], streams := [], closed := [], released := [],
    suspended := 0, suspendAt := 0, suspendAsked := false, suspending := false, resumeAsked := false, suspcnt := 0,
    stopped := false, msix := [] }

/-- A port that is down. -/
def Port.reset : Port := { up := false, qsc := false, lanes := 0, peer := 0, qscAt := 0 }

/-- The cores at power-on: on each die the sites 0-191 enabled and the last four spare (log entry 15). -/
def coresReset : Vector Core 392 :=
  let die := List.replicate 192 (Core.reset true) ++ List.replicate 4 (Core.reset false)
  ⟨⟨die ++ die⟩, by
    show (die ++ die).length = 392
    simp only [die, List.length_append, List.length_replicate]⟩

/-- The machine right after power-on: no cell runs, memory lists nothing, every register at its reset value. -/
def State.reset : State :=
  { cores := coresReset,
    dies := Vector.replicate 2 Die.reset, mem := [], poison := [], stores := [], pubs := [], segs := [], watch := [], gov := Governor.reset,
    ports := Vector.replicate 16 Port.reset, packets := [], peerStores := [], draining := [], aedty := Aedty.reset,
    cmdOwners := [], barBeats := [], now := 0, agenda := [], focus := (0, .A),
    cur := { core := 0, eng := .A, defer := false, undo := none }, freeCtr := 0, nextSerial := 1 }

end Sys2Proof.Machine
end

