-- ==== Sys2Proof/Machine/Num.lean ====
section
/-! DEFINITION. Exact numbers and their conversion to the formats of R59-R67: one value type, one rounding, one
conversion for every engine; correctly rounded reciprocals, roots, exponentials and logarithms (R177, R188, R189). -/

namespace Sys2Proof.Machine

/-! ## Events -/

/-- Saturations and NaN events of one operation (R67). -/
structure Events where
  sat : Nat
  nan : Nat
  deriving DecidableEq, Repr

/-- No event. -/
def Events.none : Events := ⟨0, 0⟩

/-- Events of two operations together. -/
def Events.add (a b : Events) : Events := ⟨a.sat + b.sat, a.nan + b.nan⟩

/-! ## Values -/

/-- A value: NaN, an infinity, or (-1)^neg * m * 2^e; zero keeps its sign. A value that is not dyadic is written with
more than a hundred bits of its magnitude and a last bit of 1, which lies between the same neighbours of every format as
the value itself and never on a tie. -/
inductive Val where
  | nan
  | inf (neg : Bool)
  | real (neg : Bool) (m : Nat) (e : Int)
  deriving DecidableEq, Repr

/-- Bits of a natural number. -/
def bitLen (n : Nat) : Nat := if n = 0 then 0 else Nat.log2 n + 1

/-- An integer as a value; zero is +0. -/
def Val.ofInt (i : Int) : Val := .real (i < 0) i.natAbs 0

/-- +0. -/
def Val.zero : Val := .real false 0 0

/-- The value is NaN. -/
def Val.isNan : Val → Bool
  | .nan => true
  | _ => false

/-- The value is zero. -/
def Val.isZero : Val → Bool
  | .real _ 0 _ => true
  | _ => false

/-- The sign of a value. -/
def Val.neg? : Val → Bool
  | .nan => false
  | .inf n => n
  | .real n _ _ => n

/-- The negated value. -/
def Val.neg : Val → Val
  | .nan => .nan
  | .inf n => .inf !n
  | .real n m e => .real (!n) m e

/-- The magnitude. -/
def Val.abs : Val → Val
  | .nan => .nan
  | .inf _ => .inf false
  | .real _ m e => .real false m e

/-- The signed integer m * 2^(e - e0), for e0 at most e. -/
def scaled (neg : Bool) (m : Nat) (e e0 : Int) : Int :=
  let n : Int := m * 2 ^ (e - e0).toNat
  if neg then -n else n

/-- The integer that a value of an integer format is. -/
def Val.int0 : Val → Int
  | .real n m e => scaled n m e 0
  | _ => 0

/-- The exact sum; `rdn` says that the rounding mode is rdn, which decides the sign of a zero sum (R66). -/
def Val.add (rdn : Bool) (a b : Val) : Val :=
  match a, b with
  | .nan, _ | _, .nan => .nan
  | .inf x, .inf y => if x = y then .inf x else .nan
  | .inf x, _ => .inf x
  | _, .inf y => .inf y
  | .real x m e, .real y n f =>
    if m = 0 && n = 0 then .real (if x = y then x else rdn) 0 0
    else
      let e0 := Min.min e f
      let s := scaled x m e e0 + scaled y n f e0
      if s = 0 then .real rdn 0 0 else .real (s < 0) s.natAbs e0

/-- The exact product (R66). -/
def Val.mul (a b : Val) : Val :=
  match a, b with
  | .nan, _ | _, .nan => .nan
  | .inf x, .inf y => .inf (x != y)
  | .inf x, .real y n _ => if n = 0 then .nan else .inf (x != y)
  | .real x m _, .inf y => if m = 0 then .nan else .inf (x != y)
  | .real x m e, .real y n f => .real (x != y) (m * n) (e + f)

/-- The quotient of two magnitudes, the second not zero. -/
def quotient (neg : Bool) (m : Nat) (e : Int) (n : Nat) (f : Int) : Val :=
  let sh := 130 + bitLen n - bitLen m
  let q := m * 2 ^ sh / n
  let r := m * 2 ^ sh % n
  if r = 0 then .real neg q (e - f - sh) else .real neg (2 * q + 1) (e - f - sh - 1)

/-- The quotient (R66). -/
def Val.div (a b : Val) : Val :=
  match a, b with
  | .nan, _ | _, .nan => .nan
  | .inf _, .inf _ => .nan
  | .inf x, .real y _ _ => .inf (x != y)
  | .real x _ _, .inf y => .real (x != y) 0 0
  | .real x m e, .real y n f =>
    if n = 0 then (if m = 0 then .nan else .inf (x != y)) else quotient (x != y) m e n f

/-- The order of two values that are not NaN: -0 equals +0. -/
def Val.lt (a b : Val) : Bool :=
  match a, b with
  | .nan, _ | _, .nan => false
  | .inf x, .inf y => x && !y
  | .inf x, _ => x
  | _, .inf y => !y
  | .real x m e, .real y n f => let e0 := Min.min e f; scaled x m e e0 < scaled y n f e0

/-- Two values that are not NaN are equal: -0 equals +0. -/
def Val.eq (a b : Val) : Bool := !a.isNan && !b.isNan && !a.lt b && !b.lt a

/-- The smaller of two values; NaN if either is; -0 is below +0 (R175). -/
def Val.min (a b : Val) : Val :=
  if a.isNan || b.isNan then .nan
  else if a.lt b then a else if b.lt a then b else if a.neg? then a else b

/-- The larger of two values; NaN if either is; -0 is below +0 (R175). -/
def Val.max (a b : Val) : Val :=
  if a.isNan || b.isNan then .nan
  else if a.lt b then b else if b.lt a then a else if a.neg? then b else a

/-! ## Rounding (R66) -/

/-- m * 2^e rounded to a multiple n of 2^g: the answer is n. -/
def roundTo (mode : Rnd) (neg : Bool) (m : Nat) (e g : Int) : Nat :=
  if g ≤ e then m * 2 ^ (e - g).toNat
  else
    let sh := (g - e).toNat
    let q := m / 2 ^ sh
    let r := m % 2 ^ sh
    let half := 2 ^ (sh - 1)
    let up : Bool :=
      match mode with
      | .rne => half < r || (r == half && q % 2 == 1)
      | .rna => half ≤ r
      | .rtz => false
      | .rdn => neg && r != 0
      | .rup => !neg && r != 0
    if up then q + 1 else q

/-! ## Float formats (R61) -/

/-- A float format: exponent and mantissa bits, bias, whether the top exponent holds infinity and NaN, the canonical NaN
where there is one, and the code of the largest finite value. -/
structure FFmt where
  eb : Nat
  mb : Nat
  bias : Nat
  ieee : Bool
  nanCode : Option Nat
  maxCode : Nat
  deriving DecidableEq, Repr

/-- f32 (R61). -/
def FFmt.f32 : FFmt := ⟨8, 23, 127, true, some 0x7FC00000, 0x7F7FFFFF⟩
/-- bf16 (R61). -/
def FFmt.bf16 : FFmt := ⟨8, 7, 127, true, some 0x7FC0, 0x7F7F⟩
/-- f16 (R61). -/
def FFmt.f16 : FFmt := ⟨5, 10, 15, true, some 0x7E00, 0x7BFF⟩
/-- f19, without the 13 low bits of its container (R61). -/
def FFmt.f19 : FFmt := ⟨8, 10, 127, true, some 0x3FE00, 0x3FBFF⟩
/-- FP64 (R222): binary64. -/
def FFmt.f64 : FFmt := ⟨11, 52, 1023, true, some 0x7FF8000000000000, 0x7FEFFFFFFFFFFFFF⟩
/-- e2m1 (R61). -/
def FFmt.e2m1 : FFmt := ⟨2, 1, 1, false, none, 0x7⟩
/-- e2m3 (R61). -/
def FFmt.e2m3 : FFmt := ⟨2, 3, 1, false, none, 0x1F⟩
/-- e3m2 (R61). -/
def FFmt.e3m2 : FFmt := ⟨3, 2, 3, false, none, 0x1F⟩
/-- e4m3 (R61). -/
def FFmt.e4m3 : FFmt := ⟨4, 3, 7, false, some 0x7F, 0x7E⟩
/-- e5m2 (R61). -/
def FFmt.e5m2 : FFmt := ⟨5, 2, 15, true, some 0x7E, 0x7B⟩

/-- The bits of a code below its sign. -/
def FFmt.bits (f : FFmt) : Nat := f.eb + f.mb

/-- The value of a code (R61). -/
def FFmt.decode (f : FFmt) (code : Nat) : Val :=
  let neg := code.testBit f.bits
  let mag := code % 2 ^ f.bits
  let ex := mag / 2 ^ f.mb
  let man := mag % 2 ^ f.mb
  if f.ieee && ex == 2 ^ f.eb - 1 then (if man = 0 then .inf neg else .nan)
  else if !f.ieee && f.nanCode == some mag then .nan
  else if ex = 0 then .real neg man (1 - (f.bias : Int) - f.mb)
  else .real neg (2 ^ f.mb + man) ((ex : Int) - f.bias - f.mb)

/-- The code of the magnitude n * 2^g on the format's grid, with the exponent unbounded above. -/
def FFmt.codeOf (f : FFmt) (n : Nat) (g : Int) : Nat :=
  if n = 0 then 0
  else
    let bl := bitLen n
    let top : Int := (bl : Int) - 1 + g
    let low : Int := 1 - (f.bias : Int) - f.mb
    if top < 1 - (f.bias : Int) then n * 2 ^ (g - low).toNat
    else
      let man := if bl ≤ f.mb + 1 then n * 2 ^ (f.mb + 1 - bl) else n / 2 ^ (bl - (f.mb + 1))
      (top + f.bias).toNat * 2 ^ f.mb + (man - 2 ^ f.mb)

/-- A code with a sign. -/
def FFmt.signed (f : FFmt) (neg : Bool) (mag : Nat) : Nat := if neg then 2 ^ f.bits + mag else mag

/-- The code of an infinity. -/
def FFmt.infCode (f : FFmt) : Nat := (2 ^ f.eb - 1) * 2 ^ f.mb

/-- The code of a magnitude rounded to the grid, with the exponent unbounded above (R66). -/
def FFmt.round (f : FFmt) (mode : Rnd) (neg : Bool) (m : Nat) (e : Int) : Nat :=
  let low : Int := 1 - (f.bias : Int) - f.mb
  let g : Int := Max.max low ((bitLen m : Int) + e - (f.mb + 1))
  f.codeOf (roundTo mode neg m e g) g

/-- convert(v, fmt, mode, sb) for a float format (R67). -/
def FFmt.convert (f : FFmt) (mode : Rnd) (sb : Bool) (v : Val) : Nat × Events :=
  match v with
  | .nan => match f.nanCode with
    | some c => (c, Events.none)
    | none => (0, ⟨0, 1⟩)
  | .inf n => if f.ieee then (f.signed n f.infCode, Events.none) else (f.signed n f.maxCode, ⟨1, 0⟩)
  | .real n m e =>
    let c := f.round mode n m e
    if c ≤ f.maxCode then (f.signed n c, Events.none)
    else
      let toInf := !(sb || !f.ieee) && match mode with
        | .rne | .rna => true
        | .rup => !n
        | .rdn => n
        | .rtz => false
      (f.signed n (if toInf then f.infCode else f.maxCode), ⟨1, 0⟩)

/-- rne(v, fmt) as a code, whatever it counts. -/
def FFmt.rne (f : FFmt) (v : Val) : Nat := (f.convert .rne false v).1

/-- A value rounded to a format by rne, as a value. -/
def FFmt.near (f : FFmt) (v : Val) : Val := f.decode (f.rne v)

/-! ## Integer formats (R60, R67) -/

/-- convert(v, fmt, mode, sb) for an integer format from lo to hi (R67). -/
def convertInt (lo hi : Int) (mode : Rnd) (sb : Bool) (v : Val) : Int × Events :=
  let indef := if lo < 0 then lo else hi
  match v with
  | .nan => (0, ⟨0, 1⟩)
  | .inf n => (if sb then (if n then lo else hi) else indef, ⟨1, 0⟩)
  | .real n m e =>
    let r : Int := roundTo mode n m e 0
    let r := if n then -r else r
    if r < lo || hi < r then (if sb then (if n then lo else hi) else indef, ⟨1, 0⟩) else (r, Events.none)

/-- The low n bits of a code as a two's complement integer. -/
def sextNat (n : Nat) (code : Nat) : Int :=
  let v := code % 2 ^ n
  if v.testBit (n - 1) then (v : Int) - 2 ^ n else v

/-- The n-bit code of an integer. -/
def intCode (n : Nat) (i : Int) : Nat := (i % 2 ^ n).toNat

end Sys2Proof.Machine

namespace Sys2Proof
open Machine

/-! ## Lane types (R33, R75, R173) -/

/-- The float format of a float lane type. -/
def Ty.ffmt : Ty → Option FFmt
  | .f32 => some .f32 | .bf16 => some .bf16 | .f16 => some .f16
  | .s32 | .n32 | .s16 | .n16 | .s8 => none

/-- The width of a lane type. -/
def Ty.width : Ty → Nat
  | .f32 | .s32 | .n32 => 32
  | .bf16 | .f16 | .s16 | .n16 => 16
  | .s8 => 8

/-- A signed integer lane type. -/
def Ty.isSigned : Ty → Bool
  | .s32 | .s16 | .s8 => true
  | _ => false

/-- The least value of an integer lane type. -/
def Ty.lo (t : Ty) : Int := if t.isSigned then -(2 ^ (t.width - 1)) else 0

/-- The greatest value of an integer lane type. -/
def Ty.hi (t : Ty) : Int := if t.isSigned then 2 ^ (t.width - 1) - 1 else 2 ^ t.width - 1

/-- The integer that a lane holds as an integer type. -/
def Ty.int (t : Ty) (x : W32) : Int := if t.isSigned then sextNat t.width x.toNat else (x.toNat % 2 ^ t.width : Nat)

/-- val(x, T): a lane read as a type (R75). -/
def Ty.val (t : Ty) (x : W32) : Val :=
  match t.ffmt with
  | some f => f.decode (x.toNat % 2 ^ t.width)
  | none => Val.ofInt (t.int x)

/-- The lane of an integer taken modulo the type's width and extended (R173). -/
def Ty.lane (t : Ty) (i : Int) : W32 :=
  let v := intCode t.width i
  if t.isSigned then BitVec.ofInt 32 (sextNat t.width v) else BitVec.ofNat 32 v

/-- The lane that convert gives for a type (R67, R75). -/
def Ty.convert (t : Ty) (mode : Rnd) (sb : Bool) (v : Val) : W32 × Events :=
  match t.ffmt with
  | some f => let (c, ev) := f.convert mode sb v; (BitVec.ofNat 32 c, ev)
  | none => let (i, ev) := convertInt t.lo t.hi mode sb v; (BitVec.ofInt 32 i, ev)

end Sys2Proof

namespace Sys2Proof.Machine

/-! ## Roots, exponentials and logarithms, correctly rounded

Fixed point with 320 bits after the point; the results are truncated there and given a last bit of 1. -/

/-- Bits after the point. -/
def fixBits : Nat := 320

/-- The integer square root, bit by bit from bit n - 1 of the root. -/
def isqrtFrom (v : Nat) : Nat → Nat → Nat
  | r, 0 => r
  | r, n + 1 =>
    let t := r + 2 ^ n
    isqrtFrom v (if t * t ≤ v then t else r) n

/-- The integer square root. -/
def isqrt (v : Nat) : Nat := isqrtFrom v 0 (bitLen v / 2 + 1)

/-- The square root of a positive magnitude. -/
def sqrtMag (m : Nat) (e : Int) : Val :=
  let sh : Nat := 260 + (if (e - 260) % 2 = 0 then 0 else 1)
  let v := m * 2 ^ sh
  let r := isqrt v
  let h : Int := (e - sh) / 2
  if r * r = v then .real false r h else .real false (2 * r + 1) (h - 1)

/-- 1 / sqrt of a positive magnitude. -/
def rsqrtMag (m : Nat) (e : Int) : Val :=
  let e1 : Int := if e % 2 = 0 then e else e - 1
  let m1 := if e % 2 = 0 then m else 2 * m
  let k := 150 + bitLen m1
  let q := 2 ^ (2 * k) / m1
  let r := isqrt q
  if 2 ^ (2 * k) % m1 = 0 && r * r = q then .real false r (-(e1 / 2) - k) else .real false (2 * r + 1) (-(e1 / 2) - k - 1)

/-- z + z^3/3 + z^5/5 + ..., n more terms, in fixed point: p is the current odd power of z and z2 is z squared. -/
def atanhFrom (z2 : Nat) : Nat → Nat → Nat → Nat → Nat
  | _, _, acc, 0 => acc
  | p, k, acc, n + 1 => atanhFrom z2 (p * z2 / 2 ^ fixBits) (k + 2) (acc + p / k) n

/-- ln of a number from 1 to 2, given in fixed point: 2 atanh((g - 1) / (g + 1)). -/
def lnFix (g : Nat) : Nat :=
  let one := 2 ^ fixBits
  let z := (g - one) * one / (g + one)
  2 * atanhFrom (z * z / one) z 1 0 105

/-- ln 2 in fixed point. -/
def ln2Fix : Nat := lnFix (2 ^ (fixBits + 1))

/-- 1 + y + y^2/2! + ..., n more terms, in fixed point. -/
def expFrom (y : Nat) : Nat → Nat → Nat → Nat → Nat
  | _, _, acc, 0 => acc
  | t, k, acc, n + 1 =>
    let t' := t * y / (k * 2 ^ fixBits)
    expFrom y t' (k + 1) (acc + t') n

/-- exp of a number from 0 to 1 in fixed point. -/
def expFix (y : Nat) : Nat := expFrom y (2 ^ fixBits) 1 (2 ^ fixBits) 75

/-- An inexact fixed-point magnitude times 2^k. -/
def ofFix (neg : Bool) (v : Nat) (k : Int) : Val := .real neg (2 * v + 1) (k - fixBits - 1)

/-- A signed value in fixed point, rounded down. -/
def toFix (neg : Bool) (m : Nat) (e : Int) : Int :=
  let v : Int := if 0 ≤ e + fixBits then m * 2 ^ (e + fixBits).toNat else m / 2 ^ (-(e + fixBits)).toNat
  if neg then -v else v

/-- 2^x for a finite x; beyond 2^12 in magnitude the result is far outside every format. -/
def exp2Real (neg : Bool) (m : Nat) (e : Int) : Val :=
  if m = 0 then .real false 1 0
  else if 12 < (bitLen m : Int) + e then .real false 1 (if neg then -4000 else 4000)
  else
    let x := toFix neg m e
    let one : Int := 2 ^ fixBits
    let i := x / one
    let f := (x % one).toNat
    if f = 0 then .real false 1 i else ofFix false (expFix (f * ln2Fix / 2 ^ fixBits)) i

/-- exp(x) for a finite x; beyond 2^12 in magnitude the result is far outside every format. -/
def expReal (neg : Bool) (m : Nat) (e : Int) : Val :=
  if m = 0 then .real false 1 0
  else if 12 < (bitLen m : Int) + e then .real false 1 (if neg then -4000 else 4000)
  else
    let x := toFix neg m e
    let l : Int := ln2Fix
    ofFix false (expFix (x % l).toNat) (x / l)

/-- log2 in fixed point of a positive magnitude: the integer part is exact where the magnitude is a power of two. -/
def log2Real (m : Nat) (e : Int) : Val :=
  let k : Int := (bitLen m : Int) - 1 + e
  if m = 2 ^ (bitLen m - 1) then Val.ofInt k
  else
    let g := m * 2 ^ fixBits / 2 ^ (bitLen m - 1)
    let v : Int := k * 2 ^ fixBits + (lnFix g * 2 ^ fixBits / ln2Fix : Nat)
    ofFix (v < 0) v.natAbs 0

/-- ln of a natural number of at least 1. -/
def lnNat (n : Nat) : Val :=
  if n = 1 then .zero
  else
    let k := bitLen n - 1
    ofFix false (k * ln2Fix + lnFix (n * 2 ^ fixBits / 2 ^ k)) 0

/-- v.exp2 (R177). -/
def Val.exp2 : Val → Val
  | .nan => .nan
  | .inf n => if n then .zero else .inf false
  | .real n m e => exp2Real n m e

/-- v.log2 (R177). -/
def Val.log2 : Val → Val
  | .nan => .nan
  | .inf n => if n then .nan else .inf false
  | .real n m e => if m = 0 then .inf true else if n then .nan else log2Real m e

/-- v.rcp (R177). -/
def Val.rcp (v : Val) : Val := Val.div (.real false 1 0) v

/-- v.rsq (R177). -/
def Val.rsq : Val → Val
  | .nan => .nan
  | .inf n => if n then .nan else .zero
  | .real n m e => if m = 0 then .inf n else if n then .nan else rsqrtMag m e

/-- exp, as E(y) of R188 takes it before its one rounding. -/
def Val.exp : Val → Val
  | .nan => .nan
  | .inf n => if n then .zero else .inf false
  | .real n m e => expReal n m e

end Sys2Proof.Machine
end

