-- ==== Sys2Proof/Config.lean ====
section
/-! DEFINITION. What one implementation fixes, and the free values: constants with no body, of which nothing can be
proved, drawn for what the spec leaves open. -/

namespace Sys2Proof.Config

/-- HBM4 of this device in bytes (R291). -/
def hbmBytes : Nat := 384 * 2 ^ 30

/-- Core cycles in a microsecond (R303: 330 cycles in 100 ns). -/
def cyclesPerUs : Nat := 3300

/-- Core cycles in a power sample (R303). -/
def cyclesPerSample : Nat := 330

/-- A free byte of a switch image's small state, by the image's draw and the byte's offset (R323; log entry 14). -/
opaque freeImageByte : Nat → Nat → Byte

/-- A free 64-bit value, by its draw. -/
opaque freeWord : Nat → Word

/-- SHA-512 (FIPS 180-4), not written out in the spec (log entry 11). -/
opaque sha512 : List Byte → BitVec 512

/-- The Ed25519 signature (RFC 8032) by the device identity key (log entry 11). -/
opaque sign : List Byte → BitVec 512

/-- Whether an Ed25519 signature of a die image verifies under the fused public key (log entry 11). -/
opaque verifyImage : List Byte → Bool

/-- The SHA-512 digest of the Aedty core's firmware, verified first (R345, R366; log entry 11). -/
opaque firmwareDigest : BitVec 512

/-- Whether the Aedty core's firmware verifies under the fused root key (R345; log entry 11). -/
opaque firmwareGood : Bool

/-- The number of die images in the manifest (R366; log entry 16). -/
opaque manifest : Nat

/-- A die image in the SPI flash (R365; log entry 16). -/
opaque flashImage : Nat → List Byte

/-- What the boot writes into HBM4 from the verified die images: stretches of bytes by address (R366; log entry 4). -/
opaque bootMemory : List (List Byte) → List (Nat × List Byte)

/-- What the boot writes into the domain table from the verified die images: domains and their entries (R366; log entry 4). -/
opaque bootTable : List (List Byte) → List (BitVec 16 × BitVec 64)

/-- The record of a die's supervisor launch at boot, from the verified die images and the die's number; SUPV is 1 and PRIO 7 whatever
it holds (R366; log entry 4). -/
opaque bootRecord : List (List Byte) → Nat → BitVec 512

/-- The text header of a die's supervisor launch at boot, from the verified die images and the die's number (R366; log entry 4). -/
opaque bootHeader : List (List Byte) → Nat → BitVec 512

/-- The device's Ed25519 public key (R368; log entry 11). -/
opaque publicKey : BitVec 256

end Sys2Proof.Config
end

