-- ==== Sys2Proof/Machine/Atomic.lean ====
section
/-! DEFINITION. What amo and cas store (R111, R112). -/

namespace Sys2Proof.Machine

/-- An old value as a signed 64-bit integer compared with a register's. -/
def signedLt (old : Nat) (v : Word) : Bool := (BitVec.ofNat 64 old).toInt < v.toInt

/-- The access size of an atomic (R111). -/
def AmoOp.size : AmoOp → Nat
  | .faddF32 | .fmaxF32 => 4
  | _ => 8

/-- The sum of two f32 codes, rounded once by rne (R111). -/
def addF32 (a b : Nat) : Nat := FFmt.f32.rne (Val.add false (FFmt.f32.decode a) (FFmt.f32.decode b))

/-- The larger of two f32 codes (R111). -/
def maxF32 (a b : Nat) : Nat := FFmt.f32.rne (Val.max (FFmt.f32.decode a) (FFmt.f32.decode b))

/-- The value that an atomic stores, from the old value and its operand (R111). -/
def AmoOp.result (op : AmoOp) (old : Nat) (v : Word) : Nat :=
  match op with
  | .add => (BitVec.ofNat 64 old + v).toNat
  | .min => if signedLt old v then old else v.toNat
  | .max => if signedLt old v then v.toNat else old
  | .and => old &&& v.toNat
  | .or => old ||| v.toNat
  | .xor => old ^^^ v.toNat
  | .xchg => v.toNat
  | .faddF32 => addF32 old (v.toNat % 2 ^ 32)
  | .fmaxF32 => maxF32 old (v.toNat % 2 ^ 32)

/-- What a read-modify-write stores, from the old value; a failed cas stores nothing. -/
def Rmw.result (r : Rmw) (old : Nat) : Option Nat :=
  match r with
  | .amo op v => some (AmoOp.result op old v)
  | .cas e v => if old = e.toNat then some v.toNat else none

/-- The access size of a read-modify-write. -/
def Rmw.size : Rmw → Nat
  | .amo op _ => AmoOp.size op
  | .cas _ _ => 8

end Sys2Proof.Machine
end

