-- ==== Sys2Proof/Machine/Memory.lean ====
section
/-! DEFINITION. The one memory of the device: locations, the canonical list of bytes, and the stores that are not
yet performed at every scope (R242-R244). -/

namespace Sys2Proof.Machine

/-! ## Locations

Every byte of the device has one location, whatever address reaches it. -/

/-- A byte of physical memory (R291, R332). -/
def locPhys (pa : Nat) : Nat := pa

/-- A byte of a core's scratchpad (R141). -/
def locPad (k : CoreId) (off : Nat) : Nat := 0x8000000000000000 + k.val * 0x200000 + off

/-- A byte of shared bank memory (R147). -/
def locShared (off : Nat) : Nat := 0xA000000000000000 + off

/-- A byte of system space (R107) as a die reaches it: the tree descriptors (R341) and the chronographs (R354) are each
die's own, everything else is the device's. -/
def locSys (d : DieId) (off : Nat) : Nat :=
  let own := (0x1000000 ≤ off && off < 0x1100000) || 0x1300000 ≤ off
  0xF000000000000000 + (if own then d.val * 0x1000000000000000 else 0) + off

/-- A byte of the HBM4 of the device with a fabric number (R332, R333), whatever channel reaches it. -/
def locPeer (dev off : Nat) : Nat := 0x20000000000000 + dev * 2 ^ 39 + off

/-- The peer channel that a location is reached through (R332). -/
def peerChannel (x : Nat) : Option (BitVec 12) :=
  if 0x8000000000000 ≤ x && x < 0x10000000000000 then some (BitVec.ofNat 12 (x / 2 ^ 39)) else none

/-! ## The list of bytes -/

namespace Memory

/-- The form: addresses strictly rising and no byte equal to what an unlisted address reads as, zero. -/
def wf : List Host.Cell → Bool
  | [] => true
  | [(_, b)] => b != 0
  | (a, b) :: (a', b') :: m => b != 0 && a < a' && wf ((a', b') :: m)

/-- The byte at a location; an unlisted one reads as zero (log entry 1). -/
def get : List Host.Cell → Nat → Byte
  | [], _ => 0
  | (a, b) :: m, x => if a = x then b else get m x

/-- One byte written: writing zero removes the entry. -/
def put : List Host.Cell → Nat → Byte → List Host.Cell
  | [], x, v => if v = 0 then [] else [(x, v)]
  | (a, b) :: m, x, v =>
    if x < a then (if v = 0 then (a, b) :: m else (x, v) :: (a, b) :: m)
    else if x = a then (if v = 0 then m else (x, v) :: m)
    else (a, b) :: put m x v

/-- Consecutive bytes written. -/
def putList (m : List Host.Cell) (x : Nat) : List Byte → List Host.Cell
  | [] => m
  | b :: bs => putList (put m x b) (x + 1) bs

/-- The bytes at consecutive locations. -/
def getList (m : List Host.Cell) (x : Nat) : Nat → List Byte
  | 0 => []
  | n + 1 => get m x :: getList m (x + 1) n

/-- Every byte from lo up to and not including hi becomes zero. -/
def clear (m : List Host.Cell) (lo hi : Nat) : List Host.Cell := m.filter fun c => !(lo ≤ c.1 && c.1 < hi)

end Memory

/-! ## Little-endian values -/

/-- The value of bytes, the first the least significant (R2). -/
def leNat : List Byte → Nat
  | [] => 0
  | b :: bs => b.toNat + 256 * leNat bs

/-- The low n bytes of a value, the least significant first (R2). -/
def leBytes : Nat → Nat → List Byte
  | 0, _ => []
  | n + 1, v => BitVec.ofNat 8 v :: leBytes n (v / 256)

/-- Eight bytes as a 64-bit value. -/
def leWord (bs : List Byte) : Word := BitVec.ofNat 64 (leNat bs)

/-! ## Observers and pending stores -/

/-- An observer (R242). An engine carries the issued address it reads by, for granule forwarding (R244). -/
inductive Obs where
  | engine (core : CoreId) (e : Eng) (addr : Word)
  /-- A command queue, a bank or another agent of a die. -/
  | die (d : DieId)
  | device
  | fabric
  | host
  deriving DecidableEq, Repr

/-- The granule of an address (R243). -/
def granule (a : Nat) : Nat := a / 8

/-- A store performed beyond the cell has its place in its granule's order (R243). -/
def PStore.placed (p : PStore) : Bool := 2 ≤ p.level

/-- A placed store is performed at the scope of an observer. -/
def PStore.seenBy (p : PStore) (o : Obs) : Bool :=
  match o with
  | .engine k _ _ => 3 ≤ p.level || (2 ≤ p.level && dieOf k == dieOf p.core)
  | .die d => 3 ≤ p.level || (2 ≤ p.level && d == dieOf p.core)
  | .device => 3 ≤ p.level
  | .fabric => 4 ≤ p.level
  | .host => 5 ≤ p.level

/-- A store performed at cell scope only, as seen from its own cell (R242). -/
def PStore.local_ (p : PStore) (o : Obs) : Bool :=
  match o with
  | .engine k _ _ => p.level == 1 && k == p.core
  | _ => false

/-- A store of the reading engine itself, by its issued address (R244). -/
def PStore.own (p : PStore) (o : Obs) : Bool :=
  match o with
  | .engine k e a => p.level == 0 && k == p.core && e == p.eng && granule a.toNat == granule p.addr.toNat
  | _ => false

/-- The byte a store holds for a location. -/
def PStore.at? (p : PStore) (x : Nat) : Option Byte := if p.loc ≤ x then p.bytes[x - p.loc]? else none

/-- The last of the stores of a class that holds a location. -/
def lastOf (cls : PStore → Bool) (x : Nat) : List PStore → Option Byte → Option Byte
  | [], r => r
  | p :: ps, r => lastOf cls x ps (if cls p then (p.at? x).or r else r)

/-- The byte an observer reads at a location: its own earlier store, else the cell's, else the last placed store that is
performed for it, else memory. -/
def State.peekByte (s : State) (o : Obs) (x : Nat) : Byte :=
  match lastOf (fun p => p.own o) x s.stores none with
  | some b => b
  | none =>
  match lastOf (fun p => p.local_ o) x s.stores none with
  | some b => b
  | none =>
  match lastOf (fun p => p.placed && p.seenBy o) x s.stores none with
  | some b => b
  | none => Memory.get s.mem x

/-- The observer reading d bytes further on. -/
def Obs.shift (o : Obs) (d : Nat) : Obs :=
  match o with
  | .engine k e a => .engine k e (a + BitVec.ofNat 64 d)
  | o => o

/-- The bytes an observer reads at consecutive locations. -/
def State.peekFrom (s : State) (o : Obs) (x : Nat) : Nat → Nat → List Byte
  | _, 0 => []
  | d, n + 1 => s.peekByte (o.shift d) (x + d) :: s.peekFrom o x (d + 1) n

/-- The n bytes an observer reads at a location. -/
def State.peek (s : State) (o : Obs) (x n : Nat) : List Byte := s.peekFrom o x 0 n

/-- Bytes split at granules: location, issued address and bytes of each piece. -/
def pieces (addr : Word) (x : Nat) (bs : List Byte) : Nat → List (Word × Nat × List Byte)
  | 0 => []
  | fuel + 1 =>
    if bs.isEmpty then []
    else
      let n := 8 - x % 8
      (addr, x, bs.take n) :: pieces (addr + BitVec.ofNat 64 n) (x + n) (bs.drop n) fuel

/-- The poison that bytes written at x leave: a granule written whole is clean (R295). -/
def poisonAfter (poison : List Nat) (x n : Nat) : List Nat :=
  if poison.isEmpty then poison else poison.filter fun g => !(x ≤ g && g + 8 ≤ x + n)

/-- The watched storage that bytes written at x leave: what a write touches has been written since (R297). -/
def watchAfter (watch : List (Nat × Nat × Nat)) (x n : Nat) : List (Nat × Nat × Nat) :=
  if watch.isEmpty then watch else watch.filter fun w => !(x < w.2.1 + w.2.2 && w.2.1 < x + n)

/-- A granule becomes poisoned (R295). -/
def State.addPoison (s : State) (x : Nat) : State :=
  let g := x / 8 * 8
  if s.poison.contains g then s else { s with poison := g :: s.poison }

/-- Bytes performed at every scope. -/
def State.pour (s : State) (x : Nat) (bs : List Byte) : State :=
  { s with
    mem := Memory.putList s.mem x bs, poison := poisonAfter s.poison x bs.length,
    watch := watchAfter s.watch x bs.length }

/-- Pending stores performed at every scope, in order. -/
def State.pourAll (s : State) : List PStore → State
  | [] => s
  | p :: ps => (s.pour p.loc p.bytes).pourAll ps

/-- A store, or a piece of it, comes before another one of its engine: by the count of the instruction, and within one instruction by
the piece, which ascend with addresses, elements and lanes (R181, R191, R244). -/
def PStore.earlier (p q : PStore) : Bool := p.seq < q.seq || (p.seq == q.seq && p.part < q.part)

/-- An engine issued a store after another one (R244). -/
def PStore.after (q p : PStore) : Bool := p.serial == q.serial && p.eng == q.eng && p.earlier q

/-- The number of the next piece of an engine's store instruction. -/
def State.nextPart (s : State) (serial : Nat) (e : Eng) (seq : Nat) : Nat :=
  s.stores.foldl (fun n p => if p.serial == serial && p.eng == e && p.seq == seq then Nat.max n (p.part + 1) else n) 0

/-- A store cannot take a place in its granule's order before another one has (R243, R244): one that has its place, one of its own
engine before it, or one that its cell has seen performed. -/
def PStore.follows (q p : PStore) : Bool :=
  granule q.loc == granule p.loc
    && (p.placed || (!q.placed && p.serial == q.serial && (p.level == 1 || (p.eng == q.eng && p.earlier q))))

/-- The selected stores become performed at a level: 1 cell, 2 die, 3 device, 4 fabric, 5 every scope. What they follow in their
granules' order is performed there first (R243), and what their engines issued before them is performed at cell scope (R244). -/
def State.perform (s : State) (sel : PStore → Bool) (lvl : Nat) : State :=
  let below (p : PStore) : Bool := 5 ≤ lvl || p.level < lvl
  let hit := s.stores.filter fun p => sel p && below p
  let lift (p : PStore) : PStore := if p.level == 0 && hit.any (·.after p) then { p with level := 1 } else p
  if hit.isEmpty then s
  else if lvl ≤ 1 then
    { s with stores := s.stores.map fun p => if sel p && p.level < lvl then { p with level := lvl } else lift p }
  else
    let must (p : PStore) : Bool := below p && (sel p || hit.any (·.follows p))
    let old := s.stores.filter fun p => must p && p.placed
    let new := s.stores.filter fun p => must p && !p.placed
    let rest := (s.stores.filter fun p => !must p).map lift
    if 5 ≤ lvl then { (s.pourAll old).pourAll new with stores := rest }
    else
      { s with stores :=
          (s.stores.filter (·.placed)).map (fun p => if must p then { p with level := lvl } else p)
            ++ new.map (fun p => { p with level := lvl })
            ++ (s.stores.filter fun p => !p.placed && !must p).map lift }

/-- The stores that an engine has issued are performed at cell scope, in order, before its access at a granule's home (R244). -/
def State.liftOwn (s : State) (o : Obs) : State :=
  match o with
  | .engine k e _ =>
    { s with stores := s.stores.map fun p => if p.level == 0 && p.core == k && p.eng == e then { p with level := 1 } else p }
  | _ => s

/-- Before an access at a granule's home by an observer (R113): every placed store of the bytes' granules, and for an
engine the stores of its cell that it must see, take their place before it. -/
def State.settle (s : State) (o : Obs) (x n : Nat) : State :=
  if s.stores.isEmpty then s
  else
    (s.liftOwn o).perform (fun p =>
      (granule x ≤ granule (p.loc + p.bytes.length - 1) && granule p.loc ≤ granule (x + n - 1))
        && (p.placed || match o with
            | .engine k e _ => p.core == k && (1 ≤ p.level || p.eng == e)
            | _ => false)) 5

/-- Bytes written at their home by an observer, performed at every scope. -/
def State.pokeHome (s : State) (o : Obs) (x : Nat) (bs : List Byte) : State :=
  if bs.isEmpty then s else (s.settle o x bs.length).pour x bs

/-- A granule that the bytes touch is poisoned and no pending store covers it for the observer (R295). -/
def State.poisoned (s : State) (o : Obs) (x n : Nat) : Option Nat :=
  s.poison.find? fun g =>
    g < x + n && x < g + 8 && !(s.stores.any fun p =>
      p.loc == g && p.bytes.length == 8 && (p.own o || p.local_ o || (p.placed && p.seenBy o)))

end Sys2Proof.Machine
end

