-- ==== Sys2Proof/Machine/Ops.lean ====
section
/-! DEFINITION. The named operations over the state: the cursor, registers, queues, tokens, beats, translation and
access checks, and the taking of faults. -/

namespace Sys2Proof.Machine

/-! ## The cursor -/

/-- The core of the word or event being executed. -/
def State.core (s : State) : Core := s.cores[s.cur.core]

/-- The core under the cursor replaced. -/
def State.setCore (s : State) (c : Core) : State := { s with cores := s.cores.set s.cur.core c }

/-- The cell under the cursor. -/
def State.cell (s : State) : Cell := s.core.cell

/-- The cell under the cursor replaced. -/
def State.setCell (s : State) (c : Cell) : State := s.setCore { s.core with cell := c }

/-- What a rollback restores, of the cell under the cursor. -/
def State.roll (s : State) : Roll := s.cell.roll

/-- What a rollback restores, replaced. -/
def State.setRoll (s : State) (r : Roll) : State := s.setCell { s.cell with roll := r }

/-- The cursor moved to a core. -/
def State.on (s : State) (k : CoreId) : State := { s with cur := { s.cur with core := k } }

/-- The die under the cursor. -/
def State.dieId (s : State) : DieId := dieOf s.cur.core

/-- A die. -/
def State.die (s : State) (d : DieId) : Die := s.dies[d]

/-- A die replaced. -/
def State.setDie (s : State) (d : DieId) (x : Die) : State := { s with dies := s.dies.set d x }

/-- The running state of an engine of the cell. -/
def State.run (s : State) (e : Eng) : EngRun := s.cell.run.get e

/-- The running state of an engine replaced. -/
def State.setRun (s : State) (e : Eng) (r : EngRun) : State := s.setCell { s.cell with run := s.cell.run.set e r }

/-- The path of an engine. -/
def State.path (s : State) (e : Eng) : Path := s.roll.paths.get e

/-- The path of an engine replaced. -/
def State.setPath (s : State) (e : Eng) (p : Path) : State := s.setRoll { s.roll with paths := s.roll.paths.set e p }

/-- The work in flight of the cell replaced. -/
def State.setFlight (s : State) (f : Flight) : State := s.setCell { s.cell with flight := f }

/-- The work in flight of the cell. -/
def State.flight (s : State) : Flight := s.cell.flight

/-- The registers of the cell that no rollback restores, replaced. -/
def State.setMisc (s : State) (m : Misc) : State := s.setCell { s.cell with misc := m }

/-- The registers of the cell that no rollback restores. -/
def State.misc (s : State) : Misc := s.cell.misc

/-- The context registers replaced. -/
def State.setCtx (s : State) (c : Context) : State := s.setCell { s.cell with ctx := c }

/-- The domain of the cell. -/
def State.domain (s : State) : BitVec 16 := s.cell.ident.domain

/-- The cell runs in supervisor mode (R88). -/
def State.supv (s : State) : Bool := s.cell.ident.supv

/-- The cell's engines work: it runs and is not frozen. -/
def State.working (s : State) : Bool := s.cell.status == .running && !s.cell.frozen

/-- The device is not suspended (R326). -/
def State.awake (s : State) : Bool := s.aedty.suspended == 0

/-! ## Outcomes of a body -/

/-- Why an instruction does not retire. -/
inductive Stop where
  /-- It waits, with the limit in cycles after which the wait becomes a fault. -/
  | wait (w : Why) (limit : Option Nat)
  /-- It waits, in a state that keeps what its attempt has performed (R114). -/
  | waitIn (s : State) (w : Why) (limit : Option Nat)
  /-- It takes a fault and has no effect. -/
  | fault (f : Flt)
  /-- It takes a fault in a state that keeps the effects its description names. -/
  | faultIn (s : State) (f : Flt)
  /-- Another engine takes a fault at the word, in a state (R336). -/
  | faultBy (s : State) (e : Eng) (f : Flt)

/-- A result, or why there is none. -/
abbrev Res (α : Type) := Except Stop α

/-- An engine-precise fault with a code and no address. -/
def Flt.mk' (k : Kind) (c : Nat) : Flt := { kind := k, code := BitVec.ofNat 32 c }

/-- Raise a fault (R20). -/
def raise {α : Type} (k : Kind) (c : Nat) : Res α := .error (.fault (Flt.mk' k c))

/-- Raise a fault that records an address (R290). -/
def raiseAt {α : Type} (k : Kind) (c : Nat) (addr : Word) : Res α :=
  .error (.fault { kind := k, code := BitVec.ofNat 32 c, addr := addr })

/-- Raise a fault unless a condition holds. -/
def require (b : Bool) (k : Kind) (c : Nat) : Res Unit := if b then .ok () else raise k c

/-- Raise a fault that records an address, unless a condition holds. -/
def requireAt (b : Bool) (k : Kind) (c : Nat) (addr : Word) : Res Unit := if b then .ok () else raiseAt k c addr

/-- A fault as a result's failure. -/
def liftFlt {α : Type} (r : Except Flt α) : Res α :=
  match r with
  | .ok a => .ok a
  | .error f => .error (.fault f)

/-! ## Scalar registers (R97) -/

/-- A scalar register; x0 reads zero. -/
def State.x (s : State) (r : Fin 32) : Word := if r = 0 then 0 else s.roll.x[r]

/-- A scalar register written; x0 discards the write. -/
def State.setX (s : State) (r : Fin 32) (v : Word) : State :=
  if r = 0 then s else s.setRoll { s.roll with x := s.roll.x.set r v }

/-- A load whose data is outstanding goes to this register (R108). -/
def State.xBusy (s : State) (r : Fin 32) : Bool := s.flight.loads.any fun l => l.dst == .reg r && r != 0

/-! ## Beats and order (R245, R351) -/

/-- One more, holding at all ones. -/
def holdSucc {n : Nat} (b : BitVec n) : BitVec n := if b = BitVec.allOnes n then b else b + 1

/-- A sum that holds at all ones. -/
def holdAdd {n : Nat} (b : BitVec n) (k : Nat) : BitVec n := BitVec.ofNat n (Nat.min (b.toNat + k) (2 ^ n - 1))

/-- The greater count of each engine. -/
def Known.join (a b : Known) : Known := ⟨max a.a b.a, max a.c b.c, max a.m b.m, max a.v b.v, max a.f b.f⟩

/-- What an engine's next send carries: what it knows, with its own stores. -/
def EngRun.carries (r : EngRun) (e : Eng) : Known := r.known.set e r.issued

/-- A send of an engine raises its beat by one (R351). -/
def State.send (s : State) (e : Eng) : State :=
  s.setRun e { s.run e with beat := holdSucc (s.run e).beat }

/-- A receipt of an engine: its beat passes the carried one, and it knows what the sender knew (R245, R351). -/
def State.receive (s : State) (e : Eng) (beat : BitVec 48) (known : Known) : State :=
  let r := s.run e
  s.setRun e { r with beat := holdSucc (if r.beat < beat then beat else r.beat), known := r.known.join known }

/-- The cell under the cursor, as the owner of published buffers (R248). -/
def State.me (s : State) : Option Nat := some s.cell.ident.serial

/-- The observer that an engine of the cell is. -/
def State.obs (s : State) (e : Eng) (addr : Word) : Obs := .engine s.cur.core e addr

/-- A store is ordered before the next instruction of an engine of the cell (R245). -/
def State.knows (s : State) (e : Eng) (p : PStore) : Bool :=
  p.serial == s.cell.ident.serial && p.seq ≤ ((s.run e).carries e).get p.eng

/-- The queue-head class of an engine changes; the cycles of the old class are counted (R353). -/
def EngRun.toHead (r : EngRun) (now : Nat) (h : BitVec 8) : EngRun :=
  let old := (r.headCount.lookup r.head).getD 0
  { r with
    head := h, headAt := now,
    headCount := if now = r.headAt then r.headCount
      else (r.head, holdAdd old (now - r.headAt)) :: r.headCount.filter fun p => p.1 != r.head }

/-- The class of what an engine waits for (R353). -/
def Why.head : Why → BitVec 8
  | .token j | .post j => BitVec.ofNat 8 (0x10 + j.val)
  | .qEmpty q | .qFull q | .slot q => BitVec.ofNat 8 (0x20 + q.val)
  | .outcome | .outFull | .slip | .template => 0x03
  | .await | .barWait | .rslot | .hold | .room false => 0x04
  | .halt | .room true => 0x02
  | .data | .fmtFull | .fmtEmpty | .quota .. | .staging | .unit | .rows _ | .throttle | .tree | .hack => 0x01

/-! ## Energy (R312) -/

/-- The weight of a class (R314). -/
def State.weight (s : State) (cls : Fin 16) : Nat :=
  (s.gov.use.eweight[cls.val / 4]'(by omega)).toNat / 2 ^ (16 * (cls.val % 4)) % 65536

/-- Ticks added to a core's pending charge of a domain, and to the sample's. -/
def State.chargeTicks (s : State) (k : CoreId) (d : BitVec 16) (ticks : Nat) : State :=
  let c := s.cores[k]
  let old := (c.pending.lookup d).getD 0
  { s with
    cores := s.cores.set k { c with pending := (d, old + ticks) :: c.pending.filter fun p => p.1 != d },
    gov := { s.gov with ticks := s.gov.ticks + ticks } }

/-- A charge of units of a class to the domain of the cell. -/
def State.charge (s : State) (cls : Fin 16) (units : Nat) : State :=
  s.chargeTicks s.cur.core s.domain (units * s.weight cls)

/-- Ticks of a sample for a watt: power is kept in ticks of 15.625 pJ in the 100 ns of a sample (R303). -/
def ticksPerWatt : Nat := 6400

/-- RISE of a limit register, in watts (R314). -/
def riseOf (v : Word) : Nat := v.toNat % 65536

/-- FALL of a limit register, in watts (R314). -/
def fallOf (v : Word) : Nat := v.toNat / 65536 % 65536

/-- The windows that apply: samples, RISE and FALL; in a suspend the 1 s window does not (R304). -/
def State.windows (s : State) : List (Nat × Nat × Nat) :=
  let p := s.gov.use
  let w (n : Nat) (v : Word) : Nat × Nat × Nat := (n, riseOf v, fallOf v)
  [w 10 p.rlimus, w 10000 p.rlimms] ++ if s.aedty.suspended = 0 && !s.aedty.suspending then [w 10000000 p.rlims] else []

/-- The least of a list. -/
def leastOf : List Nat → Nat
  | [] => 0
  | x :: xs => xs.foldl Nat.min x

/-- The headroom H(t) in ticks (R305). -/
def State.headTicks (s : State) : Nat :=
  let g := s.gov
  leastOf (s.windows.map fun w =>
    let used := 5 * ticksPerWatt * (g.grants.take (w.1 - 1)).sum
    let rise := g.history.headD 0 - leastOf (g.history.take w.1)
    w.2.1 * ticksPerWatt - Nat.max used rise)

/-- The activates that the regulator still admits in the sample: at most HBMACT for each of eight stacks in any 10 samples, and no more than
the headroom holds where it is below their power (R314). -/
def State.actsLeft (s : State) : Nat :=
  let most := 8 * s.gov.use.hbmact.toNat
  let w := 4 * s.weight 14
  let here := most - (s.gov.actsBefore.take 9).sum
  (if s.headTicks < most * w then Nat.min here (s.headTicks / w) else here) - s.gov.acts

/-- An access that moves c sectors of HBM4 makes a free number of activates, at most one for each sector, within what the regulator
admits (R312, R314; log entry 13). -/
def State.activate (s : State) (c : Nat) : Nat × State :=
  let n := Nat.min ((Config.freeWord s.freeCtr).toNat % (c + 1)) s.actsLeft
  (n, { s with freeCtr := s.freeCtr + 1, gov := { s.gov with acts := s.gov.acts + n } })

/-- The traffic of an access of a core, for a domain, to n bytes at a location is charged (R312; log entry 13): in HBM4 the 32-byte sectors
that it moves, with four more for each activate; of a peer or the host the 256-byte flits. -/
def State.touch (s : State) (k : CoreId) (d : BitVec 16) (x n : Nat) : State :=
  if n = 0 then s
  else if x < Config.hbmBytes then
    let c := (x % 32 + n + 31) / 32
    let (a, s) := s.activate c
    s.chargeTicks k d ((c + 4 * a) * s.weight 14)
  else if (0x1000000000000 ≤ x && x < 0x2000000000000) || (peerChannel x).isSome then
    s.chargeTicks k d ((n + 255) / 256 * s.weight 15)
  else s

/-- The traffic of an access of the cell to n bytes at a location. -/
def State.touched (s : State) (x n : Nat) : State := s.touch s.cur.core s.domain x n

/-- The domain of a launch record (R80). -/
def recDomain (r : BitVec 512) : BitVec 16 := r.extractLsb' 160 16

/-- A launch entry holds a core for its gang (R87), which no cell of it has left by a pre-emption (R331). -/
def State.gangOf (s : State) (k : CoreId) : Option Launch :=
  ((s.die 0).board ++ (s.die 1).board).find? fun l => l.gang.contains k && !l.left.contains k

/-- The domain that holds a core (R313): its cell's, its gang's, or domain 0. -/
def State.holder (s : State) (k : CoreId) : BitVec 16 :=
  let c := s.cores[k].cell
  if c.status != .idle then c.ident.domain
  else
    match s.gangOf k with
    | some l => recDomain l.record
    | none => 0

/-- Cycles in which a ballast duty of d sixteenths issues among the first c cycles of a sample (R309). -/
def dutyCycles (d c : Nat) : Nat := (Nat.min c Config.cyclesPerSample * d + 15) / 16

/-- A core issues ballast in n cycles: they are metered, and fall to the domain that holds it (R303, R309, R313). -/
def State.burn (s : State) (k : CoreId) (n : Nat) : State :=
  if n = 0 then s
  else
    let c := s.cores[k]
    let d := s.holder k
    let old := (c.ballastPend.lookup d).getD 0
    { s with
      cores := s.cores.set k { c with
        ballast := holdAdd c.ballast n, ballastPend := (d, old + n) :: c.ballastPend.filter fun p => p.1 != d }
      gov := { s.gov with ballastSum := s.gov.ballastSum + n * s.weight 5 } }

/-- M of the cell takes a command, which displaces the ballast of its core: ballast issues there for a free time of at most 8 cycles more
(R308; log entry 13). -/
def State.takesM (s : State) : State :=
  if (s.gov.ballastOn.any (·.1 == s.cur.core)) then
    ({ s with freeCtr := s.freeCtr + 1 } : State).setCore { s.core with
      ballastTill := s.now + (Config.freeWord s.freeCtr).toNat % 9 }
  else s

/-- Ballast is not ruled out on a core: by a hack stop of its cell, or by a dump (R310). -/
def State.ballastMay (s : State) (k : CoreId) : Bool :=
  let c := s.cores[k]
  c.enabled && !c.cell.frozen && !(s.aedty.dumps.any fun d => c.cell.status != .idle && d.domain == c.cell.ident.domain)

/-- Ballast may issue on a core's M: it is idle, and ballast is not ruled out (R308, R310). -/
def State.ballastOk (s : State) (k : CoreId) : Bool :=
  s.ballastMay k && s.cores[k].cell.flight.mcmd.isNone && s.cores[k].cell.flight.nest.isNone

/-- Ballast of a duty issues on a core up to a time: while its M is idle, and while a command that its M has taken displaces it
(R308, R309). -/
def State.ballastTo (s : State) (t : Nat) (x : CoreId × Nat) : State :=
  let k := x.1
  let till := if s.ballastOk k then t else if s.ballastMay k then Nat.min t s.cores[k].ballastTill else s.now
  s.burn k (dutyCycles x.2 (till - s.gov.sampleAt) - dutyCycles x.2 (s.now - s.gov.sampleAt))

/-- The throttle holds the engines of a core's cell now: of a user launch that runs (R307). -/
def Core.throttleable (c : Core) : Bool := c.cell.status == .running && !c.cell.frozen && !c.cell.ident.supv

/-- Cycles for which the throttle holds the engines of a core are counted; they do not count toward its watchdog (R307, R314). -/
def Core.holdFor (c : Core) (n : Nat) : Core :=
  if c.throttleable then
    { c with throttled := holdAdd c.throttled n, cell := { c.cell with progress := c.cell.progress + n } }
  else c

/-- Time passes up to a moment: ballast issues, and the cycles of a hold are counted (R307-R309). -/
def State.elapse (s : State) (t : Nat) : State :=
  let n := t - s.now
  let s := s.gov.ballastOn.foldl (fun s x => s.ballastTo t x) s
  let s : State := if s.gov.hold then { s with cores := s.cores.map fun c => c.holdFor n } else s
  { s with now := t }

/-! ## Translation (R291-R293) -/

/-- The classes of access (R107, R292). -/
inductive Acc where
  | load | store | atomic | await | barrier | tset | fetch
  /-- The translation of the pages of window rows (R164, R165). -/
  | walk
  deriving DecidableEq, Repr

/-- The access code of a fault record (R290). -/
def Acc.info2 : Acc → Word
  | .load | .await | .tset | .barrier => 0
  | .store => 1
  | .atomic => 2
  | .fetch => 3
  | .walk => 4

/-- A fault of an access (R290). -/
def accFlt (k : Kind) (c : Nat) (p : Word) (a : Acc) : Flt :=
  { kind := k, code := BitVec.ofNat 32 c, addr := p, info2 := a.info2 }

/-- The 8 bytes of a table entry. -/
def State.entryAt (s : State) (x : Nat) : Nat := leNat (s.peek .device x 8)

/-- The levels of a walk: low bit and width of the index, and the bytes of the next level's table (R291). -/
def walkLevels : List (Nat × Nat × Nat) :=
  [(48, 9, 32768), (36, 12, 512), (30, 6, 4096), (21, 9, 256), (16, 5, 0)]

/-- The datapath-check fault of an uncorrectable word of the device's tables, by its physical address or its address in system space,
which is the same for the words that each die has of its own (R290, R292, R295). -/
def entryFlt (x : Nat) : Flt :=
  { kind := .datapath, code := 2, addr := BitVec.ofNat 64 (if 2 ^ 64 ≤ x then x - 2 ^ 60 else x), info := 6,
    watch := some (x / 8 * 8, 8) }

/-- The 8 bytes of a table entry are uncorrectable, as the device reads them (R295). -/
def State.entryBadAt (s : State) (x : Nat) : Bool := (s.poisoned .device x 8).isSome

/-- The levels of a walk from a table (R291, R292). -/
def State.walkFrom (s : State) (va : Nat) (p : Word) (a : Acc) (table : Nat) (top : Bool) :
    List (Nat × Nat × Nat) → Except Flt (Nat × Nat × Nat)
  | [] => .error (accFlt .translation 3 p a)
  | (lo, w, nextBytes) :: rest =>
    let x := table + 8 * (va / 2 ^ lo % 2 ^ w)
    if s.entryBadAt x then .error (entryFlt x)
    else
    let e := s.entryAt x
    let leaf := e.testBit 1
    let addr := e / 256 % 2 ^ 44 * 256
    if !e.testBit 0 then .error (accFlt .translation 2 p a)
    else if e / 2 ^ 52 != 0 || e / 32 % 8 != 0 || (leaf && top) || (!leaf && rest.isEmpty)
        || addr % (if leaf then 2 ^ lo else nextBytes) != 0 then
      .error (accFlt .translation 3 p a)
    else if leaf then .ok (addr, lo, e)
    else s.walkFrom va p a addr false rest

/-- A walk of a domain's tables for an address below 2^57: the cached form of the page it finds. -/
def State.walkTables (s : State) (d : BitVec 16) (va : Nat) (p : Word) (a : Acc) : Except Flt TlbEntry :=
  let x := locSys 0 (0x20000 + 8 * d.toNat)
  let e := s.entryAt x
  if s.entryBadAt x then .error (entryFlt x)
  else if !e.testBit 0 then .error (accFlt .translation 2 p a)
  else if e / 2 ^ 52 != 0 || e / 2 % 2 ^ 11 != 0 then .error (accFlt .translation 3 p a)
  else do
    let (addr, lo, ent) ← s.walkFrom va p a (e / 4096 % 2 ^ 40 * 4096) true walkLevels
    .ok { domain := d, vpn := va / 2 ^ lo * 2 ^ (lo - 16), units := 2 ^ (lo - 16), ppn := addr / 65536,
          x := ent.testBit 4, w := ent.testBit 3, r := ent.testBit 2 }

/-- A cached translation of an address. -/
def TlbEntry.covers (t : TlbEntry) (d : BitVec 16) (va : Nat) : Bool :=
  t.domain == d && t.vpn ≤ va / 65536 && va / 65536 < t.vpn + t.units

/-- The permission checks of a page (R292). -/
def TlbEntry.permit (t : TlbEntry) (p : Word) (a : Acc) : Except Flt Unit :=
  if (a == .store || a == .atomic) && !t.w then .error (accFlt .protection 6 p a)
  else if (a == .load || a == .atomic || a == .await || a == .tset || a == .barrier || a == .walk) && !t.r then
    .error (accFlt .protection 7 p a)
  else if a == .fetch && !t.x then .error (accFlt .protection 8 p a)
  else .ok ()

/-- The location of a channel's entry in the routing table (R333). -/
def channelLoc (c : BitVec 12) : Nat := locSys 0 (0x1100000 + 8 * c.toNat)

/-- The ranges of physical addresses (R332): protection code 9 outside them, at a channel whose entry has V = 0, beyond a
peer's HBM4, and for text outside this device's HBM4. -/
def State.physOk (s : State) (pa : Nat) (a : Acc) : Bool :=
  pa < 0x6000000000
    || (a != .fetch
      && ((0x1000000000000 ≤ pa && pa < 0x2000000000000)
        || match peerChannel pa with
          | none => false
          | some c => pa % 2 ^ 39 < 0x6000000000 && (s.entryAt (channelLoc c)).testBit 63))

/-- The check of a physical address: an uncorrectable channel entry that it needs is the datapath-check fault (R295, R332). -/
def State.physCheck (s : State) (pa : Nat) (p : Word) (a : Acc) : Except Flt Unit :=
  match peerChannel pa with
  | some c =>
    if s.entryBadAt (channelLoc c) then .error (entryFlt (channelLoc c))
    else if s.physOk pa a then .ok () else .error (accFlt .protection 9 p a)
  | none => if s.physOk pa a then .ok () else .error (accFlt .protection 9 p a)

/-- The physical address of an address that a cached translation covers. -/
def TlbEntry.phys (t : TlbEntry) (va : Nat) : Nat := t.ppn * 65536 + (va - t.vpn * 65536)

/-- A translation enters a cache of a capacity; in a full one it takes the place of one that the spec does not name (R293). -/
def insertTlb (cap v : Nat) (t : TlbEntry) (l : List TlbEntry) : List TlbEntry :=
  t :: if l.length < cap then l else l.eraseIdx (v % l.length)

/-- A translation enters the micro-TLB of the core that made the access, which holds 48 (R293). -/
def State.fillMicro (s : State) (k : Option CoreId) (t : TlbEntry) : State :=
  match k with
  | none => s
  | some k =>
    let c := s.cores[k]
    let v := (Config.freeWord s.freeCtr).toNat
    { s with
      cores := s.cores.set k { c with micro := insertTlb 48 v t c.micro }
      freeCtr := if c.micro.length < 48 then s.freeCtr else s.freeCtr + 1 }

/-- A translation enters the shared cache of a die, which holds 32,768 (R293). -/
def State.fillDie (s : State) (d : DieId) (t : TlbEntry) : State :=
  let x := s.die d
  let v := (Config.freeWord s.freeCtr).toNat
  let s := s.setDie d { x with tlb := insertTlb 32768 v t x.tlb }
  if x.tlb.length < 32768 then s else { s with freeCtr := s.freeCtr + 1 }

/-- The micro-TLB of a core, where the access is a core's. -/
def State.microOf (s : State) (k : Option CoreId) : List TlbEntry :=
  match k with
  | none => []
  | some k => s.cores[k].micro

/-- The cached translation of an address, and the state in which the micro-TLB of the core holds it too (R293). -/
def State.cached (s : State) (k : Option CoreId) (die : DieId) (d : BitVec 16) (va : Nat) : Option (TlbEntry × State) :=
  match (s.microOf k).find? fun t => t.covers d va with
  | some t => some (t, s)
  | none => ((s.die die).tlb.find? fun t => t.covers d va).map fun t => (t, s.fillMicro k t)

/-- Translate an address of space 0x0 for a domain, for a core of a die or for the die itself: by the caches, or else by a walk, which
is cached where the access may be made (R293). -/
def State.translate (s : State) (k : Option CoreId) (die : DieId) (d : BitVec 16) (p : Word) (a : Acc) : Except Flt (Nat × State) :=
  let va := p.toNat % 2 ^ 57
  if p.toNat / 2 ^ 57 % 8 != 0 then .error (accFlt .translation 1 p a)
  else
  match s.cached k die d va with
  | some (t, u) => do
    t.permit p a
    s.physCheck (t.phys va) p a
    .ok (t.phys va, u)
  | none => do
    let t ← s.walkTables d va p a
    t.permit p a
    s.physCheck (t.phys va) p a
    .ok (t.phys va, (s.fillDie die t).fillMicro k t)

/-! ## Published buffers: where an access lands (R248) -/

/-- The space of an address. -/
def spaceOf (p : Word) : Nat := p.toNat / 2 ^ 60

/-- The offset of an address in its space. -/
def offOf (p : Word) : Nat := p.toNat % 2 ^ 60

/-- DEV of a channel (R333). -/
def State.channelDev (s : State) (c : BitVec 12) : Nat := s.entryAt (channelLoc c) % 512

/-- The location of a byte that a translation reaches: one reached through a channel lies in the HBM4 of the peer that DEV names,
so that two channels of one peer reach the same bytes (R332, R333). -/
def State.home (s : State) (x : Nat) : Nat :=
  match peerChannel x with
  | none => x
  | some c => locPeer (s.channelDev c) (x % 2 ^ 39)

/-- The pure part of a translation: the location that an address has for a domain on a core, where it has one. -/
def State.lookupPage (s : State) (k : CoreId) (d : BitVec 16) (va : Nat) : Option Nat :=
  match s.cached (some k) (dieOf k) d va with
  | some (t, _) => some (t.phys va)
  | none =>
    match s.walkTables d va (BitVec.ofNat 64 va) .load with
    | .ok t => some (t.phys va)
    | .error _ => none

/-- The location of a byte of a backing, as the core and the domain of the buffer's owner reach its address (R248). A scratchpad
holds it while the owner has the core. -/
def State.backLoc (s : State) (p : Pub) (a : Word) : Option Nat :=
  match spaceOf a with
  | 0x8 => if s.cores[p.core].cell.ident.serial = p.owner then some (locPad p.core (offOf a)) else none
  | 0xA => some (locShared (offOf a))
  | _ => (s.lookupPage p.core p.domain (a.toNat % 2 ^ 57)).map s.home

/-- The offset in a backing of a location that lies in it: n pages of 64 KiB are looked through, from the one that begins at an
offset. -/
def State.backOff (s : State) (p : Pub) (base : Word) (x off : Nat) : Nat → Option Nat
  | 0 => none
  | n + 1 =>
    let a := base + BitVec.ofNat 64 off
    let len := Nat.min (p.bytes - off) (65536 - a.toNat % 65536)
    match s.backLoc p a with
    | some y => if y ≤ x && x < y + len then some (off + (x - y)) else s.backOff p base x (off + len) n
    | none => s.backOff p base x (off + len) n

/-- The stretches of locations of a backing, page by page from an offset. -/
def State.backRanges (s : State) (p : Pub) (base : Word) (off : Nat) : Nat → List (Nat × Nat)
  | 0 => []
  | n + 1 =>
    let a := base + BitVec.ofNat 64 off
    let len := Nat.min (p.bytes - off) (65536 - a.toNat % 65536)
    let rest := s.backRanges p base (off + len) n
    match s.backLoc p a with
    | some y => (y, len) :: rest
    | none => rest

/-- The offset of a location in the name range of a buffer (R248). -/
def State.nameOff (s : State) (p : Pub) (x : Nat) : Option Nat := s.backOff p p.b0 x 0 (p.bytes / 65536 + 2)

/-- The buffer whose name range holds a location, and the offset in it; a buffer of the observer's own comes first. -/
def State.pubAt (s : State) (who : Option Nat) (x : Nat) : Option (Pub × Nat) :=
  let x := s.home x
  let find (sel : Pub → Bool) := s.pubs.findSome? fun p => if sel p then (s.nameOff p x).map fun o => (p, o) else none
  (find fun p => who == some p.owner).or (find fun p => who != some p.owner)

/-- The location of an offset of the visible backing, or of the shadow. -/
def State.pubLoc (s : State) (p : Pub) (shadow : Bool) (off : Nat) : Option Nat :=
  s.backLoc p ((if shadow != p.flipped then p.b1 else p.b0) + BitVec.ofNat 64 off)

/-- The location that an access to a location reaches: the owner's reads and writes reach the shadow, every other
observer's the visible backing. The observer is given by the serial of its cell. -/
def State.land (s : State) (who : Option Nat) (x : Nat) : Nat :=
  if s.pubs.isEmpty then s.home x
  else
    match s.pubAt who x with
    | none => s.home x
    | some (p, off) => (s.pubLoc p (who == some p.owner) off).getD (s.home x)

/-- A range of locations as stretches that land together: first location and length (granule by granule, R248). -/
def State.landing (s : State) (who : Option Nat) (x : Nat) : Nat → Nat → List (Nat × Nat)
  | _, 0 => []
  | n, fuel + 1 =>
    if n = 0 then []
    else if s.pubs.isEmpty then [(s.home x, n)]
    else
      let k := Nat.min n (8 - x % 8)
      (s.land who x, k) :: s.landing who (x + k) (n - k) fuel

/-- Read n bytes at a location for an observer. -/
def State.readAt (s : State) (o : Obs) (who : Option Nat) (x n : Nat) : List Byte :=
  if s.pubs.isEmpty then s.peek o (s.home x) n
  else (s.landing who x n (n + 1)).foldl (fun acc p => acc ++ s.peek (o.shift acc.length) p.1 p.2) []

/-- The first poisoned granule of stretches, for an observer: how many bytes into the stretches it begins, and its location. -/
def State.badIn (s : State) (o : Obs) (off : Nat) : List (Nat × Nat) → Option (Nat × Nat)
  | [] => none
  | (y, n) :: rest =>
    match s.poisoned o y n with
    | some g => some (off + (g - y), g)
    | none => s.badIn o (off + n) rest

/-- A poisoned granule among n bytes at a location, for an observer: its first of these bytes, and its location (R295). -/
def State.badAt (s : State) (o : Obs) (who : Option Nat) (x n : Nat) : Option (Nat × Nat) :=
  if s.poison.isEmpty then none else s.badIn o 0 (s.landing who x n (n + 1))

/-- The 4 KiB block of an owner's slot that a write touches is marked (R247). -/
def State.markWritten (s : State) (who : Option Nat) (x : Nat) : State :=
  match s.pubAt who x with
  | none => s
  | some (p, off) =>
    let block := off / 4096
    if who != some p.owner || p.written.contains block then s
    else
      { s with pubs := s.pubs.map fun q =>
          if q.owner == p.owner && q.slot == p.slot then { q with written := q.written ++ [block] } else q }

/-- Bytes written at their home at a location, for an observer, performed at every scope. -/
def State.writeAt (s : State) (o : Obs) (who : Option Nat) (x : Nat) (bs : List Byte) : State :=
  if s.pubs.isEmpty then s.pokeHome o (s.home x) bs
  else
    let go : State × List Byte × Nat → Nat × Nat → State × List Byte × Nat := fun (s, bs, y) p =>
      ((s.markWritten who y).pokeHome o p.1 (bs.take p.2), bs.drop p.2, y + p.2)
    ((s.landing who x bs.length (bs.length + 1)).foldl go (s, bs, x)).1

/-- A write of an engine to a peer waits for its acknowledgement; it is a send (R335, R351). -/
def State.notePeer (s : State) (e : Eng) (seq : Nat) (addr : Word) (x n : Nat) : State :=
  match peerChannel x with
  | none => s
  | some c =>
    let s := s.send e
    let w : PeerStore :=
      { channel := c, core := s.cur.core, serial := s.cell.ident.serial, eng := e, seq := seq, addr := addr, len := n, bar := 0,
        charge := 0, who := none, pc := (s.path e).pc }
    { s with peerStores := s.peerStores ++ [w] }

/-- Bytes of an engine's store of a count enter its store queue (R244): pieces of at most one granule, not yet
performed. -/
def State.addPieces (s : State) (e : Eng) (seq : Nat) (addr : Word) (x : Nat) (bs : List Byte) : State :=
  let k := s.cur.core
  let first := s.nextPart s.cell.ident.serial e seq
  let s := ((pieces addr x bs (bs.length + 1)).zipIdx first).foldl (fun s ((a, y, b), i) =>
    let s := s.markWritten s.me y
    { s with stores := s.stores ++
      [{ core := k, serial := s.cell.ident.serial, eng := e, seq := seq, part := i, addr := a, loc := s.land s.me y, bytes := b,
         level := 0, pc := (s.path e).pc }] }) s
  (s.notePeer e seq addr x bs.length).touched x bs.length

/-- An engine's store instruction is counted. -/
def State.countStore (s : State) (e : Eng) : State := s.setRun e { s.run e with issued := (s.run e).issued + 1 }

/-- A store of an engine enters its store queue (R244). -/
def State.addStore (s : State) (e : Eng) (addr : Word) (x : Nat) (bs : List Byte) : State :=
  (s.countStore e).addPieces e ((s.run e).issued + 1) addr x bs

/-! ## Outstanding loads (R108-R110) -/

/-- The value a load delivers: its bytes extended to 64 bits. -/
def extendLoad (signed : Bool) (n : Nat) (bs : List Byte) : Word :=
  let v := leNat bs
  if signed && v.testBit (8 * n - 1) then BitVec.ofNat 64 (2 ^ 64 - 2 ^ (8 * n) + v) else BitVec.ofNat 64 v

/-- The oldest slot of a queue whose data has not arrived is filled. -/
def fillSlot (v : Word) : List QEntry → List QEntry
  | [] => []
  | x :: xs => if x.arrived then x :: fillSlot v xs else { x with value := v, arrived := true } :: xs

/-- A queue's contents replaced. -/
def State.setQ (s : State) (q : Fin 16) (l : List QEntry) : State :=
  s.setRoll { s.roll with q := s.roll.q.set q l }

/-- A datapath-check fault for uncorrectable data of an access to an address: the granule of the address, d bytes on, and its location
(R290, R295, R297). -/
def poisonFlt (p : Word) (d loc : Nat) (unit : Nat) : Flt :=
  { kind := .datapath, code := 2, addr := (p + BitVec.ofNat 64 d) &&& ~~~ 7#64, info := BitVec.ofNat 64 unit,
    watch := some (loc / 8 * 8, 8) }

/-- An access to a peer that answers is a receipt of its answer (R351); the answer carries the beat that went out. -/
def State.peerReceipt (s : State) (e : Eng) (x : Nat) : State :=
  if (peerChannel x).isSome then s.receive e (s.run e).beat Known.none else s

/-- A store or an atomic of an engine that goes to a peer is a send (R351). -/
def State.peerSend (s : State) (e : Eng) (x : Nat) : State := if (peerChannel x).isSome then s.send e else s

/-- The n bytes that an engine reads at a checked location. -/
def State.loadBytes (s : State) (e : Eng) (p : Word) (x n : Nat) : Except Flt (List Byte) :=
  match s.badAt (s.obs e p) s.me x n with
  | some (d, g) => .error (poisonFlt p d g e.code)
  | none => .ok (s.readAt (s.obs e p) s.me x n)

/-- One read-modify-write of A at the home of a checked location (R111-R113): the old value, and the new one written where there
is one. -/
def State.rmwAt (s : State) (p : Word) (x n : Nat) (f : Nat → Option Nat) : Except Flt (Nat × State) := do
  let o := s.obs .A p
  let s := s.settle o (s.land s.me x) n
  let bs ← s.loadBytes .A p x n
  let old := leNat bs
  let s := match f old with
    | none => s
    | some v => s.writeAt o s.me x (leBytes n v)
  .ok (old, (s.peerReceipt .A x).touched x (2 * n))

/-- The value that an outstanding load, amo or cas delivers. -/
def State.loadValue (s : State) (l : Load) : Except Flt (Word × State) :=
  match l.got, l.rmw with
  | some v, _ => .ok (v, s)
  | none, none => do
    let bs ← s.loadBytes .A l.addr l.loc l.n
    .ok (extendLoad l.signed l.n bs, (s.peerReceipt .A l.loc).touched l.loc l.n)
  | none, some r => do
    let (old, s) ← s.rmwAt l.addr l.loc l.n r.result
    .ok (BitVec.ofNat 64 old, s)

/-- The outstanding loads of a stopped cell are performed, and their data is held at its core (R356). -/
def State.holdLoads (s : State) : State :=
  let (ls, s) := s.flight.loads.foldl (fun (acc : List Load × State) l =>
    match acc.2.loadValue l with
    | .ok (v, s) => (acc.1 ++ [{ l with got := some v }], s)
    | .error _ => (acc.1 ++ [l], acc.2)) ([], s)
  s.setFlight { s.flight with loads := ls }

/-- The oldest outstanding load is performed and its data delivered; a reserved slot fills once A's earlier stores are performed at
cell scope (R127). -/
def State.performLoad (s : State) : Except Flt State :=
  match s.flight.loads with
  | [] => .ok s
  | l :: rest => do
    let (v, s) ← s.loadValue l
    let s := s.setFlight { s.flight with loads := rest }
    let s := s.setCell { s.cell with progress := s.now }
    match l.dst with
    | .reg r => .ok (s.setX r v)
    | .slot q =>
      let s := if s.stores.isEmpty then s else s.perform (fun p => p.serial == s.cell.ident.serial && p.eng == .A) 1
      .ok (s.setQ q (fillSlot v s.roll.q[q]))

/-- Every outstanding load is performed, oldest first. -/
def State.performLoads (s : State) : Nat → Except Flt State
  | 0 => .ok s
  | n + 1 => if s.flight.loads.isEmpty then .ok s else do (← s.performLoad).performLoads n

/-- Outstanding loads before a store of A to a granule that one of them reads are performed (R244). -/
def State.loadsBefore (s : State) (x n : Nat) : Except Flt State :=
  if s.flight.loads.any fun l => granule x ≤ granule (l.loc + l.n - 1) && granule l.loc ≤ granule (x + n - 1) then
    s.performLoads s.flight.loads.length
  else .ok s

/-- Outstanding loads end where a cell stops for good or rolls back, their data unused (R110). -/
def State.endLoads (s : State) : State :=
  match s.performLoads s.flight.loads.length with
  | .ok t => t
  | .error _ => s.setFlight { s.flight with loads := [] }

/-- Every access that an engine has made is performed at cell scope (R127). -/
def State.drain (s : State) (e : Eng) : Except Flt State := do
  let s ← if e == .A then s.performLoads s.flight.loads.length else .ok s
  .ok (if s.stores.isEmpty then s else s.perform (fun p => p.serial == s.cell.ident.serial && p.eng == e) 1)

/-- Every access that is ordered before an engine's next instruction is performed at a level (R245, R246): level 1 is cell
scope, 2 die, 3 device, 4 fabric, 5 host. -/
def State.drainKnown (s : State) (e : Eng) (level : Nat) : Except Flt State := do
  let s ← if e == .A then s.performLoads s.flight.loads.length else .ok s
  .ok (if s.stores.isEmpty then s else s.perform (fun p => s.knows e p) level)

/-! ## Queue registers (R121-R124) and leases (R128, R129) -/

/-- The stall limit of queue registers (R125). -/
def State.qlimit (s : State) : Option Nat :=
  if s.misc.qstall = 0xFFFFFFFF then none else some s.misc.qstall.toNat

/-- The 8-bit binding of a queue (R83). -/
def State.binding (s : State) (q : Fin 16) : BitVec 8 := s.cell.ident.qbind.extractLsb' (8 * q.val) 8

/-- The binding check of one use of a queue by an engine (R122). -/
def State.bindOk (s : State) (e : Eng) (q : Fin 16) (push : Bool) : Res Unit :=
  let b := s.binding q
  if !b.getLsbD 7 then raise .binding (64 + q.val)
  else if push then
    require (b.extractLsb' 4 3 == BitVec.ofNat 3 e.code) .binding (32 + q.val)
  else require (b.extractLsb' 1 3 == BitVec.ofNat 3 e.code) .binding q.val

/-- A queue is the destination of F's instruction in flight (R128). -/
def State.qLeased (s : State) (e : Eng) (q : Fin 16) : Bool :=
  match s.flight.fop with
  | some { step := .push q' _ _ _, .. } => e != .F && q == q'
  | _ => false

/-- A tile is leased by F's instruction in flight against an access of another engine (R128, R129). -/
def State.tileLeased (s : State) (e : Eng) (t : Fin 16) (write : Bool) : Bool :=
  match s.flight.fop with
  | some { step := .tile d _ _, .. } => e != .F && t == d
  | some { step := .reg (src := src) .., .. } => e != .F && write && t == src
  | _ => false

/-- The lease check of a tile access (R129). -/
def State.tileOk (s : State) (e : Eng) (t : Fin 16) (write : Bool) : Res Unit :=
  require (!s.tileLeased e t write) .lease t.val

/-- The head of a queue, popped by an engine. -/
def State.popE (s : State) (e : Eng) (q : Fin 16) : Res (QEntry × State) := do
  require (!s.qLeased e q) .lease (16 + q.val)
  match s.roll.q[q] with
  | [] => .error (.wait (.qEmpty q) s.qlimit)
  | x :: rest =>
    if x.arrived then .ok (x, (s.setQ q rest).receive e x.beat x.known)
    else .error (.wait (.slot q) none)

/-- pop(q) (R20). -/
def State.pop (s : State) (e : Eng) (q : Fin 16) : Res (Word × State) := do
  let (x, s) ← s.popE e q
  .ok (x.value, s)

/-- peek(q) (R20). -/
def State.peekQ (s : State) (e : Eng) (q : Fin 16) : Res (Word × State) := do
  require (!s.qLeased e q) .lease (16 + q.val)
  match s.roll.q[q] with
  | [] => .error (.wait (.qEmpty q) s.qlimit)
  | x :: _ => if x.arrived then .ok (x.value, s.receive e x.beat x.known) else .error (.wait (.slot q) none)

/-- An entry appended to a queue by its producer, which is a send (R127, R351). -/
def State.appendQ (s : State) (e : Eng) (q : Fin 16) (v : Word) (arrived : Bool) : State :=
  let s := s.send e
  s.setQ q (s.roll.q[q] ++
    [{ value := v, arrived := arrived, beat := (s.run e).beat, known := (s.run e).carries e }])

/-- A push needs room in the queue (R123). -/
def State.roomQ (s : State) (e : Eng) (q : Fin 16) (k : Nat) : Res Unit := do
  require (!s.qLeased e q) .lease (16 + q.val)
  if s.roll.q[q].length + k ≤ 4 then .ok () else .error (.wait (.qFull q) s.qlimit)

/-- push(q, v) (R20): the producer's earlier accesses are performed at cell scope first (R127). -/
def State.push (s : State) (e : Eng) (q : Fin 16) (v : Word) : Res State := do
  s.roomQ e q 1
  let s ← liftFlt (s.drain e)
  .ok (s.appendQ e q v true)

/-! ## Tokens (R126, R127) -/

/-- The number of the FIFO from one engine to a ring neighbour (R125). -/
def fifoIx : Eng → Eng → Fin 10
  | .A, .C => 0 | .C, .A => 1 | .C, .M => 2 | .M, .C => 3 | .M, .V => 4 | .V, .M => 5 | .V, .F => 6 | .F, .V => 7
  | .F, .A => 8 | .A, .F => 9
  | _, _ => 0

/-- A token FIFO's contents replaced. -/
def State.setTok (s : State) (j : Fin 10) (l : List Token) : State :=
  s.setRoll { s.roll with tok := s.roll.tok.set j l }

/-- One token taken from a FIFO by an engine (R126). -/
def State.takeToken (s : State) (e : Eng) (j : Fin 10) : Res (Token × State) :=
  match s.roll.tok[j] with
  | [] => .error (.wait (.token j) none)
  | x :: rest => .ok (x, (s.setTok j rest).receive e x.beat x.known)

/-- The FIFOs a word waits on, in the order prev, next (R23). -/
def waitsOf (e : Eng) (t : Tok) : List (Fin 10) :=
  (if t.getLsbD 3 then [fifoIx e.prev e] else []) ++ (if t.getLsbD 2 then [fifoIx e.next e] else [])

/-- The FIFOs a word posts to, in the order prev, next (R23). -/
def postsOf (e : Eng) (t : Tok) : List (Fin 10) :=
  (if t.getLsbD 1 then [fifoIx e e.prev] else []) ++ (if t.getLsbD 0 then [fifoIx e e.next] else [])

/-- A token taken from each FIFO of a list; the tokens taken, newest first. -/
def State.takeAll (s : State) (e : Eng) : List (Fin 10) → List (Fin 10 × Token) → Res (List (Fin 10 × Token) × State)
  | [], acc => .ok (acc, s)
  | j :: js, acc => do
    let (x, s) ← s.takeToken e j
    s.takeAll e js ((j, x) :: acc)

/-- The token waits of a word. -/
def State.takeTokens (s : State) (e : Eng) (t : Tok) : Res (List (Fin 10 × Token) × State) :=
  s.takeAll e (waitsOf e t) []

/-- One token posted by an engine to a FIFO with room; false where it is full. -/
def State.postOne (s : State) (e : Eng) (j : Fin 10) : State × Bool :=
  if s.roll.tok[j].length < 15 then
    let s := s.send e
    (s.setTok j (s.roll.tok[j] ++ [{ beat := (s.run e).beat, known := (s.run e).carries e }]), true)
  else (s, false)

/-- Posts made in order where there is room; the posts left. A full FIFO holds back none to another (R126). -/
def State.postAll (s : State) (e : Eng) : List (Fin 10) → State × List (Fin 10)
  | [] => (s, [])
  | j :: js =>
    let (s, made) := s.postOne e j
    let (s, left) := s.postAll e js
    (s, if made then left else j :: left)

/-- The posts an engine still owes are made where there is room. -/
def State.payOwed (s : State) (e : Eng) : State :=
  let (s, left) := s.postAll e (s.run e).owed
  s.setRun e { s.run e with owed := left }

/-! ## Access checks -/

/-- The location of a region's entry in the region table (R148). -/
def regionLoc (j : Nat) : Nat := locSys 0 (0x10000 + 8 * j)

/-- The region check of shared memory (R148): the first and last byte's regions. -/
def State.regionOk (s : State) (d : BitVec 16) (supv : Bool) (off n : Nat) : Bool :=
  supv || [off / 0x100000, (off + n - 1) / 0x100000].all fun j =>
    let e := s.entryAt (regionLoc j)
    e.testBit 63 || e % 65536 == d.toNat

/-- The region check of an access, which reads the table: an uncorrectable entry is the datapath-check fault (R148, R295). -/
def State.regionCheck (s : State) (d : BitVec 16) (supv : Bool) (off n : Nat) (f : Flt) : Except Flt Unit :=
  match [off / 0x100000, (off + n - 1) / 0x100000].find? fun j => !supv && s.entryBadAt (regionLoc j) with
  | some j => .error (entryFlt (regionLoc j))
  | none => if s.regionOk d supv off n then .ok () else .error f

/-- The access check of the A engine (R107), in its order; it answers the location. -/
def State.access (s : State) (p : Word) (n : Nat) (a : Acc) : Except Flt (Nat × State) :=
  let sp := spaceOf p
  let off := offOf p
  if p.toNat % n != 0 then .error (accFlt .alignment 0 p a)
  else if sp != 0x0 && sp != 0x8 && sp != 0xA && sp != 0xF then .error (accFlt .protection 1 p a)
  else if (a == .atomic || a == .await) && sp != 0x0 && sp != 0xA then .error (accFlt .protection 2 p a)
  else if a == .barrier && sp != 0xA then .error (accFlt .protection 2 p a)
  else if a == .tset && sp != 0x0 && sp != 0x8 then .error (accFlt .protection 2 p a)
  else if sp == 0xF && !s.supv then .error (Flt.mk' .privilege 1)
  else if sp == 0x8 && off + n > 0x180000 then .error (accFlt .protection 3 p a)
  else if sp == 0xA && off + n > 0xC000000 then .error (accFlt .protection 3 p a)
  else if sp == 0x8 then .ok (locPad s.cur.core off, s)
  else if sp == 0xA then do
    s.regionCheck s.domain s.supv off n (accFlt .protection 5 p a)
    .ok (locShared off, s)
  else if sp == 0xF then .ok (locSys s.dieId off, s)
  else s.translate (some s.cur.core) s.dieId s.domain p a

/-- A location lies behind a peer channel that is draining (R336). -/
def State.drains (s : State) (x : Nat) : Bool :=
  match peerChannel x with
  | none => false
  | some c => s.draining.any fun d => d.1 == c

/-- An access waits while the peer channel it goes through is draining (R336). -/
def State.undrained (s : State) (x : Nat) : Res Unit :=
  if s.drains x then .error (.wait .data none) else .ok ()

/-- The access check of the A engine with the wait of a draining channel. -/
def State.reach (s : State) (p : Word) (n : Nat) (a : Acc) : Res (Nat × State) := do
  let (x, s) ← liftFlt (s.access p n a)
  s.undrained x
  .ok (x, s)

/-! ## Faults (R282-R290) -/

/-- The number of a kind (R282). -/
def Kind.num : Kind → Nat
  | .software => 0 | .illegal => 1 | .privilege => 2 | .alignment => 3 | .underflow => 4 | .overflow => 5
  | .binding => 6 | .lease => 7 | .linkDepth => 8 | .bankConflict => 9 | .formatUnderflow => 10 | .shape => 11
  | .translation => 12 | .protection => 13 | .trailer => 14 | .domainMismatch => 15 | .pool => 16 | .context => 17
  | .replayDepth => 18 | .rampViolation => 19 | .quota => 20 | .reduction => 21 | .barrierTimeout => 22
  | .launchShape => 23 | .peerDropped => 24 | .deadlock => 25 | .datapath => 26

/-- The kinds that may enter the cell's trap handler: route H of R282. -/
def Kind.routeH : Kind → Bool
  | .trailer | .context | .replayDepth | .rampViolation | .deadlock | .datapath => false
  | _ => true

/-- The 64-byte trap record (R290). -/
def trapRecord (f : Flt) (eng : Eng) (pc : Word) (beat : BitVec 48) (pm : Bool) : BitVec 512 :=
  f.addr ++ f.info ++ f.info2 ++ pc ++ beat ++ 0#8 ++ f.code ++ BitVec.ofNat 8 f.kind.num ++ BitVec.ofNat 3 eng.code
    ++ BitVec.ofBool pm ++ 0#148 ++ 1#8

/-- The bytes of a 64-byte record. -/
def recordBytes (r : BitVec 512) : List Byte := leBytes 64 r.toNat

/-- A record written into the cell's fault page (R143), after every store that the cell has made to those bytes. -/
def State.writeFaultPage (s : State) (off : Nat) (r : BitVec 512) : State :=
  let x := locPad s.cur.core (0x17F000 + off)
  (s.perform (fun p => x ≤ p.loc && p.loc < x + 64) 5).pokeHome .device x (recordBytes r)

/-- TRAPCAUSE (R285). -/
def causeWord (f : Flt) (eng : Eng) (pm : Bool) : Word :=
  1#1 ++ BitVec.ofBool pm ++ BitVec.ofNat 3 eng.code ++ 0#3 ++ BitVec.ofNat 8 f.kind.num ++ 0#16 ++ f.code

/-- The trap handler is running (R285). -/
def Traps.active (t : Traps) : Bool := t.cause.getLsbD 63

/-- Every engine starts at an address, having walked nothing, with nothing in its outcome queue or on its link stack (R286). -/
def handlerPaths (pc : Word) : Five Path := Five.all (Path.at_ pc)

/-- Every engine starts at an address, having walked nothing, with nothing in its outcome queue and the link stack it has (R274). -/
def contextPaths (p : Five Path) (pc : Word) : Five Path :=
  let at_ (q : Path) : Path := { Path.at_ pc with links := q.links }
  ⟨at_ p.a, at_ p.c, at_ p.m, at_ p.v, at_ p.f⟩

/-- Every engine of the cell at the first prefix of the chain that it is walking (R41). -/
def State.rewind (s : State) : State :=
  let p := s.roll.paths
  s.setRoll { s.roll with paths := ⟨p.a.rewind, p.c.rewind, p.m.rewind, p.v.rewind, p.f.rewind⟩ }

/-- The ramp request of an rslot of the core is withdrawn (R315). -/
def State.dropRslot (s : State) : State :=
  let d := s.die s.dieId
  if d.ramp.any fun q => q.core == some s.cur.core then
    s.setDie s.dieId { d with ramp := d.ramp.filter fun q => q.core != some s.cur.core }
  else s

/-- A wait for room for a commit's entries, once it is over, has not counted toward the watchdog (R361). -/
def State.uncountRoom (s : State) (e : Eng) (w : Why) : State :=
  match (s.run e).stall with
  | some { why := .room h, since := t0, .. } =>
    if w = .room h then s else s.setCell { s.cell with progress := Nat.min s.now (s.cell.progress + (s.now - t0)) }
  | _ => s

/-- A bar.wait with a timeout has not counted toward the watchdog up to now (R257). -/
def State.uncountWait (s : State) : State :=
  match s.misc.waitTimed with
  | none => s
  | some t0 =>
    s.setCell { s.cell with
      misc := { s.misc with waitTimed := none }, progress := Nat.min s.now (s.cell.progress + (s.now - t0)) }

/-- Every engine forgets what it waits for, a wait for ramp slots included; what the watchdog does not count ends. -/
def State.clearStalls (s : State) : State :=
  let s := (s.dropRslot.uncountRoom .A .hold).uncountWait
  let f (r : EngRun) : EngRun := { r with stall := none }
  s.setCell { s.cell with run :=
    ⟨f s.cell.run.a, f s.cell.run.c, f s.cell.run.m, f s.cell.run.v, f s.cell.run.f⟩ }

/-- The engines' heads change class together, as when a cell stops or resumes (R353). -/
def State.allHeads (s : State) (h : BitVec 8) : State :=
  let f (r : EngRun) : EngRun := r.toHead s.now h
  s.setCell { s.cell with run :=
    ⟨f s.cell.run.a, f s.cell.run.c, f s.cell.run.m, f s.cell.run.v, f s.cell.run.f⟩ }

/-- The counters of a cell that has not run count nothing: the next class starts now. -/
def State.restartHeads (s : State) : State :=
  let f (r : EngRun) : EngRun := { r with headAt := s.now, head := 0x02 }
  s.setCell { s.cell with run :=
    ⟨f s.cell.run.a, f s.cell.run.c, f s.cell.run.m, f s.cell.run.v, f s.cell.run.f⟩ }

/-- A trace record (R352). -/
def traceRecord (beat : BitVec 48) (type : Nat) (eng : Eng) (cellno : BitVec 32) (domain : BitVec 16)
    (pc value : Word) : BitVec 256 :=
  beat ++ BitVec.ofNat 8 type ++ BitVec.ofNat 3 eng.code ++ 0#5 ++ cellno ++ domain ++ 0#16 ++ pc ++ value

/-- The address of the next trace record, where tracing is on (R352). -/
def State.traceAddr (s : State) : Option Word :=
  let m := s.misc
  if m.trcsize == 0 || m.trcbase == 0 then none
  else some (m.trcbase + BitVec.ofNat 64 (32 * (m.trcpos.toNat % m.trcsize.toNat)))

/-- An automatic trace record (R352): written at once, or dropped and counted where its write would fault; a write behind a channel that
drains would (R336). -/
def State.autoTrace (s : State) (type : Nat) (eng : Eng) (pc value : Word) : State :=
  if !s.misc.trcauto then s
  else
  match s.traceAddr with
  | none => s
  | some p =>
    match s.access p 32 .store with
    | .error _ => s.setMisc { s.misc with trclost := s.misc.trclost + 1 }
    | .ok (x, s) =>
      if s.drains x then s.setMisc { s.misc with trclost := s.misc.trclost + 1 }
      else
      let r := traceRecord (s.run eng).beat type eng s.cell.ident.cellno s.domain pc value
      let y := s.land s.me x
      let s := if s.stores.isEmpty then s
        else s.perform (fun q => q.serial == s.cell.ident.serial && y ≤ q.loc && q.loc < y + 32) 5
      let s := s.writeAt (s.obs eng p) s.me x (leBytes 32 r.toNat)
      s.setMisc { s.misc with trcpos := s.misc.trcpos + 1 }

/-- The first 64 bytes of a supervisor event about the cell (R288). -/
def State.eventHead (s : State) (type : Nat) (aux : Word) : BitVec 512 :=
  aux ++ s.cell.ident.cellno ++ s.domain ++ BitVec.ofNat 8 (siteOf s.cur.core) ++ BitVec.ofNat 1 s.dieId.val ++ 0#383
    ++ BitVec.ofNat 8 type

/-- An event waits for the ring of a die (R288). -/
def State.queueEvent (s : State) (d : DieId) (e : SupEvent) : State :=
  s.setDie d { s.die d with sevq := (s.die d).sevq ++ [e] }

/-- A dump of a domain begins, or is queued, or is recorded as a second fault of the same dump (R299). -/
def State.beginDump (s : State) (domain : BitVec 16) (record : BitVec 512) (cell : Word) : State :=
  let a := s.aedty
  if a.dumps.any fun d => d.domain == domain then
    { s with aedty := { a with dumps := a.dumps.map fun d =>
        if d.domain == domain then { d with secondary := d.secondary ++ [record] } else d } }
  else { s with aedty := { a with dumps := a.dumps ++ [⟨domain, record, cell, []⟩] } }

/-- The identity of the cell as R86's CELLID gives it. -/
def State.cellid (s : State) : Word :=
  s.domain ++ 0#7 ++ BitVec.ofNat 1 s.dieId.val ++ BitVec.ofNat 8 (siteOf s.cur.core) ++ s.cell.ident.cellno

/-- A fault of the cell is fatal: the cell is held and a dump of its domain begins (R297). -/
def State.fatal (s : State) (f : Flt) (eng : Eng) (pc : Word) : State :=
  let r := trapRecord f eng pc (s.run eng).beat s.supv
  let h : Hold :=
    { flt := f, eng := eng, pc := pc, double := false, resume := ⟨s.roll.paths.a.pc, s.roll.paths.c.pc, s.roll.paths.m.pc,
        s.roll.paths.v.pc, s.roll.paths.f.pc⟩, rolled := false }
  let s := (s.writeFaultPage 0x200 r).allHeads 0x02
  let s := s.setCell { s.cell with status := .held h, raised := none }
  s.beginDump s.domain r s.cellid

/-- The cell is held for the supervisor (R287): the record is written and an event is queued; a held supervisor cell
begins a dump instead. -/
def State.holdCell (s : State) (f : Flt) (eng : Eng) (pc : Word) (type : Nat) (rolled : Bool) : State :=
  let r := trapRecord f eng pc (s.run eng).beat s.supv
  let p := s.roll.paths
  let h : Hold :=
    { flt := f, eng := eng, pc := pc, double := type == 2, resume := ⟨p.a.pc, p.c.pc, p.m.pc, p.v.pc, p.f.pc⟩,
      rolled := rolled }
  let s := s.writeFaultPage 0x200 r
  let s := (s.clearStalls).allHeads 0x02
  let s := s.setCell { s.cell with status := .held h, raised := none }
  if s.supv then s.beginDump s.domain r s.cellid
  else s.queueEvent s.dieId { head := s.eventHead type 0, record := r }

/-- An address with its low two bits cleared, as the EPC registers hold it (R285). -/
def epcOf (pc : Word) : Word := pc &&& ~~~ 3#64

/-- The trap handler of the text, where it has one (R83). -/
def State.trapEntry (s : State) : Option Word :=
  if s.cell.ident.htrap = 0xFFFFFFFF then none
  else some (s.cell.ident.entry + BitVec.ofNat 64 (4 * s.cell.ident.htrap.toNat))

/-- The context handler of the text, where it has one (R83). -/
def State.contextEntry (s : State) : Option Word :=
  if s.cell.ident.hctx = 0xFFFFFFFF then none
  else some (s.cell.ident.entry + BitVec.ofNat 64 (4 * s.cell.ident.hctx.toNat))

/-- The five engines start at the trap handler (R286). -/
def State.startAll (s : State) (pc : Word) : State := s.setRoll { s.roll with paths := handlerPaths pc }

/-- The five engines start at the context handler (R274, R289). -/
def State.startContext (s : State) (pc : Word) : State :=
  s.setRoll { s.roll with paths := contextPaths s.roll.paths pc }

/-- The EPC registers take the address at which each engine stands (R283, R285). -/
def State.saveEpc (s : State) : State :=
  let p := s.roll.paths
  s.setCell { s.cell with traps := { s.cell.traps with
    epc := ⟨epcOf p.a.pc, epcOf p.c.pc, epcOf p.m.pc, epcOf p.v.pc, epcOf p.f.pc⟩ } }

/-- The trap handler entered (R286): the record is written, TRAPCAUSE is written with ACT = 1, the paths are set aside, and the
engines start at the handler. -/
def State.intoHandler (s : State) (f : Flt) (eng : Eng) (pc entry : Word) : State :=
  let s := s.writeFaultPage 0x200 (trapRecord f eng pc (s.run eng).beat s.supv)
  let s := s.setCell { s.cell with
    traps := { s.cell.traps with cause := causeWord f eng s.supv, aside := some s.roll.paths }, raised := none }
  (s.clearStalls).startAll entry

/-- The automatic trace record of a fault (R352). -/
def State.traceFault (s : State) (eng : Eng) (f : Flt) (pc : Word) : State :=
  s.autoTrace (if f.kind == .context then 3 else 2) eng pc (BitVec.ofNat 64 (f.kind.num * 2 ^ 32 + f.code.toNat))

/-- TAKING AN EXCEPTION (R283, R285, R286, R287): the EPC registers take the word of each engine and the handler is entered;
without a route to it, or as a double fault, the cell is held. -/
def State.enterTrap (s : State) (f : Flt) (eng : Eng) (pc : Word) : State :=
  let s := (s.traceFault eng f pc).rewind
  if s.cell.traps.active then s.holdCell f eng pc 2 false
  else
    let s := s.saveEpc
    match s.trapEntry with
    | none => s.holdCell f eng pc 1 false
    | some h =>
      if f.kind.routeH && s.cell.traps.vec.getLsbD f.kind.num then s.intoHandler f eng pc h
      else s.holdCell f eng pc 1 false

/-- Put taken tokens back at the head of their FIFOs, newest first. DEDUCED: one that its producer has refilled to 15 meanwhile holds 16
until its consumer takes the token again, of which TOKOCC's 4 bits show the low ones (log entry 35; R126 and R283 state no fate of such
a token). -/
def State.untake (s : State) : List (Fin 10 × Token) → State
  | [] => s
  | (j, x) :: l => (s.setTok j (x :: s.roll.tok[j])).untake l

/-- Put popped values back at the head of their queues, newest first. -/
def State.unpop (s : State) : List (Fin 16 × QEntry) → State
  | [] => s
  | (q, x) :: l => (s.setQ q (x :: s.roll.q[q])).unpop l

/-- A template of an engine. -/
def State.template (s : State) (e : Eng) (n : BitVec 6) : Option (BitVec 256) :=
  (s.cell.tmpl.get e)[n.toNat]'(n.isLt)

/-- A template of an engine written. -/
def State.setTemplate (s : State) (e : Eng) (n : BitVec 6) (img : BitVec 256) : State :=
  s.setCell { s.cell with tmpl := s.cell.tmpl.set e ((s.cell.tmpl.get e).set n.toNat (some img) n.isLt) }

/-- A template that a patch word amended goes back to what it was (R21). -/
def State.undoTemplate (s : State) (e : Eng) (u : Option (BitVec 6 × BitVec 256)) : State :=
  match u with
  | none => s
  | some (n, img) => s.setTemplate e n img

/-- The units of F's instruction in flight that have been performed: the cycles it has run, of a class whose unit is a cycle (R312,
R330). -/
def FOp.spent (o : FOp) (now : Nat) : Nat := if o.cls == 12 then Nat.min o.units (now - o.since) else 0

/-- The cycles that F's instruction in flight on a core has run are charged up to now (R312). -/
def State.payF (s : State) (k : CoreId) : State :=
  let c := s.cores[k].cell
  match c.flight.fop with
  | none => s
  | some o =>
    let n := o.spent s.now - o.paid
    if n = 0 || c.status != .running || c.frozen then s
    else
      let s : State := { s with cores := s.cores.set k { s.cores[k] with
        cell := { c with flight := { c.flight with fop := some { o with paid := o.paid + n } } } } }
      s.chargeTicks k c.ident.domain (n * s.weight o.cls)

/-- F's instruction in flight is abandoned: its popped values and tokens return and F stands at its word again (R240); the units that
have been performed stay charged (R312). -/
def State.abandonF (s : State) : State :=
  match s.flight.fop with
  | none => s
  | some o =>
    let p := s.path .F
    let s := (((s.payF s.cur.core).unpop o.popped).untake o.taken).undoTemplate .F o.undo
    let s := s.setPath .F { o.path with outs := o.eaten ++ p.outs }
    s.setFlight { s.flight with fop := none }

/-- The cell has taken a fault of code 2, or a trailer-check, at the same storage, and nothing has written it since (R297). -/
def State.seenBefore (s : State) (f : Flt) : Bool :=
  match f.watch with
  | none => false
  | some (x, n) => s.watch.contains (s.cell.ident.serial, x, n)

/-- The storage of such a fault is remembered until it is next written. -/
def State.watchFor (s : State) (f : Flt) : State :=
  match f.watch with
  | none => s
  | some (x, n) => { s with watch := (s.cell.ident.serial, x, n) :: s.watch }

/-- Another move is made in this cycle (R284). -/
def State.sameCycle (s : State) : Bool :=
  match s.agenda with
  | m :: _ => m.dt == 0
  | [] => false

/-- An engine of the cell may go on, and may take a fault: none of its own is pending, and none of an earlier cycle (R283, R284). -/
def State.mayRaise (s : State) (e : Eng) : Bool :=
  match s.cell.raised with
  | some r => r.at_ == s.now && r.eng != e
  | none => true

/-- The cell has taken a fault in an earlier cycle, which excludes every later one (R284). -/
def State.excluded (s : State) : Bool :=
  match s.cell.raised with
  | some r => r.at_ < s.now
  | none => false

/-- A cell stops for a layer-precise fault, whose taking is a send (R273, R351). -/
def State.stopLayer (s : State) (e : Eng) (f : Flt) (pc : Word) : State :=
  ((((s.send e).abandonF).traceFault e f pc).allHeads 0x02).clearStalls

/-- A cell stops for a context fault that it has taken, and will roll back (R273, R274). -/
def State.stopContext (s : State) (r : Raised) : State :=
  let s := s.stopLayer r.eng r.flt r.pc
  s.setCell { s.cell with status := .rolling (.context r.flt r.pc (s.run r.eng).beat), raised := none, faultAt := r.at_ }

/-- A layer-precise fault (R273, R294-R297): the cell stops and will roll back. A datapath-check fault of codes 1 and 3 counts in DPERR; one
of code 2 at a granule seen before, and a repeated trailer-check, are fatal. A datapath-check fault comes before the other faults of its
cycle, and a context fault before an engine-precise one; the stop of a context fault is made once the cycle is over. A fault of an earlier
cycle excludes every other (R284). -/
def State.takeLayer (s : State) (e : Eng) (f : Flt) : State :=
  if s.excluded then s
  else
  let pc := (s.path e).pc
  match f.kind with
  | .context =>
    let r : Raised := { flt := f, eng := e, pc := pc, at_ := s.now }
    if s.sameCycle then s.setCell { s.cell with raised := some r } else s.stopContext r
  | _ =>
    let s := s.stopLayer e f pc
    if s.seenBefore f then s.endLoads.fatal f e pc
    else
      let s := s.watchFor f
      let s := s.setCell { s.cell with status := .rolling (.replay f e pc), raised := none }
      if f.kind == .datapath && (f.code == 1 || f.code == 3) then
        s.setCore { s.core with dperr := holdSucc s.core.dperr }
      else s

/-- Nothing that an engine-precise stop waits for is in flight (R283). -/
def Flight.quiet (f : Flight) : Bool := f.cops.isEmpty && f.mcmd.isNone && f.nest.isNone

/-- An engine-precise fault of an engine is taken before another engine's of the same cycle: A, C, M, V, F (R284). -/
def Raised.yields (r : Raised) (e : Eng) (now : Nat) : Bool := r.at_ == now && r.flt.kind != .context && e.code < r.eng.code

/-- An engine takes an engine-precise fault of the word at an address, or else of the word at which it stands (R283, R284):
the taking is a send (R351). A's outstanding loads are performed first. The entry is made when no operation is in flight and the cycle is over: at once, or
by the event of the entry. -/
def State.takeFaultAt (s : State) (e : Eng) (f : Flt) (pc : Option Word) : State :=
  match s.cell.raised with
  | some r =>
    if r.yields e s.now then
      let s := s.send e
      s.setCell { s.cell with raised := some { flt := f, eng := e, pc := pc.getD (s.path e).pc, at_ := s.now } }
    else s
  | none =>
    match s.performLoads s.flight.loads.length with
    | .error g => s.takeLayer .A g
    | .ok s =>
      let s := s.send e
      let s := if f.kind == .lease then s else s.abandonF
      let pc := pc.getD (s.path e).pc
      if s.flight.quiet && s.flight.fop.isNone && !s.sameCycle then s.enterTrap f e pc
      else s.setCell { s.cell with raised := some { flt := f, eng := e, pc := pc, at_ := s.now } }

/-- An engine takes an engine-precise fault of the word at which it stands. -/
def State.takeFault (s : State) (e : Eng) (f : Flt) : State := s.takeFaultAt e f none

/-- A fault of an engine, by the precision of its kind (R282). -/
def State.fault (s : State) (e : Eng) (f : Flt) : State :=
  match f.kind with
  | .context | .trailer | .datapath => s.takeLayer e f
  | _ => s.takeFault e f

/-! ## Issuing a word -/

/-- The fault that ends a stall at its limit (R123, R132, R198, R199, R360). -/
def Why.timeout (w : Why) : Option Flt :=
  match w with
  | .qEmpty q => some (Flt.mk' .underflow q.val)
  | .qFull q => some (Flt.mk' .overflow q.val)
  | .fmtFull => some (Flt.mk' .overflow 0x40)
  | .fmtEmpty => some (Flt.mk' .formatUnderflow 0)
  | .quota n _ => some { kind := .quota, code := BitVec.ofNat 32 (n.toNat % 4), addr := n.setWidth 64 }
  | .staging => some (Flt.mk' .overflow 0x41)
  | _ => none

/-- When a stall of an engine on something began: now, unless it already waits for it. DEDUCED: an instruction that passes from the stall
of one queue to that of another starts a new count, since the first has let it proceed (log entry 35; R123 starts the counter when the
instruction first cannot proceed). -/
def State.stallSince (s : State) (e : Eng) (w : Why) : Nat :=
  match (s.run e).stall with
  | some st => if st.why = w then st.since else s.now
  | none => s.now

/-- The limit that a stall began with. -/
def State.stallLimit (s : State) (e : Eng) (w : Why) (limit : Option Nat) : Option Nat :=
  match (s.run e).stall with
  | some st => if st.why = w then st.limit else limit
  | none => limit

/-- A stalled engine is recorded, or takes the fault of a stall that has reached its limit. -/
def State.stallAt (s : State) (e : Eng) (w : Why) (limit : Option Nat) : State :=
  let s := s.uncountRoom e w
  let since := s.stallSince e w
  let lim := s.stallLimit e w limit
  let stall : State :=
    s.setRun e { (s.run e).toHead s.now w.head with stall := some { why := w, since := since, limit := lim } }
  match lim, w.timeout with
  | some n, some f => if n ≤ s.now - since then s.takeFault e f else stall
  | _, _ => stall

/-- The end of an issue: the next state of a result. On a wait or a fault the template of a patch word is as it was. DEDUCED: an
instruction that waits has taken no token and popped no value yet, so that QOCC and TOKOCC show them and their producers find no room
(log entry 35; R123 and R126 say only that a fault leaves the queues as the instruction found them). -/
def State.settleIssue (s : State) (e : Eng) (r : Res State) : Host.Outcome State Fault Refusal :=
  match r with
  | .ok t => .next t
  | .error (.wait w lim) => .next ((s.undoTemplate e s.cur.undo).stallAt e w lim)
  | .error (.waitIn t w lim) => .next ((t.undoTemplate e s.cur.undo).stallAt e w lim)
  | .error (.fault f) => .next ((s.undoTemplate e s.cur.undo).fault e f)
  | .error (.faultIn t f) => .next ((t.undoTemplate e s.cur.undo).fault e f)
  | .error (.faultBy t e' f) => .next ((t.undoTemplate e s.cur.undo).takeFaultAt e' f (some (s.path e).pc))

/-- The address of the word at which an engine stands, behind the prefixes of its chain. -/
def State.hostPc (s : State) (e : Eng) : Word := (s.path e).pc + BitVec.ofNat 64 (4 * (s.path e).exts.length)

/-- The address of the word after it. -/
def State.nextPc (s : State) (e : Eng) : Word := (s.path e).pc + BitVec.ofNat 64 (4 * ((s.path e).exts.length + 1))

/-- An engine makes posts, once its accesses are performed at cell scope (R127); posts to a full FIFO stay owed (R126). A load of A
that proves uncorrectable is the datapath-check fault instead (R108, R110). -/
def State.makePosts (s : State) (e : Eng) (js : List (Fin 10)) : State :=
  if js.isEmpty then s
  else
    match s.drain e with
    | .error f => s.fault e f
    | .ok s =>
      let (s, left) := s.postAll e ((s.run e).owed ++ js)
      s.setRun e { s.run e with owed := left }

/-- An engine walks past the word to an address (R93). -/
def State.advance (s : State) (e : Eng) (pc : Word) : State :=
  let p := s.path e
  let s := s.setPath e { p with pc := pc, walk := p.walk + 1, exts := [] }
  let s := s.setRun e { (s.run e).toHead s.now 0x00 with stall := none, stepped := true }
  s.setCell { s.cell with progress := s.now }

/-- An engine walks past a word that does not retire there (R24, R240, R355). -/
def State.walkOn (s : State) (e : Eng) (pc : Word) : State :=
  let t := s.advance e pc
  t.setRun e { t.run e with stepped := (s.run e).stepped }

/-- A word retires: its charge is made, its engine walks on, and its posts are made. -/
def State.retireTo (s : State) (e : Eng) (t : Tok) (cls : Fin 16) (units : Nat) (pc : Word) : State :=
  ((s.charge cls units).advance e pc).makePosts e (postsOf e t)

/-- A word retires to the word after it. -/
def State.retire (s : State) (e : Eng) (t : Tok) (cls : Fin 16) (units : Nat := 1) : State :=
  s.retireTo e t cls units (s.nextPc e)

/-- The binding checks of a word, made at decode (R122, R284). -/
def State.bindAll (s : State) (e : Eng) : List (Fin 16 × Bool) → Res Unit
  | [] => .ok ()
  | (q, push) :: l => do
    s.bindOk e q push
    s.bindAll e l

/-- The common shape of a word that has no path of its own: binding checks, token waits, its effect, retirement. -/
def State.issue (s : State) (e : Eng) (t : Tok) (cls : Fin 16) (uses : List (Fin 16 × Bool))
    (body : State → Res State) : Host.Outcome State Fault Refusal :=
  s.settleIssue e do
    s.bindAll e uses
    let (_, s) ← s.takeTokens e t
    let s ← body s
    .ok (s.retire e t cls)

end Sys2Proof.Machine
end

