-- ==== Sys2Proof/Machine/Operands.lean ====
section
/-! DEFINITION. Every operand form: A-engine selectors (R27, R28, R98), CD selectors (R29), and tiles. -/

namespace Sys2Proof.Machine

/-! ## A-engine selectors -/

/-- The queue a source selector uses, for the binding check. -/
def Src.uses : Src → List (Fin 16 × Bool)
  | .x _ => []
  | .pop q | .peek q => [(q, false)]

/-- The queue a destination selector uses, for the binding check. -/
def Dst.uses : Dst → List (Fin 16 × Bool)
  | .x _ => []
  | .push q => [(q, true)]

/-- The uses of a destination that the instruction also reads (R28): a pop and then a push of its queue. -/
def Dst.usesRead : Dst → List (Fin 16 × Bool)
  | .x _ => []
  | .push q => [(q, false), (q, true)]

/-- The value that a source selector gives (R98). -/
def State.src (s : State) : Src → Res (Word × State)
  | .x r => if s.xBusy r then .error (.wait .data none) else .ok (s.x r, s)
  | .pop q => s.pop .A q
  | .peek q => s.peekQ .A q

/-- The value that a destination gives where the instruction also reads it (R28). -/
def State.dstRead (s : State) : Dst → Res (Word × State)
  | .x r => if s.xBusy r then .error (.wait .data none) else .ok (s.x r, s)
  | .push q => s.pop .A q

/-- A value written to a destination selector (R98). -/
def State.dst (s : State) (d : Dst) (v : Word) : Res State :=
  match d with
  | .x r => if s.xBusy r then .error (.wait .data none) else .ok (s.setX r v)
  | .push q => s.push .A q v

/-- A destination that cannot be written yet: an outstanding load's register, or a full queue. -/
def State.dstReady (s : State) (d : Dst) : Res Unit :=
  match d with
  | .x r => if s.xBusy r then .error (.wait .data none) else .ok ()
  | .push q => s.roomQ .A q 1

/-! ## Shapes of A-engine words -/

/-- op d, a, b: a result computed from two sources. -/
def State.a3 (s : State) (cls : Fin 16) (t : Tok) (d : Dst) (a b : Src) (f : Word → Word → Word) :
    Host.Outcome State Fault Refusal :=
  s.issue .A t cls (Src.uses a ++ Src.uses b ++ Dst.uses d) fun s => do
    let (u, s) ← s.src a
    let (v, s) ← s.src b
    s.dst d (f u v)

/-- op d, a: a result computed from one source. -/
def State.a2 (s : State) (cls : Fin 16) (t : Tok) (d : Dst) (a : Src) (f : Word → Word) :
    Host.Outcome State Fault Refusal :=
  s.issue .A t cls (Src.uses a ++ Dst.uses d) fun s => do
    let (u, s) ← s.src a
    s.dst d (f u)

/-! ## CD selectors -/

/-- The queue a CD source uses. -/
def QSrc.uses : QSrc → List (Fin 16 × Bool)
  | .pop q | .peek q => [(q, false)]

/-- The value a CD source gives, with the entry popped, where one was (R29). -/
def State.qsrc (s : State) (e : Eng) : QSrc → Res (Word × List (Fin 16 × QEntry) × State)
  | .pop q => do
    let (x, s) ← s.popE e q
    .ok (x.value, [(q, x)], s)
  | .peek q => do
    let (v, s) ← s.peekQ e q
    .ok (v, [], s)

/-! ## Tiles -/

/-- A vector tile. -/
def State.tile (s : State) (t : Fin 16) : Tile := s.roll.v[t]

/-- A vector tile written. -/
def State.setTile (s : State) (t : Fin 16) (x : Tile) : State := s.setRoll { s.roll with v := s.roll.v.set t x }

/-- The tile whose lane i is f i. -/
def Tile.of (f : Nat → W32) : Tile := ⟨⟨(List.range 1024).map f⟩, by simp⟩

/-- A lane, by its number modulo 1,024. -/
def Tile.at_ (t : Tile) (i : Nat) : W32 := t[i % 1024]'(Nat.mod_lt _ (by decide))

end Sys2Proof.Machine
end

