-- ==== Sys2Proof/Machine/SysSpace.lean ====
section
/-! DEFINITION. System space (R107): what its words read as, and what a write to one does (R148, R291, R311, R333, R334,
R336, R339, R341, R354). -/

namespace Sys2Proof.Machine

/-- The link status word of a port (R334). -/
def Port.word (p : Port) : Word := BitVec.ofBool p.up ++ BitVec.ofBool p.qsc ++ p.lanes ++ 0#50 ++ p.peer

/-- An aligned word of system space as a die reads it. -/
def State.sysLoad (s : State) (d : DieId) (off : Nat) : Nat :=
  if 0x1200008 ≤ off && off < 0x1200088 then
    (s.ports[(off - 0x1200008) / 8 % 16]'(Nat.mod_lt _ (by decide))).word.toNat
  else s.entryAt (locSys d off)

/-- The combine entries and sequence records of a tree on a die cleared (R341). -/
def State.clearTree (s : State) (d : DieId) (t : Nat) : State :=
  s.setDie d { s.die d with nodes := (s.die d).nodes.filter fun n => n.tree.val != t }

/-- An aligned word of system space written as it stands. -/
def State.sysPut (s : State) (d : DieId) (off v : Nat) : State := s.pour (locSys d off) (leBytes 8 v)

/-- A write of a chronograph's control word (R354): its data is cleared. -/
def State.writeChrono (s : State) (d : DieId) (n : Fin 16) (v : Nat) : State :=
  let s := s.sysPut d (0x1300000 + 8 * n.val) (v / 2 ^ 59 * 2 ^ 59 + v % 2 ^ 48)
  s.setDie d { s.die d with chrono := (s.die d).chrono.set n Chrono.none }

/-- A write of a word of a tree descriptor (R341); a header with V = 1 clears the tree's state on the die. -/
def State.writeTree (s : State) (d : DieId) (t w v : Nat) : State :=
  let s := s.sysPut d (0x1000000 + 2048 * t + 8 * w) v
  if w = 0 && v.testBit 63 then s.clearTree d t else s

/-- A write of a channel entry (R333, R336): one that retires a valid channel starts its drain, and the old entry governs
until the drain ends. -/
def State.writeChannel (s : State) (c : BitVec 12) (v : Nat) : State :=
  let off := 0x1100000 + 8 * c.toNat
  if s.draining.any fun d => d.1 == c then s
  else if (s.entryAt (locSys 0 off)).testBit 63 && !v.testBit 63 then
    { s with draining := s.draining ++ [(c, s.now, v)] }
  else s.sysPut 0 off (v / 2 ^ 63 * 2 ^ 63 + v % 512)

/-- A write of an aligned word of system space from a die: bits that a structure reserves are ignored, and so is a write
to an offset that no chapter assigns. -/
def State.sysStore (s : State) (d : DieId) (off v : Nat) : State :=
  if 0x10000 ≤ off && off < 0x10600 then s.sysPut d off (v / 2 ^ 63 * 2 ^ 63 + v % 2 ^ 16)
  else if 0x20000 ≤ off && off < 0xA0000 then s.sysPut d off v
  else if 0x200000 ≤ off && off < 0x300000 then
    s.sysPut d off ((if off % 16 = 0 then v / 2 ^ 63 * 2 ^ 63 else 0) + v % 2 ^ 48)
  else if 0x1000000 ≤ off && off < 0x1080000 then
    let w := (off - 0x1000000) % 2048 / 8
    if w < 198 then s.writeTree d ((off - 0x1000000) / 2048) w v else s
  else if 0x1100000 ≤ off && off < 0x1108000 then s.writeChannel (BitVec.ofNat 12 ((off - 0x1100000) / 8)) v
  else if off = 0x1200000 then s.sysPut d off (v % 512)
  else if off = 0x1200100 then s.sysPut d off (v / 2 ^ 30 * 2 ^ 30)
  else if 0x1300000 ≤ off && off < 0x1300080 then s.writeChrono d (Fin.ofNat 16 ((off - 0x1300000) / 8)) v
  else s

/-- The n bytes that a supervisor cell reads at an aligned offset of system space. -/
def State.sysBytes (s : State) (d : DieId) (off : Nat) : Nat → List Byte
  | 0 => []
  | n + 1 => BitVec.ofNat 8 (s.sysLoad d (off / 8 * 8) / 2 ^ (8 * (off % 8))) :: s.sysBytes d (off + 1) n

/-- A poisoned granule of system space among n bytes at an offset (R295). -/
def State.sysBad (s : State) (d : DieId) (off n : Nat) : Option Nat := s.poisoned .device (locSys d off) n

/-- Bytes written at an offset of system space within one aligned word; one that is not written whole keeps its poison (R295). -/
def State.sysPiece (s : State) (d : DieId) (off : Nat) (bs : List Byte) : State :=
  let base := off / 8 * 8
  let old := s.sysBytes d base 8
  let bad := (s.sysBad d base 8).isSome && bs.length < 8
  let s := s.sysStore d base (leNat (old.take (off % 8) ++ bs ++ old.drop (off % 8 + bs.length)))
  if bad then s.addPoison (locSys d base) else s

/-- Bytes written at an aligned offset of system space, word by word. -/
def State.sysWrite (s : State) (d : DieId) (off : Nat) (bs : List Byte) : Nat → State
  | 0 => s
  | fuel + 1 =>
    if bs.length ≤ 8 then s.sysPiece d off bs
    else (s.sysPiece d off (bs.take 8)).sysWrite d (off + 8) (bs.drop 8) fuel

end Sys2Proof.Machine
end

