-- ==== Sys2Proof/WellFormed.lean ====
section
/-! DEFINITION. Which instructions are well formed: the operand checks of R33-R37, R46, R51-R57, R152, R174,
R207 and R343 as one total check that names the first check an instruction breaks. -/

namespace Sys2Proof

/-- Why bits are no instruction (R57). -/
inductive DecodeError where
  /-- ENG 0b111 (R24). -/
  | reservedEngine
  /-- An OP that the engine's map leaves unassigned (R49, R52-R56). -/
  | unassigned
  /-- A direct word of an opcode that has a template form only (R52). -/
  | noDirectForm
  /-- An image whose OP is not template-capable (R45, R46). -/
  | notTemplate
  /-- A nonzero reserved field (R37, R43, R46). -/
  | reservedField
  /-- A destination selector 48-63 (R27). -/
  | peekDestination
  /-- An ldq destination outside 32-47 (R50). -/
  | ldqDestination
  /-- A selector outside the classes of its role (R29, R32). -/
  | selectorClass
  /-- A mod field that R33, R34 or R174 rules out. -/
  | modField
  /-- A memory element that R35 rules out. -/
  | elemField
  /-- A system register number that names no register (R51). -/
  | sysReg
  /-- A scope code 5-7 (R50). -/
  | scope
  /-- A tset engine code 5-7 (R50). -/
  | tsetEngine
  /-- An m.lvl level above 5 (R53). -/
  | level
  /-- Tiles past a63 (R53). -/
  | tiles
  /-- A destination format that names no matrix format (R52). -/
  | format
  /-- An offset that does not fit the widest form R40 gives it. -/
  | offset
  /-- A prefix chain before a word that takes none, or longer than R40 allows. -/
  | chain
  /-- A patch word with engine code 5-7 (R42). -/
  | patchEngine
  /-- Fewer bytes than one word. -/
  | tooShort
  deriving DecidableEq, Repr

/-- The float lane types. -/
def Ty.isFloat : Ty → Bool
  | .f32 | .bf16 | .f16 => true
  | .s32 | .n32 | .s16 | .n16 | .s8 => false

/-- The saturation rule of a row of R174. -/
inductive SatRule where
  | never | always | onInt
  deriving DecidableEq, Repr

/-- A mod field against a row of R174: the types it accepts, whether it rounds, and when it saturates. -/
def Mod.ok (m : Mod) (types : List Ty) (rounds : Bool) (sat : SatRule) : Bool :=
  types.contains m.ty
    && (m.rnd == .rne || (rounds && m.ty.isFloat && m.rnd != .rna))
    && (!m.sat || match sat with
        | .never => false
        | .always => true
        | .onInt => !m.ty.isFloat)

/-- The eight types ("all" of R174). -/
def Ty.every : List Ty := [.f32, .bf16, .f16, .s32, .n32, .s16, .n16, .s8]

/-- The float types ("F" of R174). -/
def Ty.floats : List Ty := [.f32, .bf16, .f16]

/-- The integer types ("I" of R174). -/
def Ty.ints : List Ty := [.s32, .n32, .s16, .n16, .s8]

/-- The system registers of the device (R51 and the tables of the chapters): the numbers that name one. -/
def sysRegExists (r : BitVec 12) : Bool :=
  let n := r.toNat
  [(0x000, 0x00F), (0x040, 0x046), (0x080, 0x08B), (0x0C0, 0x0C6), (0x100, 0x104), (0x140, 0x150),
   (0x180, 0x186), (0x1C0, 0x1C8), (0x200, 0x202), (0x208, 0x20A), (0x210, 0x218), (0x220, 0x222),
   (0x228, 0x229), (0x238, 0x23C), (0x240, 0x241)].any fun p => p.1 ≤ n && n ≤ p.2

/-- A word offset fits n signed bits (R40). -/
def fitsSigned (n : Nat) (v : Word) : Bool := (v.setWidth n).signExtend 64 == v

/-- The tiles a shape index writes (R53). -/
def shapeTiles (h : Fin 8) : Nat :=
  match h with
  | 0 | 1 | 2 | 3 => 1
  | 4 | 5 => 2
  | 6 | 7 => 4

/-- A check that answers a named error when its condition fails. -/
def need (b : Bool) (e : DecodeError) : Except DecodeError Unit := if b then .ok () else .error e

/-- The reserved fields of a C image (R152, R343). -/
def CFields.resv78 (f : CFields) : Bool := f.f7 == 0 && f.f8 == 0

/-- A C-engine instruction's image or direct form against its reserved fields. -/
def CForm.check (o : CForm) (resvOk : CFields → Bool) : Except DecodeError Unit :=
  match o with
  | .direct _ _ _ => .ok ()
  | .image f => need (resvOk f) .reservedField

/-- c.conv: the direct form's format code names a matrix format (R52); fields 6-8 are reserved (R152). -/
def convCheck (o : CForm) : Except DecodeError Unit :=
  match o with
  | .direct _ _ k => need (k.toNat ≤ 27) .format
  | .image f => need (f.f6 == 0 && f.resv78) .reservedField

/-- A tile command: the direct form stays within a63 (R53); the image of m.mma has fields 3 and 4 reserved and
neither command has fields 6 and 7 (R207). -/
def mmaCheck (h : Fin 8) (o : MForm) (bitmaps : Bool) : Except DecodeError Unit :=
  match o with
  | .direct n _ => need (n.toNat + shapeTiles h ≤ 64) .tiles
  | .image b =>
    need (b.shape == 0 && !b.sparse && (bitmaps || (b.amoff == 0 && b.bmoff == 0))) .reservedField

/-- The first check of R57 that an instruction breaks. Events have no encoding and are always well formed. -/
def Instr.check (i : Instr) : Except DecodeError Unit :=
  match i with
  | .beq _ _ o | .bne _ _ o | .blt _ _ o | .bge _ _ o | .bgt _ _ o | .ble _ _ o | .vBr _ _ _ o =>
    need (fitsSigned 41 o) .offset
  | .jmp _ o | .call _ o => need (fitsSigned 47 o) .offset
  | .mark _ c | .pub _ _ c => need (c.toNat ≤ 4) .scope
  | .srd _ _ r | .swr _ _ r => need (sysRegExists r) .sysReg
  | .cCopy _ o => o.check CFields.resv78
  | .cFill _ o => o.check fun f => f.f5 == 0 && f.f6 == 0 && f.resv78
  | .cConvF32 _ o | .cConvBf16 _ o | .cConvF16 _ o => convCheck o
  | .cDrain _ (.image f) => need (f.f6 == 0 && f.resv78) .reservedField
  | .cScat _ f => need (f.f8 == 0) .reservedField
  | .cRsend _ f | .cRrecv _ f => need (f.f3 == 0 && f.f6 == 0 && f.resv78) .reservedField
  | .mZero _ n c => need (n.toNat + c.toNat + 1 ≤ 64) .tiles
  | .mMma _ h o => mmaCheck h o false
  | .mMmas _ h o => mmaCheck h o true
  | .vStx _ _ _ _ e => need (e == .e32 || e == .n16 || e == .n8) .elemField
  | .vAdd _ _ _ _ m | .vSub _ _ _ _ m | .vMul _ _ _ _ m | .vFma _ _ _ _ m =>
    need (m.ok Ty.every true .always) .modField
  | .vMin _ _ _ _ m | .vMax _ _ _ _ m | .vAnd _ _ _ _ m | .vOr _ _ _ _ m | .vXor _ _ _ _ m
  | .vSel _ _ _ _ m | .vCmpEq _ _ _ _ m | .vCmpNe _ _ _ _ m | .vCmpLt _ _ _ _ m | .vCmpLe _ _ _ _ m
  | .vRotr _ _ _ _ m | .vRotc _ _ _ _ m | .vBcr _ _ _ _ m | .vBcc _ _ _ _ m | .vSplat _ _ _ m
  | .vRedrMax _ _ _ m | .vRedrMin _ _ _ m | .vRedcMax _ _ _ m | .vRedcMin _ _ _ m | .vPart _ _ _ _ m =>
    need (m.ok Ty.every false .never) .modField
  | .vAbs _ _ _ m | .vNeg _ _ _ m => need (m.ok Ty.every false .onInt) .modField
  | .vShl _ _ _ _ m => need (m.ok Ty.ints false .always) .modField
  | .vShr _ _ _ _ m => need (m.ok Ty.ints false .never) .modField
  | .vExp2 _ _ _ m | .vLog2 _ _ _ m | .vRcp _ _ _ m | .vRsq _ _ _ m =>
    need (m.ok Ty.floats true .always) .modField
  | .vScanr _ _ _ m | .vRedrAdd _ _ _ m | .vRedcAdd _ _ _ m => need (m.ok Ty.every true .always) .modField
  | .vIota _ _ m => need (m.ok [.f32, .s32, .n32] false .never) .modField
  | .vPack _ _ _ m | .vUnpack _ _ _ m => need (m.ok [.bf16, .f16, .s16, .n16, .s8] false .never) .modField
  | .vStub _ _ _ _ m => need (m.ok Ty.floats false .never) .modField
  | .vCvt _ _ _ x y r _ => need (x.isFloat || y.isFloat || r == .rne) .modField
  | _ => .ok ()

/-- An instruction breaks no check of R57. -/
abbrev WellFormed (i : Instr) : Prop := i.check.isOk = true

end Sys2Proof
end

