-- ==== Sys2Proof/Decode.lean ====
section
/-! DEFINITION. Decoding of instruction words, prefix chains and template images (R22-R46, R49-R57), and after it
the encoder. -/

namespace Sys2Proof

/-! ## Bit fields -/

/-- The engine code of a word (R22). -/
def engOf (w : W32) : BitVec 3 := w.extractLsb' 29 3

/-- The token bits of a word (R22). -/
def tokOf (w : W32) : Tok := w.extractLsb' 25 4

/-- The opcode of a word (R22). -/
def opOf (w : W32) : BitVec 7 := w.extractLsb' 18 7

/-- The operand bits of a word (R22). -/
def operandsOf (w : W32) : BitVec 18 := w.extractLsb' 0 18

/-- The bits of an extension prefix above its engine code (R38). -/
def extOf (w : W32) : BitVec 29 := w.extractLsb' 0 29

/-- A source selector (R27). -/
def srcOf (s : BitVec 6) : Src :=
  if s.toNat < 32 then .x (Fin.ofNat 32 s.toNat)
  else if s.toNat < 48 then .pop (Fin.ofNat 16 (s.toNat - 32))
  else .peek (Fin.ofNat 16 (s.toNat - 48))

/-- A destination selector (R27). -/
def dstOf (s : BitVec 6) : Except DecodeError Dst :=
  if s.toNat < 32 then .ok (.x (Fin.ofNat 32 s.toNat))
  else if s.toNat < 48 then .ok (.push (Fin.ofNat 16 (s.toNat - 32)))
  else .error .peekDestination

/-- A queue selector of a CD word in a source role (R29). -/
def qsrcOf (s : BitVec 6) : Except DecodeError QSrc :=
  if s.toNat < 16 then .ok (.pop (Fin.ofNat 16 s.toNat))
  else if s.toNat < 32 then .ok (.peek (Fin.ofNat 16 (s.toNat - 16)))
  else .error .selectorClass

/-- A popped queue of a CD word, where the role takes the pop class only (R53, R206). -/
def qpopOf (s : BitVec 6) : Except DecodeError (Fin 16) :=
  if s.toNat < 16 then .ok (Fin.ofNat 16 s.toNat) else .error .selectorClass

/-- A window selector of a CD word (R29). -/
def windowOf (s : BitVec 6) : Except DecodeError (Fin 8) :=
  if 32 ≤ s.toNat ∧ s.toNat < 40 then .ok (Fin.ofNat 8 (s.toNat - 32)) else .error .selectorClass

/-- The sel field of a VM word (R32). -/
def vselOf (s : BitVec 8) : Except DecodeError VSel :=
  if s.toNat < 8 then .ok (.win (Fin.ofNat 8 s.toNat))
  else if 0x80 ≤ s.toNat ∧ s.toNat < 0x90 then .ok (.pop (Fin.ofNat 16 (s.toNat - 0x80)))
  else if 0x90 ≤ s.toNat ∧ s.toNat < 0xA0 then .ok (.peek (Fin.ofNat 16 (s.toNat - 0x90)))
  else .error .selectorClass

/-- A 4-bit register or queue number. -/
def reg4 (s : BitVec 4) : Fin 16 := Fin.ofNat 16 s.toNat

/-- A lane type code (R33). -/
def Ty.ofCode (c : BitVec 3) : Ty :=
  match c.toNat with
  | 0 => .f32 | 1 => .bf16 | 2 => .f16 | 3 => .s32 | 4 => .n32 | 5 => .s16 | 6 => .n16 | _ => .s8

/-- A 2-bit rounding code (R33). -/
def Rnd.ofCode2 (c : BitVec 2) : Rnd :=
  match c.toNat with
  | 0 => .rne | 1 => .rtz | 2 => .rdn | _ => .rup

/-- A 3-bit rounding code (R34). -/
def Rnd.ofCode3 (c : BitVec 3) : Except DecodeError Rnd :=
  match c.toNat with
  | 0 => .ok .rne | 1 => .ok .rtz | 2 => .ok .rdn | 3 => .ok .rup | 4 => .ok .rna | _ => .error .modField

/-- A mod field (R33). -/
def modOf (m : BitVec 6) : Mod :=
  ⟨Ty.ofCode (m.extractLsb' 3 3), Rnd.ofCode2 (m.extractLsb' 1 2), m.getLsbD 0⟩

/-- A memory element field (R35). -/
def elemOf (m : BitVec 6) : Except DecodeError Elem := do
  need (m.extractLsb' 0 3 == 0) .reservedField
  match (m.extractLsb' 3 3).toNat with
  | 0 => .ok .e32 | 1 => .ok .n16 | 2 => .ok .s16 | 3 => .ok .n8 | 4 => .ok .s8 | _ => .error .elemField

/-- A v.br condition (R32). -/
def condOf (c : BitVec 2) : VCond :=
  match c.toNat with
  | 0 => .any | 1 => .all | 2 => .none | _ => .nall

/-! ## Immediates -/

/-- Where a host's extended value comes from: the chain before a direct word (R39), or field W of a template (R46). -/
inductive ImmSrc where
  | chain (exts : List (BitVec 29))
  | image (w : BitVec 64)
  deriving DecidableEq, Repr

/-- A word that takes no chain, and an image whose W must be 0 (R40, R46). -/
def noExt (s : ImmSrc) : Except DecodeError Unit :=
  match s with
  | .chain e => need e.isEmpty .chain
  | .image w => need (w == 0) .reservedField

/-- A signed field under a chain of at most `most` prefixes, or the template's W with the field's bits 0 (R39, R40, R46). -/
def immSigned {n : Nat} (s : ImmSrc) (most : Nat) (f : BitVec n) : Except DecodeError Word :=
  match s with
  | .chain [] => .ok (f.signExtend 64)
  | .chain [p] => .ok ((p ++ f).signExtend 64)
  | .chain [p, q] => if 2 ≤ most then .ok ((p ++ q ++ f).signExtend 64) else .error .chain
  | .chain _ => .error .chain
  | .image w => if f == 0 then .ok w else .error .reservedField

/-- An unsigned field under a chain of at most one prefix (R39, R40), or the template's W. -/
def immNatural {n : Nat} (s : ImmSrc) (f : BitVec n) : Except DecodeError Word :=
  match s with
  | .chain [] => .ok (f.setWidth 64)
  | .chain [p] => .ok ((p ++ f).setWidth 64)
  | .chain _ => .error .chain
  | .image w => if f == 0 then .ok w else .error .reservedField

/-! ## The opcode maps -/

/-- The A3 opcodes with three operands (R49, R50). -/
def a3Table : List (Nat × (Tok → Dst → Src → Src → Instr)) :=
  [(0x00, .add), (0x01, .sub), (0x02, .mul), (0x03, .mulh), (0x04, .mulhn), (0x05, .div), (0x06, .divn),
   (0x07, .rem), (0x08, .remn), (0x09, .and), (0x0A, .or), (0x0B, .xor), (0x0C, .andn), (0x0D, .shl),
   (0x0E, .shr), (0x0F, .sra), (0x10, .min), (0x11, .max), (0x12, .minn), (0x13, .maxn), (0x17, .bext),
   (0x18, .bdep), (0x19, .slt), (0x1A, .sltn), (0x1B, .seq), (0x1C, .sel), (0x1D, .addS32), (0x1E, .subS32),
   (0x1F, .mulS32), (0x20, .shlS32), (0x21, .shrS32), (0x22, .sraS32), (0x68, .amoAdd), (0x69, .amoMin),
   (0x6A, .amoMax), (0x6B, .amoAnd), (0x6C, .amoOr), (0x6D, .amoXor), (0x6E, .amoXchg), (0x6F, .amoFaddF32),
   (0x70, .amoFmaxF32), (0x71, .cas), (0x72, .await), (0x7E, .sgin), (0x7F, .sgout)]

/-- The A3 opcodes with a destination and one source; b is reserved (R50). -/
def a2Table : List (Nat × (Tok → Dst → Src → Instr)) :=
  [(0x14, .clz), (0x15, .ctz), (0x16, .popc), (0x23, .rslot), (0x77, .barTest), (0x7B, .qstat), (0x7C, .lnch)]

/-- The A3 opcodes with two sources; d is reserved (R50). -/
def abTable : List (Nat × (Tok → Src → Src → Instr)) :=
  [(0x73, .barInit), (0x75, .barAdd), (0x79, .push), (0x7A, .renq)]

/-- The A3 opcodes with one source; d and b are reserved (R50). -/
def a1Table : List (Nat × (Tok → Src → Instr)) :=
  [(0x24, .hack), (0x25, .trc), (0x74, .barArr), (0x76, .barWait), (0x7D, .fpush)]

/-- The AI opcodes with a destination and a source (R49). -/
def aiTable : List (Nat × (Tok → Dst → Src → Word → Instr)) :=
  [(0x28, .addImm), (0x29, .addS32Imm), (0x2A, .mulImm), (0x2B, .andImm), (0x2C, .orImm), (0x2D, .xorImm),
   (0x2E, .shlImm), (0x2F, .shrImm), (0x30, .sraImm), (0x31, .sltImm), (0x32, .sltnImm), (0x33, .seqImm)]

/-- The AB branches (R49). -/
def branchTable : List (Nat × (Tok → Src → Word → Instr)) :=
  [(0x38, .beq), (0x39, .bne), (0x3A, .blt), (0x3B, .bge), (0x3C, .bgt), (0x3D, .ble)]

/-- The AJ opcodes whose operand bits are reserved (R31). -/
def ajTable : List (Nat × (Tok → Instr)) :=
  [(0x40, .ret), (0x41, .nop), (0x42, .halt), (0x44, .eret), (0x45, .ltrig), (0x46, .lcmt), (0x47, .rply)]

/-- The AM loads (R49), with the access size in bytes. -/
def loadTable : List (Nat × Nat × (Tok → Dst → Src → Word → Instr)) :=
  [(0x50, 1, .ldN8), (0x51, 2, .ldN16), (0x52, 4, .ldN32), (0x53, 8, .ldN64), (0x54, 1, .ldS8), (0x55, 2, .ldS16),
   (0x56, 4, .ldS32)]

/-- The AM stores (R49). -/
def storeTable : List (Nat × (Tok → Src → Src → Word → Instr)) :=
  [(0x58, .stN8), (0x59, .stN16), (0x5A, .stN32), (0x5B, .stN64)]

/-- The AM run-ahead loads (R49). -/
def ldqTable : List (Nat × (Tok → Fin 16 → Src → Word → Instr)) :=
  [(0x60, .ldqN8), (0x61, .ldqN16), (0x62, .ldqN32), (0x63, .ldqN64), (0x64, .ldqS8), (0x65, .ldqS16),
   (0x66, .ldqS32)]

/-- The A-engine word (R49-R51). -/
def decodeA (t : Tok) (op : Nat) (o : BitVec 18) (s : ImmSrc) : Except DecodeError Instr :=
  let d := o.extractLsb' 12 6
  let a := o.extractLsb' 6 6
  let b := o.extractLsb' 0 6
  match a3Table.lookup op with
  | some f => do noExt s; .ok (f t (← dstOf d) (srcOf a) (srcOf b))
  | none =>
  match a2Table.lookup op with
  | some f => do noExt s; need (b == 0) .reservedField; .ok (f t (← dstOf d) (srcOf a))
  | none =>
  match abTable.lookup op with
  | some f => do noExt s; need (d == 0) .reservedField; .ok (f t (srcOf a) (srcOf b))
  | none =>
  match a1Table.lookup op with
  | some f => do noExt s; need (d == 0 && b == 0) .reservedField; .ok (f t (srcOf a))
  | none =>
  match aiTable.lookup op with
  | some f => do .ok (f t (← dstOf d) (srcOf a) (← immSigned s 2 b))
  | none =>
  match branchTable.lookup op with
  | some f => do .ok (f t (srcOf d) (← immSigned s 1 (o.extractLsb' 0 12)))
  | none =>
  match ajTable.lookup op with
  | some f => do noExt s; need (o == 0) .reservedField; .ok (f t)
  | none =>
  match loadTable.lookup op with
  | some (_, f) => do .ok (f t (← dstOf d) (srcOf a) (← immSigned s 2 b))
  | none =>
  match storeTable.lookup op with
  | some f => do .ok (f t (srcOf d) (srcOf a) (← immSigned s 2 b))
  | none =>
  match ldqTable.lookup op with
  | some f => do
    need (32 ≤ d.toNat && d.toNat < 48) .ldqDestination
    .ok (f t (Fin.ofNat 16 (d.toNat - 32)) (srcOf a) (← immSigned s 2 b))
  | none =>
  if op == 0x34 then do need (a == 0) .reservedField; .ok (.li t (← dstOf d) (← immSigned s 2 b))
  else if op == 0x3E then do .ok (.jmp t (← immSigned s 1 o))
  else if op == 0x3F then do .ok (.call t (← immSigned s 1 o))
  else if op == 0x43 then do noExt s; .ok (.trap t o)
  else if op == 0x48 then do
    noExt s; need (o.extractLsb' 3 15 == 0) .reservedField; .ok (.mark t (o.extractLsb' 0 3))
  else if op == 0x49 then do noExt s; need (a == 0 && b == 0) .reservedField; .ok (.rnd t (← dstOf d))
  else if op == 0x4A then do noExt s; .ok (.srd t (← dstOf d) (o.extractLsb' 0 12))
  else if op == 0x4B then do noExt s; .ok (.swr t (srcOf d) (o.extractLsb' 0 12))
  else if op == 0x4C then do
    noExt s; need (b.extractLsb' 3 3 == 0) .reservedField
    match Eng.ofCode (b.extractLsb' 0 3).toNat with
    | some e => .ok (.tset t d (srcOf a) e)
    | none => .error .tsetEngine
  else if op == 0x78 then do
    noExt s; need (d == 0 && b.extractLsb' 3 3 == 0) .reservedField; .ok (.pub t (srcOf a) (b.extractLsb' 0 3))
  else .error .unassigned

/-- The C-engine direct word (R52). -/
def decodeC (t : Tok) (op : Nat) (o : BitVec 18) : Except DecodeError Instr :=
  let s1 := o.extractLsb' 12 6
  let s2 := o.extractLsb' 6 6
  let k := o.extractLsb' 0 6
  let two (f : Tok → CForm → Instr) : Except DecodeError Instr := do
    .ok (f t (.direct (← qsrcOf s1) (← qsrcOf s2) k))
  match op with
  | 0x00 => two .cCopy
  | 0x01 | 0x02 | 0x08 | 0x0D | 0x0E => .error .noDirectForm
  | 0x03 => two .cFill
  | 0x04 => two .cConvF32
  | 0x05 => two .cConvBf16
  | 0x06 => two .cConvF16
  | 0x07 => do need (k == 0) .reservedField; .ok (.cDrain t (.direct s1 (← qsrcOf s2)))
  | 0x09 => do need (k == 0) .reservedField; .ok (.cWmap t (← windowOf s1) (← qsrcOf s2))
  | 0x0A => do need (s2 == 0) .reservedField; .ok (.cWadv t (← windowOf s1) k)
  | 0x0B => do need (s2 == 0 && k == 0) .reservedField; .ok (.cWret t (← windowOf s1))
  | 0x0C => do need (s2 == 0) .reservedField; .ok (.cPfx t (← qsrcOf s1) k)
  | 0x0F => do need (s2 == 0) .reservedField; .ok (.cMbx t (← qsrcOf s1) k)
  | _ => .error .unassigned

/-- The M-engine direct word (R53). -/
def decodeM (t : Tok) (op : Nat) (o : BitVec 18) : Except DecodeError Instr :=
  let s1 := o.extractLsb' 12 6
  let s2 := o.extractLsb' 6 6
  let k := o.extractLsb' 0 6
  if op == 0x00 then do
    need (s2 == 0) .reservedField
    let q ← qpopOf s1
    if h : k.toNat < 6 then .ok (.mLvl t q ⟨k.toNat, h⟩) else .error .level
  else if op == 0x01 then do need (o == 0) .reservedField; .ok (.mGo t none)
  else if op == 0x02 then do need (s2 == 0) .reservedField; .ok (.mZero t s1 k)
  else if op == 0x03 then do need (o == 0) .reservedField; .ok (.mStop t)
  else if 0x10 ≤ op ∧ op < 0x18 then do
    need (k == 0) .reservedField; .ok (.mMma t (Fin.ofNat 8 (op - 0x10)) (.direct s1 (← qpopOf s2)))
  else if 0x18 ≤ op ∧ op < 0x20 then do
    need (k == 0) .reservedField; .ok (.mMmas t (Fin.ofNat 8 (op - 0x18)) (.direct s1 (← qpopOf s2)))
  else .error .unassigned

/-- The V3 opcodes with three tiles (R54, R55). -/
def v3Table : List (Nat × (Tok → Fin 16 → Fin 16 → Fin 16 → Mod → Instr)) :=
  [(0x10, .vAdd), (0x11, .vSub), (0x12, .vMul), (0x13, .vFma), (0x14, .vMin), (0x15, .vMax), (0x18, .vAnd),
   (0x19, .vOr), (0x1A, .vXor), (0x1B, .vShl), (0x1C, .vShr), (0x1D, .vSel), (0x22, .vCmpEq), (0x23, .vCmpNe),
   (0x24, .vCmpLt), (0x25, .vCmpLe)]

/-- The V3 opcodes with two tiles; vb is reserved (R370). -/
def v2Table : List (Nat × (Tok → Fin 16 → Fin 16 → Mod → Instr)) :=
  [(0x16, .vAbs), (0x17, .vNeg), (0x1E, .vExp2), (0x1F, .vLog2), (0x20, .vRcp), (0x21, .vRsq), (0x2C, .vScanr),
   (0x30, .vRedrAdd), (0x31, .vRedrMax), (0x32, .vRedrMin), (0x33, .vRedcAdd), (0x34, .vRedcMax),
   (0x35, .vRedcMin), (0x36, .vPack), (0x37, .vUnpack)]

/-- The VQ opcodes with two tiles and a queue (R54, R55). -/
def vqTable : List (Nat × (Tok → Fin 16 → Fin 16 → Fin 16 → Mod → Instr)) :=
  [(0x28, .vRotr), (0x29, .vRotc), (0x2A, .vBcr), (0x2B, .vBcc), (0x38, .vPart), (0x3A, .vStub)]

/-- The VM opcodes (R54). -/
def vmTable : List (Nat × (Tok → Fin 16 → VSel → Word → Instr)) :=
  [(0x00, .vLdN8), (0x01, .vLdS8), (0x02, .vLdN16), (0x03, .vLdS16), (0x04, .vLd), (0x05, .vStN8), (0x06, .vStN16),
   (0x07, .vSt)]

/-- The V-engine word (R54, R55). -/
def decodeV (t : Tok) (op : Nat) (o : BitVec 18) (s : ImmSrc) : Except DecodeError Instr :=
  let d := o.extractLsb' 14 4
  let a := o.extractLsb' 10 4
  let b := o.extractLsb' 6 4
  let m := o.extractLsb' 0 6
  match v3Table.lookup op with
  | some f => do noExt s; .ok (f t (reg4 d) (reg4 a) (reg4 b) (modOf m))
  | none =>
  match v2Table.lookup op with
  | some f => do noExt s; need (b == 0) .reservedField; .ok (f t (reg4 d) (reg4 a) (modOf m))
  | none =>
  match vqTable.lookup op with
  | some f => do noExt s; .ok (f t (reg4 d) (reg4 a) (reg4 b) (modOf m))
  | none =>
  match vmTable.lookup op with
  | some f => do .ok (f t (reg4 d) (← vselOf (o.extractLsb' 6 8)) (← immNatural s m))
  | none =>
  if op == 0x08 then do noExt s; .ok (.vLdx t (reg4 d) (reg4 a) (reg4 b) (← elemOf m))
  else if op == 0x09 then do noExt s; .ok (.vStx t (reg4 d) (reg4 a) (reg4 b) (← elemOf m))
  else if op == 0x2D then do noExt s; need (a == 0 && b == 0) .reservedField; .ok (.vIota t (reg4 d) (modOf m))
  else if op == 0x2E then do noExt s; need (a == 0) .reservedField; .ok (.vSplat t (reg4 d) (reg4 b) (modOf m))
  else if op == 0x39 then do
    noExt s; need (m == 0) .modField; .ok (.vSmass t (reg4 d) (reg4 a) (reg4 b))
  else if op == 0x3B then do
    .ok (.vBr t (reg4 d) (condOf (o.extractLsb' 12 2)) (← immSigned s 1 (o.extractLsb' 0 12)))
  else if 0x40 ≤ op ∧ op < 0x50 then do
    noExt s; need (b == 0) .reservedField
    .ok (.vCvt t (reg4 d) (reg4 a) (Ty.ofCode (BitVec.ofNat 3 ((op - 0x40) / 2))) (Ty.ofCode (m.extractLsb' 3 3))
      (← Rnd.ofCode3 (m.extractLsb' 0 3)) (op % 2 == 1))
  else .error .unassigned

/-- The F3 opcodes with three registers (R56). -/
def f3Table : List (Nat × (Tok → Fin 16 → Fin 16 → Fin 16 → Instr)) :=
  [(0x08, .fAdd), (0x09, .fSub), (0x0A, .fMul), (0x0C, .fComp), (0x10, .fEval), (0x04, .fFit), (0x07, .fTrunc),
   (0x0B, .fScal)]

/-- The F opcodes with fd and fa (R56); fb is reserved. -/
def f2Table : List (Nat × (Tok → Fin 16 → Fin 16 → Instr)) :=
  [(0x02, .fMov), (0x0D, .fInt), (0x0E, .fDer)]

/-- The FQ opcodes with fd and a queue (R56); fa is reserved. -/
def fdqTable : List (Nat × (Tok → Fin 16 → Fin 16 → Instr)) :=
  [(0x00, .fLd), (0x01, .fSt), (0x03, .fConst)]

/-- The FQ opcodes with fa and a queue (R56); fd is reserved. -/
def faqTable : List (Nat × (Tok → Fin 16 → Fin 16 → Instr)) :=
  [(0x05, .fLen), (0x11, .fRoot), (0x12, .fExt)]

/-- The F-engine word (R36, R56). -/
def decodeF (t : Tok) (op : Nat) (o : BitVec 18) (s : ImmSrc) : Except DecodeError Instr :=
  let d := o.extractLsb' 14 4
  let a := o.extractLsb' 10 4
  let b := o.extractLsb' 6 4
  let m := o.extractLsb' 0 6
  match f3Table.lookup op with
  | some f => do noExt s; need (m == 0) .modField; .ok (f t (reg4 d) (reg4 a) (reg4 b))
  | none =>
  match f2Table.lookup op with
  | some f => do
    noExt s; need (m == 0) .modField; need (b == 0) .reservedField; .ok (f t (reg4 d) (reg4 a))
  | none =>
  match fdqTable.lookup op with
  | some f => do
    noExt s; need (m == 0) .modField; need (a == 0) .reservedField; .ok (f t (reg4 d) (reg4 b))
  | none =>
  match faqTable.lookup op with
  | some f => do
    noExt s; need (m == 0) .modField; need (d == 0) .reservedField; .ok (f t (reg4 a) (reg4 b))
  | none =>
  if op == 0x06 then do
    noExt s; need (m.extractLsb' 1 5 == 0) .modField
    if m.getLsbD 0 then .ok (.fDomRescale t (reg4 d) (reg4 a) (reg4 b))
    else .ok (.fDomRestrict t (reg4 d) (reg4 a) (reg4 b))
  else .error .unassigned

/-- A decoded instruction that also passes the checks of R57. -/
def checked (r : Except DecodeError Instr) : Except DecodeError Instr := do
  let i ← r
  i.check
  .ok i

/-- The patch word with its chain (R40, R42). -/
def decodePatch (w : W32) (exts : List (BitVec 29)) : Except DecodeError Instr := do
  match Eng.ofCode (w.extractLsb' 26 3).toNat with
  | none => .error .patchEngine
  | some e =>
    let v : BitVec 16 := w.extractLsb' 0 16
    let value ← match exts with
      | [] => Except.ok (v.setWidth 74)
      | [p] => .ok ((p ++ v).setWidth 74)
      | [p, q] => .ok ((p ++ q ++ v).setWidth 74)
      | _ => .error .chain
    .ok (.patchWord e (w.extractLsb' 20 6) (w.extractLsb' 16 4) value)

/-- A host word after its prefix chain (R24, R39-R42). -/
def decodeHost (exts : List (BitVec 29)) (w : W32) : Except DecodeError Instr :=
  let t := tokOf w
  let op := (opOf w).toNat
  let o := operandsOf w
  checked <|
    match (engOf w).toNat with
    | 0 => decodeA t op o (.chain exts)
    | 1 => do noExt (.chain exts); decodeC t op o
    | 2 => do noExt (.chain exts); decodeM t op o
    | 3 => decodeV t op o (.chain exts)
    | 4 => decodeF t op o (.chain exts)
    | 5 => decodePatch w exts
    | 6 => .error .chain
    | _ => .error .reservedEngine

/-- The engine that acts on a host word, steering and holding words apart (R24, R42): the tagged engine, a patch
word's target, and A for the codes that name no engine. -/
def ownerOf (w : W32) : Eng :=
  match (engOf w).toNat with
  | 5 => (Eng.ofCode (w.extractLsb' 26 3).toNat).getD .A
  | c => (Eng.ofCode c).getD .A

/-- A word is an extension prefix (R38). -/
def isPrefix (w : W32) : Bool := engOf w == 6

/-- The steering and holding classes of a host word (R25), read from its engine code and opcode. -/
inductive Steer where
  /-- Neither: engines that do not own the word pass over it. -/
  | no
  /-- beq, bne, blt, bge, bgt, ble and v.br: an outcome bit says where to go (R94). -/
  | cond
  | jmp
  | call
  | ret
  /-- lcmt and rply. -/
  | hold
  | halt
  deriving DecidableEq, Repr

/-- The class of a host word (R25). -/
def steerOf (w : W32) : Steer :=
  match (engOf w).toNat, (opOf w).toNat with
  | 0, 0x38 | 0, 0x39 | 0, 0x3A | 0, 0x3B | 0, 0x3C | 0, 0x3D => .cond
  | 0, 0x3E => .jmp
  | 0, 0x3F => .call
  | 0, 0x40 => .ret
  | 0, 0x42 => .halt
  | 0, 0x46 | 0, 0x47 => .hold
  | 3, 0x3B => .cond
  | _, _ => .no

/-! ## Template images -/

/-- A template-capable C image (R52, R152, R343). -/
def imageC (t : Tok) (op : Nat) (b : BitVec 240) : Except DecodeError Instr :=
  let f : CFields :=
    ⟨b.extractLsb' 0 64, b.extractLsb' 64 64, b.extractLsb' 128 32, b.extractLsb' 160 32, b.extractLsb' 192 16,
     b.extractLsb' 208 16, b.extractLsb' 224 6, b.extractLsb' 230 10⟩
  match op with
  | 0x00 => .ok (.cCopy t (.image f))
  | 0x01 => .ok (.cGath t f)
  | 0x02 => .ok (.cScat t f)
  | 0x03 => .ok (.cFill t (.image f))
  | 0x04 => .ok (.cConvF32 t (.image f))
  | 0x05 => .ok (.cConvBf16 t (.image f))
  | 0x06 => .ok (.cConvF16 t (.image f))
  | 0x07 => .ok (.cDrain t (.image f))
  | 0x08 => .ok (.cDrainSel t f)
  | 0x0D => .ok (.cRsend t f)
  | 0x0E => .ok (.cRrecv t f)
  | _ => .error .notTemplate

/-- A template-capable M image (R53, R207). -/
def imageM (t : Tok) (op : Nat) (b : BitVec 240) : Except DecodeError Instr := do
  need (b.extractLsb' 138 102 == 0) .reservedField
  let f : MBody :=
    ⟨b.extractLsb' 0 32, b.extractLsb' 32 32, b.extractLsb' 64 32, b.extractLsb' 96 32, b.extractLsb' 128 6,
     Fin.ofNat 8 (b.extractLsb' 134 3).toNat, b.getLsbD 137⟩
  if op == 0x01 then .ok (.mGo t (some f))
  else if 0x10 ≤ op ∧ op < 0x18 then .ok (.mMma t (Fin.ofNat 8 (op - 0x10)) (.image f))
  else if 0x18 ≤ op ∧ op < 0x20 then .ok (.mMmas t (Fin.ofNat 8 (op - 0x18)) (.image f))
  else .error .notTemplate

/-- The steering words are not template-capable (R46). -/
def Instr.steers : Instr → Bool
  | .beq .. | .bne .. | .blt .. | .bge .. | .bgt .. | .ble .. | .jmp .. | .call .. | .ret .. | .vBr .. => true
  | _ => false

/-- The operation a template image of engine e holds (R43-R46). -/
def decodeImage (e : Eng) (img : BitVec 256) : Except DecodeError Instr :=
  let op := (img.extractLsb' 249 7).toNat
  let t : Tok := img.extractLsb' 245 4
  let body : BitVec 240 := img.extractLsb' 0 240
  let o : BitVec 18 := body.extractLsb' 0 18
  let w : ImmSrc := .image (body.extractLsb' 18 64)
  checked <| do
    need (img.extractLsb' 240 5 == 0) .reservedField
    let i ← match e with
      | .C => imageC t op body
      | .M => imageM t op body
      | .A => do need (body.extractLsb' 82 158 == 0) .reservedField; decodeA t op o w
      | .V => do need (body.extractLsb' 82 158 == 0) .reservedField; decodeV t op o w
      | .F => do need (body.extractLsb' 82 158 == 0) .reservedField; decodeF t op o w
    need (!i.steers) .notTemplate
    .ok i

/-- The low bit and width of field fsel of the operation an image of engine e with opcode op holds, where the
operation defines that field (R45, R46, R152, R207, R343). -/
def fieldSpan (e : Eng) (op : Nat) (fsel : Nat) : Option (Nat × Nat) :=
  match e with
  | .A | .V | .F =>
    match fsel with
    | 1 => some (0, 18)
    | 2 => some (18, 64)
    | _ => none
  | .C =>
    let span : Nat → Option (Nat × Nat) := fun
      | 1 => some (0, 64) | 2 => some (64, 64) | 3 => some (128, 32) | 4 => some (160, 32) | 5 => some (192, 16)
      | 6 => some (208, 16) | 7 => some (224, 6) | 8 => some (230, 10) | _ => none
    let defined : List Nat := match op with
      | 0x00 => [1, 2, 3, 4, 5, 6]
      | 0x01 => [1, 2, 3, 4, 5, 6, 7, 8]
      | 0x02 => [1, 2, 3, 4, 5, 6, 7]
      | 0x03 => [1, 2, 3, 4]
      | 0x04 | 0x05 | 0x06 => [1, 2, 3, 4, 5]
      | 0x07 => [1, 2, 3, 4, 5]
      | 0x08 => [1, 2, 3, 4, 5, 6, 7, 8]
      | 0x0D | 0x0E => [1, 2, 4, 5]
      | _ => []
    if defined.contains fsel then span fsel else none
  | .M =>
    let span : Nat → Option (Nat × Nat) := fun
      | 1 => some (0, 32) | 2 => some (32, 32) | 3 => some (64, 32) | 4 => some (96, 32) | 5 => some (128, 6)
      | 6 => some (134, 3) | 7 => some (137, 1) | _ => none
    let defined : List Nat :=
      if op == 0x01 then [1, 2, 3, 4, 5, 6, 7]
      else if 0x10 ≤ op ∧ op < 0x18 then [1, 2, 5]
      else if 0x18 ≤ op ∧ op < 0x20 then [1, 2, 3, 4, 5]
      else []
    if defined.contains fsel then span fsel else none

/-- An image with a field's whole span overwritten by a value that fits it (R45, step 3). -/
def amendImage (img : BitVec 256) (lo width : Nat) (v : Nat) : BitVec 256 :=
  let hole := BitVec.ofNat 256 ((2 ^ width - 1) * 2 ^ lo)
  (img &&& ~~~ hole) ||| BitVec.ofNat 256 (v % 2 ^ width * 2 ^ lo)

/-! ## Bytes -/

/-- Four bytes as a little-endian word (R22). -/
def wordOf (b0 b1 b2 b3 : Byte) : W32 := b3 ++ b2 ++ b1 ++ b0

/-- One instruction from a byte string: its prefix chain, its host, and the bytes after it. -/
def decodeFrom (exts : List (BitVec 29)) : List Byte → Except DecodeError (Instr × List Byte)
  | b0 :: b1 :: b2 :: b3 :: rest =>
    let w := wordOf b0 b1 b2 b3
    if isPrefix w then decodeFrom (exts ++ [extOf w]) rest
    else do .ok (← decodeHost exts w, rest)
  | _ => .error .tooShort

/-- Decoding, total on any bytes (R22-R57). -/
def decode (bs : List Byte) : Except DecodeError (Instr × List Byte) := decodeFrom [] bs

/-- The bytes of a word in memory (R22). -/
def bytesOf (w : W32) : List Byte := [w.extractLsb' 0 8, w.extractLsb' 8 8, w.extractLsb' 16 8, w.extractLsb' 24 8]

/-- The instruction in an opcode-table word: its bits laid out as the device stores them, given to the decoder.
A row's word is one 32-bit word; later words are zero. -/
def decodeTableWord (nbits w : Nat) : Option Instr :=
  if nbits == 0 then none
  else
    match decode (bytesOf (BitVec.ofNat 32 w) ++ bytesOf (BitVec.ofNat 32 (w / 2 ^ 32))
      ++ bytesOf (BitVec.ofNat 32 (w / 2 ^ 64))) with
    | .ok (i, _) => some i
    | .error _ => none

/-! ## The encoder -/

/-- A source selector's bits (R27). -/
def srcBits : Src → BitVec 6
  | .x r => BitVec.ofNat 6 r.val
  | .pop q => BitVec.ofNat 6 (32 + q.val)
  | .peek q => BitVec.ofNat 6 (48 + q.val)

/-- A destination selector's bits (R27). -/
def dstBits : Dst → BitVec 6
  | .x r => BitVec.ofNat 6 r.val
  | .push q => BitVec.ofNat 6 (32 + q.val)

/-- A CD queue selector's bits (R29). -/
def qsrcBits : QSrc → BitVec 6
  | .pop q => BitVec.ofNat 6 q.val
  | .peek q => BitVec.ofNat 6 (16 + q.val)

/-- A CD window selector's bits (R29). -/
def winBits (w : Fin 8) : BitVec 6 := BitVec.ofNat 6 (32 + w.val)

/-- A VM sel field's bits (R32). -/
def vselBits : VSel → BitVec 8
  | .win w => BitVec.ofNat 8 w.val
  | .pop q => BitVec.ofNat 8 (0x80 + q.val)
  | .peek q => BitVec.ofNat 8 (0x90 + q.val)

/-- A 4-bit register field. -/
def r4 (r : Fin 16) : BitVec 4 := BitVec.ofNat 4 r.val

/-- A lane type's code (R33). -/
def Ty.bits : Ty → BitVec 3
  | .f32 => 0 | .bf16 => 1 | .f16 => 2 | .s32 => 3 | .n32 => 4 | .s16 => 5 | .n16 => 6 | .s8 => 7

/-- A rounding mode's code (R33, R34). -/
def Rnd.bits : Rnd → BitVec 3
  | .rne => 0 | .rtz => 1 | .rdn => 2 | .rup => 3 | .rna => 4

/-- A mod field's bits (R33). -/
def Mod.bits (m : Mod) : BitVec 6 := m.ty.bits ++ m.rnd.bits.setWidth 2 ++ BitVec.ofBool m.sat

/-- A memory element field's bits (R35). -/
def Elem.bits : Elem → BitVec 6
  | .e32 => 0x00 | .n16 => 0x08 | .s16 => 0x10 | .n8 => 0x18 | .s8 => 0x20

/-- A v.br condition's bits (R32). -/
def VCond.bits : VCond → BitVec 2
  | .any => 0 | .all => 1 | .none => 2 | .nall => 3

/-- A C image's body (R152). -/
def CFields.bits (f : CFields) : BitVec 240 := f.f8 ++ f.f7 ++ f.f6 ++ f.f5 ++ f.f4 ++ f.f3 ++ f.f2 ++ f.f1

/-- An M image's body (R207). -/
def MBody.bits (b : MBody) : BitVec 240 :=
  0#102 ++ BitVec.ofBool b.sparse ++ BitVec.ofNat 3 b.shape.val ++ b.n ++ b.bmoff ++ b.amoff ++ b.boff ++ b.aoff

/-- The parts an instruction is encoded from: engine, tokens and opcode, then whole operand bits, or high operand
bits above an extendable field and its value, or a C or M body. -/
inductive Parts where
  | plain (e : Eng) (t : Tok) (op : BitVec 7) (o : BitVec 18)
  | s6 (e : Eng) (t : Tok) (op : BitVec 7) (hi : BitVec 12) (v : Word)
  | s12 (e : Eng) (t : Tok) (op : BitVec 7) (hi : BitVec 6) (v : Word)
  | s18 (e : Eng) (t : Tok) (op : BitVec 7) (v : Word)
  | n6 (e : Eng) (t : Tok) (op : BitVec 7) (hi : BitVec 12) (v : Word)
  | body (e : Eng) (t : Tok) (op : BitVec 7) (b : BitVec 240)
  deriving DecidableEq, Repr

/-- The parts of each instruction (R49-R56); the patch word has its own layout and events have none. -/
def Instr.parts (i : Instr) : Option Parts :=
  match i with
  | .add t d a b => some (.plain .A t 0x00 (dstBits d ++ srcBits a ++ srcBits b))
  | .sub t d a b => some (.plain .A t 0x01 (dstBits d ++ srcBits a ++ srcBits b))
  | .mul t d a b => some (.plain .A t 0x02 (dstBits d ++ srcBits a ++ srcBits b))
  | .mulh t d a b => some (.plain .A t 0x03 (dstBits d ++ srcBits a ++ srcBits b))
  | .mulhn t d a b => some (.plain .A t 0x04 (dstBits d ++ srcBits a ++ srcBits b))
  | .div t d a b => some (.plain .A t 0x05 (dstBits d ++ srcBits a ++ srcBits b))
  | .divn t d a b => some (.plain .A t 0x06 (dstBits d ++ srcBits a ++ srcBits b))
  | .rem t d a b => some (.plain .A t 0x07 (dstBits d ++ srcBits a ++ srcBits b))
  | .remn t d a b => some (.plain .A t 0x08 (dstBits d ++ srcBits a ++ srcBits b))
  | .and t d a b => some (.plain .A t 0x09 (dstBits d ++ srcBits a ++ srcBits b))
  | .or t d a b => some (.plain .A t 0x0A (dstBits d ++ srcBits a ++ srcBits b))
  | .xor t d a b => some (.plain .A t 0x0B (dstBits d ++ srcBits a ++ srcBits b))
  | .andn t d a b => some (.plain .A t 0x0C (dstBits d ++ srcBits a ++ srcBits b))
  | .shl t d a b => some (.plain .A t 0x0D (dstBits d ++ srcBits a ++ srcBits b))
  | .shr t d a b => some (.plain .A t 0x0E (dstBits d ++ srcBits a ++ srcBits b))
  | .sra t d a b => some (.plain .A t 0x0F (dstBits d ++ srcBits a ++ srcBits b))
  | .min t d a b => some (.plain .A t 0x10 (dstBits d ++ srcBits a ++ srcBits b))
  | .max t d a b => some (.plain .A t 0x11 (dstBits d ++ srcBits a ++ srcBits b))
  | .minn t d a b => some (.plain .A t 0x12 (dstBits d ++ srcBits a ++ srcBits b))
  | .maxn t d a b => some (.plain .A t 0x13 (dstBits d ++ srcBits a ++ srcBits b))
  | .bext t d a b => some (.plain .A t 0x17 (dstBits d ++ srcBits a ++ srcBits b))
  | .bdep t d a b => some (.plain .A t 0x18 (dstBits d ++ srcBits a ++ srcBits b))
  | .slt t d a b => some (.plain .A t 0x19 (dstBits d ++ srcBits a ++ srcBits b))
  | .sltn t d a b => some (.plain .A t 0x1A (dstBits d ++ srcBits a ++ srcBits b))
  | .seq t d a b => some (.plain .A t 0x1B (dstBits d ++ srcBits a ++ srcBits b))
  | .sel t d a b => some (.plain .A t 0x1C (dstBits d ++ srcBits a ++ srcBits b))
  | .addS32 t d a b => some (.plain .A t 0x1D (dstBits d ++ srcBits a ++ srcBits b))
  | .subS32 t d a b => some (.plain .A t 0x1E (dstBits d ++ srcBits a ++ srcBits b))
  | .mulS32 t d a b => some (.plain .A t 0x1F (dstBits d ++ srcBits a ++ srcBits b))
  | .shlS32 t d a b => some (.plain .A t 0x20 (dstBits d ++ srcBits a ++ srcBits b))
  | .shrS32 t d a b => some (.plain .A t 0x21 (dstBits d ++ srcBits a ++ srcBits b))
  | .sraS32 t d a b => some (.plain .A t 0x22 (dstBits d ++ srcBits a ++ srcBits b))
  | .amoAdd t d a b => some (.plain .A t 0x68 (dstBits d ++ srcBits a ++ srcBits b))
  | .amoMin t d a b => some (.plain .A t 0x69 (dstBits d ++ srcBits a ++ srcBits b))
  | .amoMax t d a b => some (.plain .A t 0x6A (dstBits d ++ srcBits a ++ srcBits b))
  | .amoAnd t d a b => some (.plain .A t 0x6B (dstBits d ++ srcBits a ++ srcBits b))
  | .amoOr t d a b => some (.plain .A t 0x6C (dstBits d ++ srcBits a ++ srcBits b))
  | .amoXor t d a b => some (.plain .A t 0x6D (dstBits d ++ srcBits a ++ srcBits b))
  | .amoXchg t d a b => some (.plain .A t 0x6E (dstBits d ++ srcBits a ++ srcBits b))
  | .amoFaddF32 t d a b => some (.plain .A t 0x6F (dstBits d ++ srcBits a ++ srcBits b))
  | .amoFmaxF32 t d a b => some (.plain .A t 0x70 (dstBits d ++ srcBits a ++ srcBits b))
  | .cas t d a b => some (.plain .A t 0x71 (dstBits d ++ srcBits a ++ srcBits b))
  | .await t d a b => some (.plain .A t 0x72 (dstBits d ++ srcBits a ++ srcBits b))
  | .sgin t d a b => some (.plain .A t 0x7E (dstBits d ++ srcBits a ++ srcBits b))
  | .sgout t d a b => some (.plain .A t 0x7F (dstBits d ++ srcBits a ++ srcBits b))
  | .clz t d a => some (.plain .A t 0x14 (dstBits d ++ srcBits a ++ 0#6))
  | .ctz t d a => some (.plain .A t 0x15 (dstBits d ++ srcBits a ++ 0#6))
  | .popc t d a => some (.plain .A t 0x16 (dstBits d ++ srcBits a ++ 0#6))
  | .rslot t d a => some (.plain .A t 0x23 (dstBits d ++ srcBits a ++ 0#6))
  | .barTest t d a => some (.plain .A t 0x77 (dstBits d ++ srcBits a ++ 0#6))
  | .qstat t d a => some (.plain .A t 0x7B (dstBits d ++ srcBits a ++ 0#6))
  | .lnch t d a => some (.plain .A t 0x7C (dstBits d ++ srcBits a ++ 0#6))
  | .barInit t a b => some (.plain .A t 0x73 (0#6 ++ srcBits a ++ srcBits b))
  | .barAdd t a b => some (.plain .A t 0x75 (0#6 ++ srcBits a ++ srcBits b))
  | .push t a b => some (.plain .A t 0x79 (0#6 ++ srcBits a ++ srcBits b))
  | .renq t a b => some (.plain .A t 0x7A (0#6 ++ srcBits a ++ srcBits b))
  | .hack t a => some (.plain .A t 0x24 (0#6 ++ srcBits a ++ 0#6))
  | .trc t a => some (.plain .A t 0x25 (0#6 ++ srcBits a ++ 0#6))
  | .barArr t a => some (.plain .A t 0x74 (0#6 ++ srcBits a ++ 0#6))
  | .barWait t a => some (.plain .A t 0x76 (0#6 ++ srcBits a ++ 0#6))
  | .fpush t a => some (.plain .A t 0x7D (0#6 ++ srcBits a ++ 0#6))
  | .addImm t d a v => some (.s6 .A t 0x28 (dstBits d ++ srcBits a) v)
  | .addS32Imm t d a v => some (.s6 .A t 0x29 (dstBits d ++ srcBits a) v)
  | .mulImm t d a v => some (.s6 .A t 0x2A (dstBits d ++ srcBits a) v)
  | .andImm t d a v => some (.s6 .A t 0x2B (dstBits d ++ srcBits a) v)
  | .orImm t d a v => some (.s6 .A t 0x2C (dstBits d ++ srcBits a) v)
  | .xorImm t d a v => some (.s6 .A t 0x2D (dstBits d ++ srcBits a) v)
  | .shlImm t d a v => some (.s6 .A t 0x2E (dstBits d ++ srcBits a) v)
  | .shrImm t d a v => some (.s6 .A t 0x2F (dstBits d ++ srcBits a) v)
  | .sraImm t d a v => some (.s6 .A t 0x30 (dstBits d ++ srcBits a) v)
  | .sltImm t d a v => some (.s6 .A t 0x31 (dstBits d ++ srcBits a) v)
  | .sltnImm t d a v => some (.s6 .A t 0x32 (dstBits d ++ srcBits a) v)
  | .seqImm t d a v => some (.s6 .A t 0x33 (dstBits d ++ srcBits a) v)
  | .beq t a v => some (.s12 .A t 0x38 (srcBits a) v)
  | .bne t a v => some (.s12 .A t 0x39 (srcBits a) v)
  | .blt t a v => some (.s12 .A t 0x3A (srcBits a) v)
  | .bge t a v => some (.s12 .A t 0x3B (srcBits a) v)
  | .bgt t a v => some (.s12 .A t 0x3C (srcBits a) v)
  | .ble t a v => some (.s12 .A t 0x3D (srcBits a) v)
  | .ret t => some (.plain .A t 0x40 0#18)
  | .nop t => some (.plain .A t 0x41 0#18)
  | .halt t => some (.plain .A t 0x42 0#18)
  | .eret t => some (.plain .A t 0x44 0#18)
  | .ltrig t => some (.plain .A t 0x45 0#18)
  | .lcmt t => some (.plain .A t 0x46 0#18)
  | .rply t => some (.plain .A t 0x47 0#18)
  | .ldN8 t d a v => some (.s6 .A t 0x50 (dstBits d ++ srcBits a) v)
  | .ldN16 t d a v => some (.s6 .A t 0x51 (dstBits d ++ srcBits a) v)
  | .ldN32 t d a v => some (.s6 .A t 0x52 (dstBits d ++ srcBits a) v)
  | .ldN64 t d a v => some (.s6 .A t 0x53 (dstBits d ++ srcBits a) v)
  | .ldS8 t d a v => some (.s6 .A t 0x54 (dstBits d ++ srcBits a) v)
  | .ldS16 t d a v => some (.s6 .A t 0x55 (dstBits d ++ srcBits a) v)
  | .ldS32 t d a v => some (.s6 .A t 0x56 (dstBits d ++ srcBits a) v)
  | .stN8 t b a v => some (.s6 .A t 0x58 (srcBits b ++ srcBits a) v)
  | .stN16 t b a v => some (.s6 .A t 0x59 (srcBits b ++ srcBits a) v)
  | .stN32 t b a v => some (.s6 .A t 0x5A (srcBits b ++ srcBits a) v)
  | .stN64 t b a v => some (.s6 .A t 0x5B (srcBits b ++ srcBits a) v)
  | .ldqN8 t q a v => some (.s6 .A t 0x60 (dstBits (.push q) ++ srcBits a) v)
  | .ldqN16 t q a v => some (.s6 .A t 0x61 (dstBits (.push q) ++ srcBits a) v)
  | .ldqN32 t q a v => some (.s6 .A t 0x62 (dstBits (.push q) ++ srcBits a) v)
  | .ldqN64 t q a v => some (.s6 .A t 0x63 (dstBits (.push q) ++ srcBits a) v)
  | .ldqS8 t q a v => some (.s6 .A t 0x64 (dstBits (.push q) ++ srcBits a) v)
  | .ldqS16 t q a v => some (.s6 .A t 0x65 (dstBits (.push q) ++ srcBits a) v)
  | .ldqS32 t q a v => some (.s6 .A t 0x66 (dstBits (.push q) ++ srcBits a) v)
  | .li t d v => some (.s6 .A t 0x34 (dstBits d ++ 0#6) v)
  | .jmp t v => some (.s18 .A t 0x3E v)
  | .call t v => some (.s18 .A t 0x3F v)
  | .trap t c => some (.plain .A t 0x43 c)
  | .mark t c => some (.plain .A t 0x48 (0#15 ++ c))
  | .rnd t d => some (.plain .A t 0x49 (dstBits d ++ 0#12))
  | .srd t d r => some (.plain .A t 0x4A (dstBits d ++ r))
  | .swr t a r => some (.plain .A t 0x4B (srcBits a ++ r))
  | .tset t n a e => some (.plain .A t 0x4C (n ++ srcBits a ++ 0#3 ++ BitVec.ofNat 3 e.code))
  | .pub t a c => some (.plain .A t 0x78 (0#6 ++ srcBits a ++ 0#3 ++ c))
  | .cCopy t (.direct a b k) => some (.plain .C t 0x00 (qsrcBits a ++ qsrcBits b ++ k))
  | .cCopy t (.image f) => some (.body .C t 0x00 f.bits)
  | .cFill t (.direct a b k) => some (.plain .C t 0x03 (qsrcBits a ++ qsrcBits b ++ k))
  | .cFill t (.image f) => some (.body .C t 0x03 f.bits)
  | .cConvF32 t (.direct a b k) => some (.plain .C t 0x04 (qsrcBits a ++ qsrcBits b ++ k))
  | .cConvF32 t (.image f) => some (.body .C t 0x04 f.bits)
  | .cConvBf16 t (.direct a b k) => some (.plain .C t 0x05 (qsrcBits a ++ qsrcBits b ++ k))
  | .cConvBf16 t (.image f) => some (.body .C t 0x05 f.bits)
  | .cConvF16 t (.direct a b k) => some (.plain .C t 0x06 (qsrcBits a ++ qsrcBits b ++ k))
  | .cConvF16 t (.image f) => some (.body .C t 0x06 f.bits)
  | .cGath t f => some (.body .C t 0x01 f.bits)
  | .cScat t f => some (.body .C t 0x02 f.bits)
  | .cDrainSel t f => some (.body .C t 0x08 f.bits)
  | .cRsend t f => some (.body .C t 0x0D f.bits)
  | .cRrecv t f => some (.body .C t 0x0E f.bits)
  | .cDrain t (.direct n q) => some (.plain .C t 0x07 (n ++ qsrcBits q ++ 0#6))
  | .cDrain t (.image f) => some (.body .C t 0x07 f.bits)
  | .cWmap t w q => some (.plain .C t 0x09 (winBits w ++ qsrcBits q ++ 0#6))
  | .cWadv t w n => some (.plain .C t 0x0A (winBits w ++ 0#6 ++ n))
  | .cWret t w => some (.plain .C t 0x0B (winBits w ++ 0#12))
  | .cPfx t q n => some (.plain .C t 0x0C (qsrcBits q ++ 0#6 ++ n))
  | .cMbx t q n => some (.plain .C t 0x0F (qsrcBits q ++ 0#6 ++ n))
  | .mLvl t q k => some (.plain .M t 0x00 (qsrcBits (.pop q) ++ 0#6 ++ BitVec.ofNat 6 k.val))
  | .mGo t none => some (.plain .M t 0x01 0#18)
  | .mGo t (some b) => some (.body .M t 0x01 b.bits)
  | .mZero t n c => some (.plain .M t 0x02 (n ++ 0#6 ++ c))
  | .mStop t => some (.plain .M t 0x03 0#18)
  | .mMma t h (.direct n q) => some (.plain .M t (BitVec.ofNat 7 (0x10 + h.val)) (n ++ qsrcBits (.pop q) ++ 0#6))
  | .mMma t h (.image b) => some (.body .M t (BitVec.ofNat 7 (0x10 + h.val)) b.bits)
  | .mMmas t h (.direct n q) => some (.plain .M t (BitVec.ofNat 7 (0x18 + h.val)) (n ++ qsrcBits (.pop q) ++ 0#6))
  | .mMmas t h (.image b) => some (.body .M t (BitVec.ofNat 7 (0x18 + h.val)) b.bits)
  | .vAdd t d a b m => some (.plain .V t 0x10 (r4 d ++ r4 a ++ r4 b ++ m.bits))
  | .vSub t d a b m => some (.plain .V t 0x11 (r4 d ++ r4 a ++ r4 b ++ m.bits))
  | .vMul t d a b m => some (.plain .V t 0x12 (r4 d ++ r4 a ++ r4 b ++ m.bits))
  | .vFma t d a b m => some (.plain .V t 0x13 (r4 d ++ r4 a ++ r4 b ++ m.bits))
  | .vMin t d a b m => some (.plain .V t 0x14 (r4 d ++ r4 a ++ r4 b ++ m.bits))
  | .vMax t d a b m => some (.plain .V t 0x15 (r4 d ++ r4 a ++ r4 b ++ m.bits))
  | .vAnd t d a b m => some (.plain .V t 0x18 (r4 d ++ r4 a ++ r4 b ++ m.bits))
  | .vOr t d a b m => some (.plain .V t 0x19 (r4 d ++ r4 a ++ r4 b ++ m.bits))
  | .vXor t d a b m => some (.plain .V t 0x1A (r4 d ++ r4 a ++ r4 b ++ m.bits))
  | .vShl t d a b m => some (.plain .V t 0x1B (r4 d ++ r4 a ++ r4 b ++ m.bits))
  | .vShr t d a b m => some (.plain .V t 0x1C (r4 d ++ r4 a ++ r4 b ++ m.bits))
  | .vSel t d a b m => some (.plain .V t 0x1D (r4 d ++ r4 a ++ r4 b ++ m.bits))
  | .vCmpEq t d a b m => some (.plain .V t 0x22 (r4 d ++ r4 a ++ r4 b ++ m.bits))
  | .vCmpNe t d a b m => some (.plain .V t 0x23 (r4 d ++ r4 a ++ r4 b ++ m.bits))
  | .vCmpLt t d a b m => some (.plain .V t 0x24 (r4 d ++ r4 a ++ r4 b ++ m.bits))
  | .vCmpLe t d a b m => some (.plain .V t 0x25 (r4 d ++ r4 a ++ r4 b ++ m.bits))
  | .vRotr t d a b m => some (.plain .V t 0x28 (r4 d ++ r4 a ++ r4 b ++ m.bits))
  | .vRotc t d a b m => some (.plain .V t 0x29 (r4 d ++ r4 a ++ r4 b ++ m.bits))
  | .vBcr t d a b m => some (.plain .V t 0x2A (r4 d ++ r4 a ++ r4 b ++ m.bits))
  | .vBcc t d a b m => some (.plain .V t 0x2B (r4 d ++ r4 a ++ r4 b ++ m.bits))
  | .vPart t d a b m => some (.plain .V t 0x38 (r4 d ++ r4 a ++ r4 b ++ m.bits))
  | .vStub t d a b m => some (.plain .V t 0x3A (r4 d ++ r4 a ++ r4 b ++ m.bits))
  | .vAbs t d a m => some (.plain .V t 0x16 (r4 d ++ r4 a ++ 0#4 ++ m.bits))
  | .vNeg t d a m => some (.plain .V t 0x17 (r4 d ++ r4 a ++ 0#4 ++ m.bits))
  | .vExp2 t d a m => some (.plain .V t 0x1E (r4 d ++ r4 a ++ 0#4 ++ m.bits))
  | .vLog2 t d a m => some (.plain .V t 0x1F (r4 d ++ r4 a ++ 0#4 ++ m.bits))
  | .vRcp t d a m => some (.plain .V t 0x20 (r4 d ++ r4 a ++ 0#4 ++ m.bits))
  | .vRsq t d a m => some (.plain .V t 0x21 (r4 d ++ r4 a ++ 0#4 ++ m.bits))
  | .vScanr t d a m => some (.plain .V t 0x2C (r4 d ++ r4 a ++ 0#4 ++ m.bits))
  | .vRedrAdd t d a m => some (.plain .V t 0x30 (r4 d ++ r4 a ++ 0#4 ++ m.bits))
  | .vRedrMax t d a m => some (.plain .V t 0x31 (r4 d ++ r4 a ++ 0#4 ++ m.bits))
  | .vRedrMin t d a m => some (.plain .V t 0x32 (r4 d ++ r4 a ++ 0#4 ++ m.bits))
  | .vRedcAdd t d a m => some (.plain .V t 0x33 (r4 d ++ r4 a ++ 0#4 ++ m.bits))
  | .vRedcMax t d a m => some (.plain .V t 0x34 (r4 d ++ r4 a ++ 0#4 ++ m.bits))
  | .vRedcMin t d a m => some (.plain .V t 0x35 (r4 d ++ r4 a ++ 0#4 ++ m.bits))
  | .vPack t d a m => some (.plain .V t 0x36 (r4 d ++ r4 a ++ 0#4 ++ m.bits))
  | .vUnpack t d a m => some (.plain .V t 0x37 (r4 d ++ r4 a ++ 0#4 ++ m.bits))
  | .vLdN8 t d s v => some (.n6 .V t 0x00 (r4 d ++ vselBits s) v)
  | .vLdS8 t d s v => some (.n6 .V t 0x01 (r4 d ++ vselBits s) v)
  | .vLdN16 t d s v => some (.n6 .V t 0x02 (r4 d ++ vselBits s) v)
  | .vLdS16 t d s v => some (.n6 .V t 0x03 (r4 d ++ vselBits s) v)
  | .vLd t d s v => some (.n6 .V t 0x04 (r4 d ++ vselBits s) v)
  | .vStN8 t d s v => some (.n6 .V t 0x05 (r4 d ++ vselBits s) v)
  | .vStN16 t d s v => some (.n6 .V t 0x06 (r4 d ++ vselBits s) v)
  | .vSt t d s v => some (.n6 .V t 0x07 (r4 d ++ vselBits s) v)
  | .vLdx t d a q e => some (.plain .V t 0x08 (r4 d ++ r4 a ++ r4 q ++ e.bits))
  | .vStx t d a q e => some (.plain .V t 0x09 (r4 d ++ r4 a ++ r4 q ++ e.bits))
  | .vIota t d m => some (.plain .V t 0x2D (r4 d ++ 0#8 ++ m.bits))
  | .vSplat t d q m => some (.plain .V t 0x2E (r4 d ++ 0#4 ++ r4 q ++ m.bits))
  | .vSmass t d a b => some (.plain .V t 0x39 (r4 d ++ r4 a ++ r4 b ++ 0#6))
  | .vBr t a c v => some (.s12 .V t 0x3B (r4 a ++ c.bits) v)
  | .vCvt t d a x y r z => some (.plain .V t (0b100#3 ++ x.bits ++ BitVec.ofBool z) (r4 d ++ r4 a ++ 0#4 ++ y.bits ++ r.bits))
  | .fAdd t d a b => some (.plain .F t 0x08 (r4 d ++ r4 a ++ r4 b ++ 0#6))
  | .fSub t d a b => some (.plain .F t 0x09 (r4 d ++ r4 a ++ r4 b ++ 0#6))
  | .fMul t d a b => some (.plain .F t 0x0A (r4 d ++ r4 a ++ r4 b ++ 0#6))
  | .fComp t d a b => some (.plain .F t 0x0C (r4 d ++ r4 a ++ r4 b ++ 0#6))
  | .fEval t d a b => some (.plain .F t 0x10 (r4 d ++ r4 a ++ r4 b ++ 0#6))
  | .fFit t d a b => some (.plain .F t 0x04 (r4 d ++ r4 a ++ r4 b ++ 0#6))
  | .fTrunc t d a b => some (.plain .F t 0x07 (r4 d ++ r4 a ++ r4 b ++ 0#6))
  | .fScal t d a b => some (.plain .F t 0x0B (r4 d ++ r4 a ++ r4 b ++ 0#6))
  | .fMov t d a => some (.plain .F t 0x02 (r4 d ++ r4 a ++ 0#10))
  | .fInt t d a => some (.plain .F t 0x0D (r4 d ++ r4 a ++ 0#10))
  | .fDer t d a => some (.plain .F t 0x0E (r4 d ++ r4 a ++ 0#10))
  | .fLd t d q => some (.plain .F t 0x00 (r4 d ++ 0#4 ++ r4 q ++ 0#6))
  | .fSt t d q => some (.plain .F t 0x01 (r4 d ++ 0#4 ++ r4 q ++ 0#6))
  | .fConst t d q => some (.plain .F t 0x03 (r4 d ++ 0#4 ++ r4 q ++ 0#6))
  | .fLen t a q => some (.plain .F t 0x05 (0#4 ++ r4 a ++ r4 q ++ 0#6))
  | .fRoot t a q => some (.plain .F t 0x11 (0#4 ++ r4 a ++ r4 q ++ 0#6))
  | .fExt t a q => some (.plain .F t 0x12 (0#4 ++ r4 a ++ r4 q ++ 0#6))
  | .fDomRestrict t d a q => some (.plain .F t 0x06 (r4 d ++ r4 a ++ r4 q ++ 0#6))
  | .fDomRescale t d a q => some (.plain .F t 0x06 (r4 d ++ r4 a ++ r4 q ++ 1#6))
  | .patchWord _ _ _ _ => none
  | .ldqDataArrival .. | .windowRowArrival .. | .copyUnitPerformed .. | .nestBodyCommand .. | .commandRun ..
  | .commandComplete .. | .spillRefill .. | .segmentFinalStep .. | .queueOverflow .. | .queueUnderflow ..
  | .formatQueueOverflow .. | .formatUnderflow .. | .quotaTimeout .. | .mailboxStagingOverflow .. | .awaitWake ..
  | .awaitTimeout .. | .barrierTimeout .. | .rslotWaitExpiry .. | .deadlock .. | .enginePreciseFault ..
  | .supervisorEventPost .. | .datapathCheckFault .. | .layerRollback .. | .dump .. | .cellctlResume ..
  | .cellctlEnterContextHandler .. | .cellctlResumeCheckpoint .. | .cellctlEnterTrap .. | .cellctlEndAndDump ..
  | .cellctlEnd .. | .schedcmdPreemptCell .. | .schedcmdPreemptDomain .. | .tlbinv .. | .eclaim .. | .esatClear ..
  | .cqctlResume .. | .cqctlDiscard .. | .ctxrecWrite .. | .ckslotWrite .. | .pblenWrite .. | .chronographControlWrite ..
  | .treeDescriptorWrite .. | .channelRetire .. | .channelDrainEnd .. | .peerStoreAck .. | .reductionInputArrival ..
  | .reductionTimeout .. | .hostWrite .. | .hostMemAccess .. | .launchIssue .. | .cellStart .. | .iterationEnd ..
  | .cellEnd .. | .sampleBoundary .. | .rampViolation .. | .throttleHold .. | .staticCharge .. | .priorityPreemption ..
  | .timeSlicePreemption .. | .preemptionStop .. | .cellResume .. | .hackStop .. | .hackStepStop .. | .frameWrite ..
  | .streamOpen .. | .streamClose .. | .attestation .. | .suspend .. | .portQuiesceTimeout .. | .resume ..
  | .dumpBufferRegister .. | .imageLoad .. | .powerOnBoot .. | .envelopeEvent .. | .patrolRead .. | .accessPerformed ..
  | .matrixUnitPerformed .. | .fLastStep .. | .peerAccess .. | .peerQuiesce .. | .peerPortReopen .. | .laneDegrade ..
  | .mailboxUnknownOp .. => none

/-- A word from its fields (R22). -/
def mkWord (e : Eng) (t : Tok) (op : BitVec 7) (o : BitVec 18) : W32 := BitVec.ofNat 3 e.code ++ t ++ op ++ o

/-- An extension prefix (R38). -/
def mkPrefix (x : BitVec 29) : W32 := 0b110#3 ++ x

/-- A signed field and the shortest chain that gives the value v (R39, R40). -/
def signedChain (n : Nat) (v : Word) : List W32 :=
  if (v.setWidth n).signExtend 64 == v then []
  else if (v.setWidth (29 + n)).signExtend 64 == v then [mkPrefix (v.extractLsb' n 29)]
  else [mkPrefix (v.extractLsb' (n + 29) 29), mkPrefix (v.extractLsb' n 29)]

/-- The words of parts with a direct form (R22, R38-R40); a row value has at most 35 bits. -/
def Parts.words (p : Parts) : Option (List W32) :=
  match p with
  | .plain e t op o => some [mkWord e t op o]
  | .s6 e t op hi v => some (signedChain 6 v ++ [mkWord e t op (hi ++ v.setWidth 6)])
  | .s12 e t op hi v => some (signedChain 12 v ++ [mkWord e t op (hi ++ v.setWidth 12)])
  | .s18 e t op v => some (signedChain 18 v ++ [mkWord e t op (v.setWidth 18)])
  | .n6 e t op hi v =>
    let w := mkWord e t op (hi ++ v.setWidth 6)
    if (v.setWidth 6).setWidth 64 == v then some [w]
    else if (v.setWidth 35).setWidth 64 == v then some [mkPrefix (v.extractLsb' 6 29), w]
    else none
  | .body _ _ _ _ => none

/-- The words of a patch word with its chain (R40, R42). -/
def patchWords (e : Eng) (n : BitVec 6) (f : BitVec 4) (v : BitVec 74) : List W32 :=
  let w : W32 := 0b101#3 ++ BitVec.ofNat 3 e.code ++ n ++ f ++ v.setWidth 16
  if (v.setWidth 16).setWidth 74 == v then [w]
  else if (v.setWidth 45).setWidth 74 == v then [mkPrefix (v.extractLsb' 16 29), w]
  else [mkPrefix (v.extractLsb' 45 29), mkPrefix (v.extractLsb' 16 29), w]

/-- The words of an instruction: none for an event, for a form that only a template holds, and for a row value too
wide for a direct word. -/
def encode (i : Instr) : Option (List W32) :=
  match i with
  | .patchWord e n f v => some (patchWords e n f v)
  | i => i.parts.bind Parts.words

/-- The engine and image of an instruction's template form (R43, R46); the direct forms of C and M have none. -/
def encodeImage (i : Instr) : Option (Eng × BitVec 256) :=
  let img (t : Tok) (op : BitVec 7) (b : BitVec 240) : BitVec 256 := op ++ t ++ 0#5 ++ b
  let pack (e : Eng) (t : Tok) (op : BitVec 7) (w : Word) (o : BitVec 18) : Option (Eng × BitVec 256) :=
    match e with
    | .C | .M => none
    | .A | .V | .F => some (e, img t op (0#158 ++ w ++ o))
  if i.steers then none
  else
    match i.parts with
    | some (.plain e t op o) => pack e t op 0#64 o
    | some (.s6 e t op hi v) => pack e t op v (hi ++ 0#6)
    | some (.s12 e t op hi v) => pack e t op v (hi ++ 0#12)
    | some (.s18 e t op v) => pack e t op v 0#18
    | some (.n6 e t op hi v) => pack e t op v (hi ++ 0#6)
    | some (.body e t op b) => some (e, img t op b)
    | none => none

end Sys2Proof
end

