-- ==== Sys2Proof/Machine/Object.lean ====
section
/-! DEFINITION. Barrier objects (R252, R253): their fields, the one update at the bank, completion, arrivals and
pending bytes; the DONE arrival (R90). -/

namespace Sys2Proof.Machine

/-- A barrier object (R252). -/
structure BarObj where
  pend : Word
  expect : W32
  arrived : W32
  gen : W32
  timeout : W32
  launch : BitVec 24
  lv : Bool
  scope : BitVec 3
  tout : Bool
  resv : BitVec 35
  deriving DecidableEq, Repr

/-- The fields of 32 bytes (R252). -/
def BarObj.ofBits (b : BitVec 256) : BarObj :=
  { pend := b.extractLsb' 192 64, expect := b.extractLsb' 160 32, arrived := b.extractLsb' 128 32,
    gen := b.extractLsb' 96 32, timeout := b.extractLsb' 64 32, launch := b.extractLsb' 40 24, lv := b.getLsbD 39,
    scope := b.extractLsb' 36 3, tout := b.getLsbD 35, resv := b.extractLsb' 0 35 }

/-- The 32 bytes of the fields (R252). -/
def BarObj.bits (o : BarObj) : BitVec 256 :=
  o.pend ++ o.expect ++ o.arrived ++ o.gen ++ o.timeout ++ o.launch ++ BitVec.ofBool o.lv ++ o.scope
    ++ BitVec.ofBool o.tout ++ o.resv

/-- A malformed object (R252). -/
def BarObj.malformed (o : BarObj) : Bool := o.resv != 0 || o.expect == 0 || 4 < o.scope.toNat

/-- The test and the completion of R253: a well-formed object with enough arrivals and nothing pending completes. -/
def BarObj.settled (o : BarObj) : BarObj :=
  if !o.malformed && o.expect ≤ o.arrived && o.pend == 0 then
    { o with gen := o.gen + 1, arrived := o.arrived - o.expect }
  else o

/-- The 24 bits by which LAUNCH names a launch's handle (R252). -/
def launchBits (h : Word) : BitVec 24 := h.extractLsb' 9 1 ++ h.extractLsb' 0 9 ++ h.extractLsb' 32 14

/-- The object at a location, read at its bank by an observer. -/
def State.barObj (s : State) (o : Obs) (x : Nat) : BarObj := .ofBits (BitVec.ofNat 256 (leNat (s.peek o x 32)))

/-- The beats kept with an object: the greatest of the generation's arrivals, and that of the last completion (R351). -/
def State.objBeats (s : State) (x : Nat) : BitVec 48 × BitVec 48 := (s.barBeats.lookup x).getD (0, 0)

/-- One operation on an object at its bank, atomically (R149, R252): the update, then the test of R253. -/
def State.updateObj (s : State) (o : Obs) (x : Nat) (f : BarObj → BarObj) : State :=
  let s := s.settle o x 32
  let old := f (s.barObj o x)
  let new := old.settled
  let s := s.pokeHome o x (leBytes 32 new.bits.toNat)
  if new.gen = old.gen then s
  else
    let b := s.objBeats x
    { s with barBeats := (x, (0, b.1)) :: s.barBeats.filter fun p => p.1 != x }

/-- An arrival carries its beat to the object (R351). -/
def State.arriveBeat (s : State) (x : Nat) (beat : BitVec 48) : State :=
  let b := s.objBeats x
  { s with barBeats := (x, (if b.1 < beat then beat else b.1, b.2)) :: s.barBeats.filter fun p => p.1 != x }

/-- The location of the object that a barrier entry names (R82). -/
def entryLoc (e : W32) : Nat := locShared (32 * (e.toNat % 2 ^ 23))

/-- A barrier entry in use (R82). -/
def entryValid (e : W32) : Bool := e.getLsbD 23

/-- A barrier entry that breaks code 9 of R85; GEN must be zero where `done` holds. -/
def entryBad (e : W32) (done : Bool) : Bool :=
  (!entryValid e && e != 0) || 0x600000 ≤ e.toNat % 2 ^ 23 || (done && e.toNat / 2 ^ 24 != 0)

/-- One operation of the device on the object that an entry names, for an observer whose published buffers it may lie in (R248).
An object with uncorrectable data stays as it is (R295). -/
def State.deviceObj (s : State) (who : Option Nat) (e : W32) (f : BarObj → BarObj) : State :=
  let x := s.land who (entryLoc e)
  if (s.poisoned .device x 32).isSome then s else (s.markWritten who (entryLoc e)).updateObj .device x f

/-- Bytes charged to, or subtracted from, the object that an entry names (R253). -/
def State.pendAdd (s : State) (who : Option Nat) (e : W32) (n : Int) : State :=
  if entryValid e && n != 0 then s.deviceObj who e fun o => { o with pend := o.pend + BitVec.ofInt 64 n } else s

/-- The address of the object that an entry names (R82). -/
def entryAddr (e : W32) : Word := BitVec.ofNat 64 (0xA000000000000000 + 32 * (e.toNat % 2 ^ 23))

/-- The protection fault of an operation whose barrier lies in a closed region (R148). -/
def closedFlt (e : W32) : Flt := { kind := .protection, code := 5, addr := entryAddr e }

/-- The object that an entry names lies in a region that a domain may access, and the entry of that region can be read (R148,
R295). -/
def State.entryCheck (s : State) (d : BitVec 16) (supv : Bool) (e : W32) : Except Flt Unit :=
  if entryValid e then s.regionCheck d supv (32 * (e.toNat % 2 ^ 23)) 32 (closedFlt e) else .ok ()

/-- The datapath-check fault of a charge or a subtraction of n bytes that reads a barrier object with uncorrectable data (R295). -/
def State.barFlt (s : State) (who : Option Nat) (e : W32) (n : Int) : Option Flt :=
  if !entryValid e || n = 0 then none
  else (s.poisoned .device (s.land who (entryLoc e)) 32).map fun g => poisonFlt (entryAddr e) (g - s.land who (entryLoc e)) g 6

/-- Bytes charged to the object that an entry names, where it can be read (R133, R153, R295). -/
def State.charged (s : State) (who : Option Nat) (e : W32) (n : Nat) : Except Flt State :=
  match s.barFlt who e n with
  | some f => .error f
  | none => .ok (s.pendAdd who e n)

/-- The DONE arrival of the cell, made once, after its writes are performed at device scope (R90): it is a send, and carries its
beat (R351). -/
def State.doneArrival (s : State) : State :=
  if s.cell.ident.done then s
  else
    let s := s.setCell { s.cell with ident := { s.cell.ident with done := true } }
    let e : W32 := s.cell.ident.record.extractLsb' 96 32
    if !entryValid e then s
    else
      let s := (s.perform (fun p => p.serial == s.cell.ident.serial) 3).send .A
      let s := s.arriveBeat (s.land s.me (entryLoc e)) (s.run .A).beat
      s.deviceObj s.me e fun o => { o with arrived := o.arrived + 1 }

/-! ## Peer stores (R335, R336) -/

/-- The fault of the dropped writes of a channel (R336). -/
def droppedFlt (c : BitVec 12) (n : Nat) : Flt :=
  { kind := .peerDropped, code := BitVec.ofNat 32 (c.toNat + Nat.min n (2 ^ 20 - 1) * 4096) }

/-- An instruction waits for the acknowledgement of some of the cell's peer stores (R335). A dropped one is reported first, by the
engine that sent it, in the state that the instruction found, with the report of the engine's writes on the channel made (R336). -/
def State.peersAcked (s found : State) (sel : PeerStore → Bool) (why : Why := .unit) : Res Unit :=
  match s.flight.dropped.filter sel with
  | p :: _ =>
    let mine (q : PeerStore) : Bool := sel q && q.channel == p.channel && q.eng == p.eng
    let n := (s.flight.dropped.filter mine).length
    let t := found.setFlight { found.flight with dropped := found.flight.dropped.filter fun q => !mine q }
    .error (.faultBy t p.eng (droppedFlt p.channel n))
  | [] =>
    if s.peerStores.any fun q => q.serial == s.cell.ident.serial && sel q then .error (.wait why none) else .ok ()

/-- The pending stores that a peer store was made of. -/
def PeerStore.made (w : PeerStore) (p : PStore) : Bool :=
  p.serial == w.serial && p.core == w.core && p.eng == w.eng && p.seq == w.seq
    && w.addr.toNat / 8 ≤ p.addr.toNat / 8 && p.addr.toNat < w.addr.toNat + w.len

/-- A peer store is ordered before A's next instruction (R245). -/
def State.knowsPeer (s : State) (p : PeerStore) : Bool := p.seq ≤ ((s.run .A).carries .A).get p.eng

end Sys2Proof.Machine
end

