-- ==== Sys2Proof/Machine/Publish.lean ====
section
/-! DEFINITION. Published buffers (R247-R251): registration, publication, and the discarding of shadows. -/

namespace Sys2Proof.Machine

/-- A buffer slot is registered (R247). -/
def PubSlot.en (p : PubSlot) : Bool := p.len.getLsbD 63

/-- The slot is published by a commit only (R247). -/
def PubSlot.lc (p : PubSlot) : Bool := p.len.getLsbD 62

/-- The scope at which a commit publishes the slot (R247). -/
def PubSlot.scope (p : PubSlot) : Nat := (p.len.extractLsb' 59 3).toNat

/-- The bytes of each backing (R247). -/
def PubSlot.bytes (p : PubSlot) : Nat := (p.len.extractLsb' 0 32).toNat

/-- A buffer slot of the cell replaced. -/
def State.setSlot (s : State) (k : Fin 8) (p : PubSlot) : State :=
  s.setCell { s.cell with slots := s.cell.slots.set k p }

/-- The registered buffer of the cell's slot. -/
def State.pubOf (s : State) (k : Fin 8) : Option Pub :=
  s.pubs.find? fun p => p.owner == s.cell.ident.serial && p.slot == k

/-- The registered buffer of the cell's slot changed. -/
def State.setPub (s : State) (k : Fin 8) (f : Pub → Pub) : State :=
  { s with pubs := s.pubs.map fun p => if p.owner == s.cell.ident.serial && p.slot == k then f p else p }

/-- 64-byte blocks of a buffer copied from the visible backing to the other, n blocks from offset off, with the poison that they
hold; a block without a translation is not copied. -/
def State.copyVisible (s : State) (p : Pub) (off : Nat) : Nat → State
  | 0 => s
  | n + 1 =>
    let s := match s.pubLoc p false off, s.pubLoc p true off with
      | some x, some y =>
        let o : Obs := .engine s.cur.core .A 0
        let bad := s.poison.filter fun g => x ≤ g && g < x + 64
        bad.foldl (fun (s : State) g => s.addPoison (y + (g - x))) (s.pokeHome o y (s.peek o x 64))
      | _, _ => s
    s.copyVisible p (off + 64) n

/-- The written 4 KiB blocks of a slot copied from the visible backing to the shadow, which then equals it. -/
def State.equalise (s : State) (k : Fin 8) : State :=
  match s.pubOf k with
  | none => s
  | some p =>
    let s := p.written.foldl
      (fun s b => s.copyVisible p (4096 * b) (Nat.min 64 ((p.bytes - 4096 * b) / 64))) s
    s.setPub k fun p => { p with written := [] }

/-- A location lies in the shadow of a buffer. -/
def State.inShadow (s : State) (p : Pub) (x : Nat) : Bool :=
  (s.backOff p (if p.flipped then p.b0 else p.b1) x 0 (p.bytes / 65536 + 2)).isSome

/-- The locations through which an access of the owner, or of a command of its, reaches the shadow: those of the name, and those of
backing 1 while it is the shadow (R248). -/
def State.shadowSpots (s : State) (p : Pub) : List (Nat × Nat) :=
  let n := p.bytes / 65536 + 2
  s.backRanges p p.b0 0 n ++ (if p.flipped then [] else s.backRanges p p.b1 0 n)

/-- Publication of a slot (R249): what is ordered before it is performed at the scope, and the cell's writes to the shadow at every
scope, so that no observer finds one of them without the later ones; the backings swap, and the written blocks are copied into the
new shadow. -/
def State.publish (s : State) (k : Fin 8) (scope : Nat) : State :=
  match s.pubOf k with
  | none => s
  | some p =>
    let s := s.perform (fun q => s.knows .A q) (scope + 1)
    let s := s.perform (fun q => q.serial == s.cell.ident.serial && s.inShadow p q.loc) 5
    (s.setPub k fun p => { p with flipped := !p.flipped }).equalise k

/-- One added to the version counter at a checked location, as an amo.add performed at host scope (R249). -/
def State.countVersion (s : State) (p : Word) (x : Nat) : Except Flt State := do
  let (_, s) ← (s.peerSend .A x).rmwAt p x 8 fun v => some ((v + 1) % 2 ^ 64)
  .ok s

/-- Every shadow write since the last publication is discarded (R251). -/
def State.discardShadows (s : State) : State :=
  let s := s.perform (fun p => p.serial == s.cell.ident.serial) 3
  [0, 1, 2, 3, 4, 5, 6, 7].foldl
    (fun (s : State) k => if s.cell.slots[k].en then s.equalise k else s) s

/-- A backing address is in a space of R247 and 64-byte aligned. -/
def backingOk (a : Word) : Bool := (spaceOf a == 0 || spaceOf a == 8 || spaceOf a == 0xA) && a.toNat % 64 == 0

/-- Two ranges of n and m bytes share a byte. -/
def overlap (a n b m : Nat) : Bool := a < b + m && b < a + n

/-- A slot's buffer forgotten. -/
def State.dropPub (s : State) (k : Fin 8) : State :=
  { s with pubs := s.pubs.filter fun p => !(p.owner == s.cell.ident.serial && p.slot == k) }

/-- A swr of PBLEN (R247): the checks in their order, then registration afresh with backing 0 visible and the shadow
equal to it, every store that the cell has made performed before; EN = 0 discards the shadow's writes and frees the slot. -/
def State.writePblen (s : State) (v : Word) : Res State :=
  let s := s.perform (fun p => p.serial == s.cell.ident.serial) 3
  let k := s.misc.pbsel
  let old := s.cell.slots[k]
  let new : PubSlot := { old with len := v }
  let code (c : Nat) := 0x500 + 8 * c + k.val
  if !v.getLsbD 63 then
    let s := if old.en then s.equalise k else s
    .ok ((s.dropPub k).setSlot k { new with len := v &&& 0xF8000000FFFFFFFF })
  else do
    require (v.extractLsb' 32 27 == 0 && new.scope ≤ 4) .shape (code 1)
    require (backingOk new.b0 && backingOk new.b1 && (new.ver == 0 || (spaceOf new.ver == 0 && new.ver.toNat % 8 == 0)))
      .shape (code 2)
    require (new.bytes != 0 && new.bytes % 64 == 0 && new.bytes ≤ 2 ^ 28) .shape (code 3)
    let others := [0, 1, 2, 3, 4, 5, 6, 7].filter fun (j : Fin 8) => j != k && s.cell.slots[j].en
    require (!overlap new.b0.toNat new.bytes new.b1.toNat new.bytes
      && others.all fun j =>
        let q := s.cell.slots[j]
        !(overlap new.b0.toNat new.bytes q.b0.toNat q.bytes || overlap new.b0.toNat new.bytes q.b1.toNat q.bytes
          || overlap new.b1.toNat new.bytes q.b0.toNat q.bytes || overlap new.b1.toNat new.bytes q.b1.toNat q.bytes))
      .shape (code 4)
    let s := if old.en then s.equalise k else s
    let s := (s.dropPub k).setSlot k new
    let pub : Pub :=
      { owner := s.cell.ident.serial, slot := k, core := s.cur.core, domain := s.domain, b0 := new.b0, b1 := new.b1,
        bytes := new.bytes, flipped := false, written := [] }
    let s : State := { s with pubs := s.pubs ++ [pub] }
    .ok (s.copyVisible pub 0 (new.bytes / 64))

end Sys2Proof.Machine
end

