-- ==== Sys2Proof/Machine/Commit.lean ====
section
/-! DEFINITION. The checkpoint, the layer commit and the rollback (R270-R276), and the holding words lcmt, rply and
halt (R25, R89, R118, R271, R276). -/

namespace Sys2Proof.Machine

/-! ## Chronographs (R354) -/

/-- The control word of a chronograph. -/
def State.chronoCtl (s : State) (d : DieId) (n : Fin 16) : Nat := s.entryAt (locSys d (0x1300000 + 8 * n.val))

/-- A sample of a source and a domain goes to a chronograph, where it gathers it. -/
def State.gather (s : State) (d : DieId) (src : Nat) (domain : BitVec 16) (value : Nat) (n : Fin 16) : State :=
  let ctl := s.chronoCtl d n
  let dom := ctl / 2 ^ 32 % 65536
  if ctl.testBit 63 && ctl / 2 ^ 59 % 16 == src && (dom == 0xFFFF || dom == domain.toNat) then
    let c := (s.die d).chrono[n]
    let i : Fin 32 := if value = 0 then 0 else Fin.ofNat 32 (Nat.min 31 (Nat.log2 value + 1))
    let v := Nat.min value (2 ^ 64 - 1)
    let c' : Chrono :=
      { c with
        count := holdSucc c.count, min := if v < c.min.toNat then BitVec.ofNat 64 v else c.min,
        max := if c.max.toNat < v then BitVec.ofNat 64 v else c.max, bins := c.bins.set i (holdSucc c.bins[i]) }
    s.setDie d { s.die d with chrono := (s.die d).chrono.set n c' }
  else s

/-- A sample of a source goes to the die's chronographs that gather it. -/
def State.sample (s : State) (d : DieId) (src : Nat) (domain : BitVec 16) (value : Nat) : State :=
  (List.finRange 16).foldl (fun s n => s.gather d src domain value n) s

/-! ## Streams (R361, R362) -/

/-- Frames of a stream that the host has not consumed: n - HEAD, HEAD read in host memory at CTR + 8 (R358, R362). -/
def State.unread (s : State) (st : Stream) : Nat :=
  (st.frames + 2 ^ 64 - leNat (s.peek .host (locPhys (0x1000000000000 + st.ctr.toNat + 8)) 8)) % 2 ^ 64

/-- A stream that takes no more frames: n - HEAD equals its size (R362). -/
def State.streamFull (s : State) (st : Stream) : Bool := s.unread st == 2 ^ st.logn

/-- The entries that a stream's opening holds, released and not yet written as frames. -/
def State.heldOf (s : State) (st : Stream) : List Released :=
  s.aedty.released.filter fun r => r.domain == st.domain && r.stream == st.id && r.opened == st.opened

/-- An open stream of a domain. -/
def State.streamOf (s : State) (d : BitVec 16) (k : BitVec 6) : Option Stream :=
  s.aedty.streams.find? fun st => st.domain == d && st.id == k

/-- The Aedty core has room for every staged entry, behind those that it holds already: the frames of each stream fit its ring
(R361, R362). -/
def State.stagingRoom (s : State) : Bool :=
  s.aedty.streams.all fun st =>
    let mine := (s.roll.staging.filter fun e => e.stream == st.id).length
    let held := (s.heldOf st).length
    st.domain != s.domain || mine == 0 || 2 ^ st.logn < s.unread st || s.unread st + held + mine ≤ 2 ^ st.logn

/-- Every staged entry is released in order (R361); an entry of a closed stream is dropped and counted (R358, R359). -/
def State.releaseStaging (s : State) : State :=
  let es := s.roll.staging
  let out := es.filterMap fun e => (s.streamOf s.domain e.stream).map fun st =>
    { domain := s.domain, stream := e.stream, cellno := s.cell.ident.cellno, value := e.value,
      owner := s.cell.ident.serial, opened := st.opened : Released }
  let s := { s with aedty := { s.aedty with released := s.aedty.released ++ out } }
  let m := s.misc
  let s := s.setMisc { m with
    released := m.released + BitVec.ofNat 32 es.length, drop := holdAdd m.drop (es.length - out.length) }
  s.setRoll { s.roll with staging := [] }

/-! ## Readiness -/

/-- Every engine other than A stands at the word at which A stands (R25, R271). -/
def State.allStand (s : State) : Bool :=
  let p := s.roll.paths
  [p.c, p.m, p.v, p.f].all fun q => !q.halted && q.pc == p.a.pc && q.walk == p.a.walk

/-- Every engine other than A stands at a halt word (R89). -/
def State.allHalted (s : State) : Bool :=
  let p := s.roll.paths
  [p.c, p.m, p.v, p.f].all (·.halted)

/-- Every operation that an engine issued has been performed, and no post is owed (R271). -/
def State.workDone (s : State) : Bool :=
  let f := s.flight
  let r := s.cell.run
  f.quiet && f.fop.isNone && f.cposts.isEmpty
    && s.roll.win.toList.all (fun w => w.missing.isEmpty && w.owed.isEmpty)
    && [r.a, r.c, r.m, r.v, r.f].all (·.owed.isEmpty)

/-- No segment copy of the cell is in flight. -/
def State.segsOut (s : State) : Bool := !s.segs.any fun g => g.owner == s.cell.ident.serial

/-- The cell's commands are complete and its segment copies have ended (R134, R273). -/
def State.workOut (s : State) : Bool := s.segsOut && !s.cmdOwners.contains s.cell.ident.serial

/-! ## Checkpoint and rollback -/

/-- The CKSLOT region of a register value: offset and bytes (R268). -/
def ckRegionOf (v : Word) : Nat × Nat := (v.toNat % 2 ^ 21, 64 * (v.toNat / 2 ^ 32 % 2 ^ 11))

/-- The checkpoint is taken from the state as it stands (R270), with the posts that its word still owes (R126). -/
def State.checkpoint (s : State) : State :=
  let (off, n) := ckRegionOf s.cell.ctx.ckslot
  let base := locPad s.cur.core off
  let bytes := s.peek (.engine s.cur.core .A 0) base n
  let bad := (s.poison.filter fun g => base ≤ g && g < base + n).map (· - base)
  s.setCell { s.cell with ckpt := s.roll, ckBytes := bytes, ckRegion := s.cell.ctx.ckslot, ckBad := bad, ckOwed := (s.run .A).owed }

/-- The rows a mapped window holds (R163). -/
def Window.heldRows (w : Window) : List Nat :=
  match w.shape with
  | Option.none => []
  | Option.some sh => (List.range sh.ringrows).map (w.head + ·)

/-- A window whose held rows are fetched again (R168), from a point in time. -/
def Window.refetch (now : Nat) (w : Window) : Window :=
  { w with
    missing := w.heldRows
    owed := if w.shape.isNone then [] else [{ lo := w.head, upto := w.head + w.heldRows.length, seq := 0, since := now, pc := 0 }] }

/-- Every window as a rollback leaves it. -/
def refetchAll (now : Nat) (ws : Vector Window 8) : Vector Window 8 := ws.map (Window.refetch now)

/-- The operation whose progress CPROG keeps, while it is not in flight again (R171). -/
def State.keptOp (s : State) : Option COp := if s.misc.cprogValid then s.flight.stopped else none

/-- Every C operation in flight, and the one that a stop has left at its progress, is abandoned, and its undelivered bytes leave its
barrier (R153): a replay issues it afresh. -/
def State.abandonC (s : State) : State :=
  let s := (s.flight.cops ++ s.keptOp.toList).foldl (fun s o => s.pendAdd s.me o.f.f4 (-(o.left : Int))) s
  let s := s.setFlight { s.flight with cops := [], stopped := none }
  s.setMisc { s.misc with cprogValid := false }

/-- The checkpoint is restored (R270, R273, R276): outstanding loads end, shadows are discarded, everything in flight is abandoned;
a rollback makes the entries of the barrier log credits (R259). -/
def State.restore (s : State) (credits : Bool) : State :=
  let s := s.endLoads.abandonC.discardShadows
  let c := s.cell
  let idle (r : EngRun) : EngRun := { r with owed := [], stall := none }
  let s := s.setCell { c with
    roll := { c.ckpt with win := refetchAll s.now c.ckpt.win, staging := [] }
    run := ⟨{ idle c.run.a with owed := c.ckOwed }, idle c.run.c, idle c.run.m, idle c.run.v, idle c.run.f⟩
    flight := { Flight.none with dropped := c.flight.dropped }
    blog := if credits then c.blog.map fun e => { e with credit := true } else c.blog
    raised := none }
  let (off, _) := ckRegionOf c.ckRegion
  s.pokeHome .device (locPad s.cur.core off) c.ckBytes

/-- The fault of a checkpoint copy with an uncorrectable granule (R297). -/
def State.ckFlt (s : State) : Option Flt :=
  s.cell.ckBad.head?.map fun o =>
    let off := (ckRegionOf s.cell.ckRegion).1 + o
    poisonFlt (BitVec.ofNat 64 (0x8000000000000000 + off)) 0 (locPad s.cur.core off) 6

/-- A slot counts its versions at a commit (R249, R271). -/
def PubSlot.counted (p : PubSlot) : Bool := p.en && p.scope == 4 && p.ver != 0

/-- A commit publishes a slot at its scope, with the counter rule of R249; a counter whose store would fault is left
(log entry 30). -/
def State.commitSlot (s : State) (k : Fin 8) : State :=
  let p := s.cell.slots[k]
  if !p.en then s
  else
    let s := s.publish k p.scope
    if !p.counted then s
    else
      match s.access p.ver 8 .store with
      | .error _ => s
      | .ok (x, s) => (s.countVersion p.ver x).toOption.getD s

/-- The datapath-check fault of a version counter that a commit would read (R271, R295). -/
def State.versionFlt (s : State) : Option Flt :=
  s.cell.slots.toList.findSome? fun p =>
    if !p.counted then none
    else
      match s.access p.ver 8 .store with
      | .error _ => none
      | .ok (x, s) => match s.loadBytes .A p.ver x 8 with
        | .error f => some f
        | .ok _ => none

/-- A commit would count in a version counter behind a channel that is draining (R336). -/
def State.versionDrains (s : State) : Bool :=
  !s.draining.isEmpty && s.cell.slots.toList.any fun p => p.counted && match s.access p.ver 8 .store with
    | .error _ => false
    | .ok (x, s) => s.drains x

/-- The commit of R271, apart from the PCs: slots are published, the log is emptied, DEPTH falls to 0, the number rises,
staged entries are released. -/
def State.commit (s : State) : State :=
  let s := s.perform (fun p => p.serial == s.cell.ident.serial) 3
  let s := [0, 1, 2, 3, 4, 5, 6, 7].foldl State.commitSlot s
  let c := s.cell
  let s := s.setCell { c with blog := [], ctx := { c.ctx with depth := 0, number := c.ctx.number + 1 } }
  (s.releaseStaging).autoTrace 8 .A (s.path .A).pc ((c.ctx.number + 1).setWidth 64)

/-- What A's commit waits for, in lcmt and in halt (R89, R271): the other engines and the cell's work, then the acknowledgements of
its peer stores (R335), then room for what it releases (R361). -/
def State.commitReady (s found : State) (stand : Bool) (why : Why) : Res Unit := do
  s.peersAcked found (fun _ => true) why
  if !(stand && s.workDone && s.workOut) || s.versionDrains then .error (.wait why none)
  else
    match s.versionFlt with
    | some f => .error (.fault f)
    | none => if s.stagingRoom then .ok () else .error (.wait (.room (why == .halt)) none)

/-! ## The holding words -/

/-- An engine other than A stops at a holding word and has no other effect there (R25). -/
def State.standStill (s : State) : Host.Outcome State Fault Refusal := .next (s.stallAt s.cur.eng .hold none)

/-- lcmt (R271). -/
def execLcmt (t : Tok) (s : State) : Host.Outcome State Fault Refusal :=
  if s.cur.eng != .A then s.standStill
  else
    let found := s
    s.settleIssue .A do
      let (_, s) ← s.takeTokens .A t
      require (!s.cell.ctx.active) .privilege 5
      let s ← liftFlt (s.performLoads s.flight.loads.length)
      s.commitReady found s.allStand .hold
      let s := s.commit.retire .A t 2
      let p := s.path .A
      let go (q : Path) : Path := { q with pc := p.pc, walk := p.walk }
      let ps := s.roll.paths
      let s := s.setRoll { s.roll with paths := ⟨p, go ps.c, go ps.m, go ps.v, go ps.f⟩ }
      .ok (s.clearStalls).checkpoint

/-- rply (R276). -/
def execRply (t : Tok) (s : State) : Host.Outcome State Fault Refusal :=
  if s.cur.eng != .A then s.standStill
  else
    s.settleIssue .A do
      let (_, s) ← s.takeTokens .A t
      require s.cell.ctx.active .privilege 4
      let s ← liftFlt (s.performLoads s.flight.loads.length)
      if !(s.allStand && s.segsOut) then .error (.wait .hold none)
      else
        match s.ckFlt with
        | some f => .ok ((s.send .A).fatal f .A (s.path .A).pc)
        | none =>
          let s := ((s.charge 2 1).restore false).setCtx { s.cell.ctx with active := false, rply := s.cell.ctx.rply + 1 }
          let s := s.sample s.dieId 3 s.domain (s.now - s.cell.faultAt)
          let s := s.setRun .A { (s.run .A).toHead s.now 0x00 with stepped := true }
          let s := s.setCell { s.cell with progress := s.now }
          .ok (s.makePosts .A (postsOf .A t))

/-- halt (R89, R118, R271): the other engines stop at it for good; A commits with the PCs at the entry, and the
iteration or the cell then ends. -/
def execHalt (t : Tok) (s : State) : Host.Outcome State Fault Refusal :=
  if s.cur.eng != .A then
    let e := s.cur.eng
    let s := s.setPath e { s.path e with halted := true }
    .next (s.setRun e { (s.run e).toHead s.now 0x02 with stall := none })
  else
    let found := s
    s.settleIssue .A do
      let (_, s) ← s.takeTokens .A t
      require (!s.cell.ctx.active) .privilege 5
      let s ← liftFlt (s.performLoads s.flight.loads.length)
      s.commitReady found s.allHalted .halt
      let s := s.commit.retire .A t 0
      let home (q : Path) : Path := { q with pc := s.cell.ident.entry, walk := 0, exts := [], halted := false }
      let ps := s.roll.paths
      let s := s.setRoll { s.roll with paths := ⟨home ps.a, home ps.c, home ps.m, home ps.v, home ps.f⟩ }
      let s := (s.clearStalls).checkpoint
      .ok (s.setCell { s.cell with status := .halted })

/-! ## Context faults (R274, R275) -/

/-- RCOUNT of the record at CTXREC, read in the cell's domain; 0 where that read would fault (R275). -/
def State.rcountNow (s : State) : BitVec 16 :=
  let rec_ := s.cell.ctx.ctxrec
  if rec_ = 0 then 0
  else
    match s.access (rec_ + 16) 8 .load with
    | .error _ => 0
    | .ok (x, s) =>
      match s.loadBytes .A (rec_ + 16) x 8 with
      | .error _ => 0
      | .ok b => BitVec.ofNat 16 (leNat b / 2 ^ 48)

/-- A context-fault record (R275). -/
def State.contextRecord (s : State) (f : Flt) (pc : Word) (beat : BitVec 48) (d : Nat) (kind : BitVec 2) : BitVec 512 :=
  let c := s.cell.ctx
  let m := s.misc
  beat ++ 0#16 ++ c.number ++ m.smtheta ++ f.share ++ f.seg ++ c.ctoken ++ m.smtag ++ 0#2 ++ BitVec.ofNat 4 d ++ f.lane
    ++ 0#3 ++ c.limit ++ kind ++ pc ++ c.ctxrec ++ s.rcountNow ++ 0#40 ++ 1#8

/-- After the rollback of a context fault (R274): the record is written, and the cell enters its context handler or takes the
replay-depth fault, which is a send of V with its own trace record (R351, R352). -/
def State.enterContext (s : State) (f : Flt) (pc : Word) (beat : BitVec 48) : State :=
  let c := s.cell.ctx
  let d := c.depth.toNat + 1
  let s := s.setCell { s.cell with ctx := { c with depth := BitVec.ofNat 3 (Nat.min d 7) } }
  let off := 64 * (Nat.min d 8 - 1)
  let deep : Option Nat :=
    if s.contextEntry.isNone then some 1
    else if c.active then some 2
    else if c.limit.toNat < d then some 0
    else none
  match deep, s.contextEntry with
  | none, some h =>
    let s := s.writeFaultPage off (s.contextRecord f pc beat d 1)
    let s := s.setCell { s.cell with status := .running, progress := s.now }
    ((s.allHeads 0x02).setCtx { s.cell.ctx with active := true }).startContext h
  | code, _ =>
    let s := s.writeFaultPage off (s.contextRecord f pc beat d 2)
    let g : Flt := { Flt.mk' .replayDepth (code.getD 1) with addr := c.ctxrec }
    ((s.send .V).traceFault .V g pc).holdCell g .V pc 3 true

end Sys2Proof.Machine
end

