-- ==== Sys2Proof/Machine/Quant.lean ====
section
/-! DEFINITION. Matrix operand formats, quantisation and the tile trailer (R59-R65, R76-R78). -/

namespace Sys2Proof.Machine

/-! ## The 28 formats (R59) -/

/-- Storage bits of an element (R59): sub-byte formats are packed, six-bit formats take a byte. -/
def storeBits (c : Nat) : Nat :=
  [1, 2, 2, 4, 4, 8, 8, 8, 16, 4, 8, 8, 4, 8, 8, 8, 8, 4, 8, 8, 8, 8, 4, 16, 16, 32, 32, 8].getD c 8

/-- Ganging width of a format (R59). -/
def gangWidth (c : Nat) : Nat :=
  [1, 1, 1, 2, 2, 3, 4, 4, 8, 2, 3, 4, 1, 2, 2, 2, 2, 1, 2, 2, 2, 2, 1, 6, 4, 6, 12, 2].getD c 1

/-- Block size along k of a block-scaled format (R64); 0 for the others. -/
def blockSize (c : Nat) : Nat :=
  if c = 22 then 16 else if (9 ≤ c && c ≤ 11) || (17 ≤ c && c ≤ 21) then 32 else 0

/-- The integer format of a code: width, least and greatest value (R60, R64). -/
def intFmt (c : Nat) : Option (Nat × Int × Int) :=
  match c with
  | 2 => some (2, -2, 1)
  | 3 | 9 => some (4, -8, 7)
  | 4 => some (4, 0, 15)
  | 5 | 10 => some (6, -32, 31)
  | 6 | 11 => some (8, -128, 127)
  | 7 => some (8, 0, 255)
  | 8 => some (16, -32768, 32767)
  | _ => none

/-- The float format of a code, scaled formats by their elements (R61, R64). -/
def floatFmt (c : Nat) : Option FFmt :=
  match c with
  | 12 | 17 | 22 => some .e2m1
  | 13 | 18 => some .e2m3
  | 14 | 19 => some .e3m2
  | 15 | 20 => some .e4m3
  | 16 | 21 => some .e5m2
  | 23 => some .f16
  | 24 => some .bf16
  | 25 => some .f19
  | 26 => some .f32
  | _ => none

/-- The logarithm of an l8 code, none for its zeros (R63). -/
def l8Log (x : Nat) : Option Int := let l := sextNat 7 x; if l = -64 then none else some l

/-- 2^(j / 16) rounded to f32 (R63). -/
def l8P (j : Nat) : Val := FFmt.f32.near (exp2Real false j (-4))

/-- The product of two l8 codes (R63). -/
def l8Mul (x y : Nat) : Val :=
  match l8Log x, l8Log y with
  | some a, some b =>
    let t := a + b
    match l8P (t % 16).toNat with
    | .real _ m e => .real (x.testBit 7 != y.testBit 7) m (e + t / 16)
    | v => v
  | _, _ => .zero

/-- The value of an element code before its block's scale (R60-R64); the value of an l8 code is rounded to f32. -/
def elemVal (c x : Nat) : Val :=
  match c with
  | 0 => .real (x.testBit 0) 1 0
  | 1 => match x % 4 with
    | 1 => .real false 1 0
    | 3 => .real true 1 0
    | _ => .zero
  | 25 => FFmt.f19.decode (x / 2 ^ 13)
  | 27 => match l8Log x with
    | none => .zero
    | some l => match l8P (l % 16).toNat with
      | .real _ m e => .real (x.testBit 7) m (e + l / 16)
      | v => v
  | _ =>
    match intFmt c, floatFmt c with
    | some (n, lo, _), _ => Val.ofInt (if lo < 0 then sextNat n x else (x % 2 ^ n : Nat))
    | _, some f => f.decode (x % 2 ^ (f.bits + 1))
    | _, _ => .zero

/-- The value of an E8M0 scale byte (R64). -/
def e8m0 (x : Nat) : Val := if x = 255 then .nan else .real false 1 ((x : Int) - 127)

/-- The value of a u5m3 scale byte (R64). -/
def u5m3 (x : Nat) : Val :=
  let e := x / 8 % 32
  let m := x % 8
  if e = 31 then .nan else if e = 0 then .real false m (-17) else .real false (8 + m) ((e : Int) - 18)

/-- What a scale byte multiplies an element of a block-scaled format by (R64). -/
def scaleVal (c x : Nat) : Val :=
  match c with
  | 22 => u5m3 x
  | 9 => Val.mul (e8m0 x) (.real false 1 (-2))
  | 10 => Val.mul (e8m0 x) (.real false 1 (-4))
  | 11 => Val.mul (e8m0 x) (.real false 1 (-6))
  | _ => e8m0 x

/-! ## Conversion of one element (R60, R63, R67, R76) -/

/-- Conversion into b1 (R60). -/
def toB1 (v : Val) : Nat × Events :=
  match v with
  | .nan => (0, ⟨0, 1⟩)
  | .inf n => (if n then 1 else 0, ⟨1, 0⟩)
  | .real n m e => (if m != 0 && n then 1 else 0, if 1 < roundTo .rne n m e 0 then ⟨1, 0⟩ else Events.none)

/-- Conversion into l8 (R63). -/
def toL8 (v : Val) : Nat × Events :=
  match v with
  | .nan => (0x40, ⟨0, 1⟩)
  | .inf n => ((if n then 0x80 else 0) + 63, ⟨1, 0⟩)
  | .real n m e =>
    if m = 0 then (0x40, Events.none)
    else
      let l : Int := match log2Real m e with
        | .real s m' e' => let r : Int := roundTo .rne s m' (e' + 4) 0; if s then -r else r
        | _ => 0
      let sign := if n then 0x80 else 0
      if 63 < l then (sign + 63, ⟨1, 0⟩)
      else if l < -63 then (0x40, Events.none)
      else (sign + intCode 7 l, Events.none)

/-- convert(v, fmt, rne, 1) into the element format of a code; the answer is its stored code. -/
def toElem (c : Nat) (v : Val) : Nat × Events :=
  match c with
  | 0 => toB1 v
  | 1 => let (i, ev) := convertInt (-1) 1 .rne true v; (intCode 2 i, ev)
  | 25 => let (x, ev) := FFmt.f19.convert .rne true v; (x * 2 ^ 13, ev)
  | 27 => toL8 v
  | _ =>
    match intFmt c, floatFmt c with
    | some (n, lo, hi), _ => let (i, ev) := convertInt lo hi .rne true v; (intCode n i, ev)
    | _, some f => f.convert .rne true v
    | _, _ => (0, Events.none)

/-! ## Blocks (R76) -/

/-- The largest finite magnitude of a list of values. -/
def amax (vs : List Val) : Val :=
  vs.foldl (fun a v => match v with
    | .real _ m e => if a.lt (.real false m e) then .real false m e else a
    | _ => a) .zero

/-- emax of an mx format (R76). -/
def emaxOf (c : Nat) : Int :=
  match c with
  | 17 | 18 => 2 | 19 => 4 | 20 => 8 | 21 => 15 | _ => 0

/-- The E8M0 scale byte of a block (R76). -/
def mxScale (c : Nat) (vs : List Val) : Nat :=
  match amax vs with
  | .real _ m e =>
    if m = 0 then 0 else (Max.max 0 (Min.min 254 (127 + ((bitLen m : Int) - 1 + e) - emaxOf c))).toNat
  | _ => 0

/-- The u5m3 scale byte of a block (R76): the smallest that is not below amax / 6. -/
def sxScale (vs : List Val) : Nat :=
  let a := amax vs
  ((List.range 0xF8).find? fun x => !(Val.mul (u5m3 x) (.real false 3 1)).lt a).getD 0xF7

/-- A block converted: element codes, scale byte and events (R76). -/
def quantBlock (c : Nat) (vs : List Val) : List Nat × Nat × Events :=
  let conv (f : Val → Val) : List (Nat × Events) := vs.map fun v => toElem c (f v)
  let sum (l : List (Nat × Events)) : Events := l.foldl (fun a p => a.add p.2) Events.none
  if c = 22 then
    let x := sxScale vs
    if x = 0 then
      let count := vs.map fun v => (0, match v with
        | .nan => (⟨0, 1⟩ : Events)
        | .inf _ => ⟨1, 0⟩
        | .real .. => Events.none)
      (count.map (·.1), 0, sum count)
    else
      let l := conv fun v => v.div (u5m3 x)
      (l.map (·.1), x, sum l)
  else if blockSize c = 32 then
    let x := mxScale c vs
    let up : Int := match c with
      | 9 => 2 | 10 => 4 | 11 => 6 | _ => 0
    let l := conv fun v => match v with
      | .real n m e => .real n m (e - ((x : Int) - 127) + up)
      | v => v
    (l.map (·.1), x, sum l)
  else
    let l := conv id
    (l.map (·.1), 0, sum l)

/-- 32 elements converted: element codes, scale bytes and events. -/
def quant32 (c : Nat) (vs : List Val) : List Nat × List Nat × Events :=
  if blockSize c = 16 then
    let (a, x, e) := quantBlock c (vs.take 16)
    let (b, y, f) := quantBlock c (vs.drop 16)
    (a ++ b, [x, y], e.add f)
  else
    let (a, x, e) := quantBlock c vs
    (a, if blockSize c = 32 then [x] else [], e)

/-! ## Packing -/

/-- Codes of n bits packed from the low bit up, as one number. -/
def packCodes (n : Nat) : List Nat → Nat
  | [] => 0
  | x :: xs => x % 2 ^ n + 2 ^ n * packCodes n xs

/-- The bytes of codes of a format. -/
def packBytes (c : Nat) (xs : List Nat) : List Byte :=
  leBytes ((xs.length * storeBits c + 7) / 8) (packCodes (storeBits c) xs)

/-- Element i of packed bytes. -/
def elemAt (c : Nat) (bs : List Byte) (i : Nat) : Nat :=
  let n := storeBits c
  if n < 8 then (bs.getD (i * n / 8) 0).toNat / 2 ^ (i * n % 8) % 2 ^ n
  else leNat ((bs.drop (i * n / 8)).take (n / 8))

/-- A length rounded up to a multiple of 64. -/
def pad64 (n : Nat) : Nat := (n + 63) / 64 * 64

/-- Bytes of the element array of n elements of a format. -/
def elemBytes (c n : Nat) : Nat := (n * storeBits c + 7) / 8

/-- Bytes of the scale array of n elements, without its padding. -/
def scaleCount (c n : Nat) : Nat := if blockSize c = 0 then 0 else n / blockSize c

/-- Bytes of an image's element and scale arrays with their padding (R65, R77). -/
def imageBytes (c n : Nat) : Nat := pad64 (elemBytes c n) + pad64 (scaleCount c n)

/-! ## CRC-32C and the trailer (R77, R78) -/

/-- One bit of the reflected CRC. -/
def crcBit (r : W32) : W32 := if r.getLsbD 0 then (r >>> 1) ^^^ 0x82F63B78 else r >>> 1

/-- One byte of the CRC. -/
def crcByte (r : W32) (b : Byte) : W32 :=
  crcBit (crcBit (crcBit (crcBit (crcBit (crcBit (crcBit (crcBit (r ^^^ b.setWidth 32))))))))

/-- CRC-32C of bytes (R77). -/
def crc32c (bs : List Byte) : W32 := (bs.foldl crcByte 0xFFFFFFFF) ^^^ 0xFFFFFFFF

/-- A tile trailer (R77). -/
def trailer (crc bytes elems : W32) (fmt : BitVec 8) (nann satn maxmag : W32) : BitVec 512 :=
  0#288 ++ crc ++ bytes ++ elems ++ 0#16 ++ 1#8 ++ fmt ++ nann ++ satn ++ maxmag

/-- The checks of a trailered load (R78): the bytes covered, the trailer, and the format required where one is. -/
def trailerOk (data : List Byte) (t : BitVec 512) (fmt : Option Nat) : Bool :=
  t.extractLsb' 224 288 == 0 && t.extractLsb' 112 16 == 0 && t.extractLsb' 104 8 == 1
    && (t.extractLsb' 96 8).toNat ≤ 27
    && (match fmt with
      | none => true
      | some c => (t.extractLsb' 96 8).toNat == c)
    && (t.extractLsb' 160 32).toNat == data.length && t.extractLsb' 192 32 == crc32c data

end Sys2Proof.Machine
end

