-- ==== Sys2Proof/Machine/Reduce.lean ====
section
/-! DEFINITION. Reduction trees (R341-R344): descriptors, their checks, the inputs of a node, and the root's result. -/

namespace Sys2Proof.Machine

/-! ## Descriptors (R341) -/

/-- A header word of a tree's descriptor on a die. -/
def State.treeHeader (s : State) (d : DieId) (t : Fin 256) (w : Nat) : Nat :=
  s.entryAt (locSys d (0x1000000 + 2048 * t.val + 8 * w))

/-- A node entry (R341). -/
structure NodeEntry where
  v : Bool
  own : Bool
  child1 : Nat
  child2 : Nat
  parent : Nat
  resv : Nat

/-- The node entry of a site. -/
def State.nodeEntry (s : State) (d : DieId) (t : Fin 256) (site : Nat) : NodeEntry :=
  let e := s.entryAt (locSys d (0x1000000 + 2048 * t.val + 16 + 8 * site))
  { v := e.testBit 63, own := e.testBit 62, child1 := e / 2 ^ 53 % 512, child2 := e / 2 ^ 44 % 512,
    parent := e / 2 ^ 35 % 512, resv := e % 2 ^ 35 }

/-- The node that a code names, seen from a die: a site of this die or of the other. -/
def nodeOf (d : DieId) (c : Nat) : Option (DieId × Nat) :=
  if c ≤ 0xC3 then some (d, c) else if 0x100 ≤ c && c ≤ 0x1C3 then some (1 - d, c - 0x100) else none

/-- A code of an Umarn port of the die. -/
def isPort (c : Nat) : Bool := 0x1E0 ≤ c && c ≤ 0x1E7

/-- The site is enabled. -/
def State.siteEnabled (s : State) (d : DieId) (site : Nat) : Bool :=
  match coreAt d site with
  | some k => s.cores[k].enabled
  | none => false

/-- A code in a node entry is valid, and the node it names names this one back (R341). -/
def State.codeOk (s : State) (t : Fin 256) (d : DieId) (site c : Nat) (asParent : Bool) : Bool :=
  c == 0x1FF || (asParent && c == 0x1FE) || isPort c ||
    match nodeOf d c with
    | none => false
    | some (d', site') =>
      let e := s.nodeEntry d' t site'
      let back := if asParent then [e.child1, e.child2] else [e.parent]
      s.siteEnabled d' site' && e.v && back.any fun b => nodeOf d' b == some (d, site)

/-- The nodes of a tree on a die. -/
def State.treeNodes (s : State) (t : Fin 256) (d : DieId) : List (Nat × NodeEntry) :=
  ((List.range 196).map fun i => (i, s.nodeEntry d t i)).filter fun p => p.2.v

/-- The tree is in use on a die and well formed over both dies (R341). -/
def State.treeOk (s : State) (t : Fin 256) (d : DieId) : Bool :=
  let half (d : DieId) : Bool :=
    let h0 := s.treeHeader d t 0
    h0 / 2 ^ 55 % 256 == 0 && s.treeHeader d t 1 / 2 ^ 32 == 0 && (!h0.testBit 63 || h0 / 2 ^ 48 % 128 != 0)
      && (s.treeNodes t d).all fun (i, e) =>
        e.resv == 0 && s.siteEnabled d i && (e.own || e.child1 != 0x1FF || e.child2 != 0x1FF)
          && s.codeOk t d i e.child1 false && s.codeOk t d i e.child2 false && s.codeOk t d i e.parent true
  let ports (d : DieId) := (s.treeNodes t d).flatMap fun p => ([p.2.child1, p.2.child2].filter isPort).dedup
  let roots (d : DieId) := ((s.treeNodes t d).filter fun p => p.2.parent == 0x1FE).length
  (s.treeHeader d t 0).testBit 63 && half 0 && half 1 && (ports 0).Nodup && (ports 1).Nodup && roots 0 + roots 1 == 1

/-- NELEM of a tree on a die. -/
def State.treeElems (s : State) (t : Fin 256) (d : DieId) : Nat := s.treeHeader d t 0 / 2 ^ 48 % 128

/-- A word of a tree's descriptors that is uncorrectable, on either die (R295). -/
def State.treeBad (s : State) (t : Fin 256) : Option Nat :=
  let on (d : DieId) : Option Nat := s.poisoned .device (locSys d (0x1000000 + 2048 * t.val)) 1584
  (on 0).or (on 1)

/-- The checks of c.rsend and c.rrecv at issue that concern the tree, in their order (R343). -/
def State.treeCheck (s : State) (f : CFields) (root : Bool) (d : DieId) (site : Nat) (domain : BitVec 16) (supv : Bool) :
    Except Flt Unit := do
  let bad (k : Kind) (c : Nat) : Except Flt Unit := .error (Flt.mk' k c)
  if 2 ^ 32 ≤ f.f2.toNat then bad .shape 0x102
  if 256 ≤ f.f5.toNat then bad .shape 0x105
  let t : Fin 256 := Fin.ofNat 256 f.f5.toNat
  match s.treeBad t with
  | some x => .error (entryFlt x)
  | none => .ok ()
  if !s.treeOk t d then bad .shape 0x800
  let e := s.nodeEntry d t site
  if !root && !(e.v && e.own) then bad .shape 0x801
  if root && !(e.v && e.parent == 0x1FE) then bad .shape 0x802
  if !supv && s.treeHeader d t 0 / 2 ^ 32 % 65536 != domain.toNat then bad .protection 10

/-! ## Nodes (R342) -/

/-- The combine state of a node. -/
def State.nodeState (s : State) (d : DieId) (t : Fin 256) (site : Nat) : Node :=
  ((s.die d).nodes.find? fun n => n.tree == t && n.site == site).getD
    { tree := t, site := site, opens := [], last := none, results := [], given := none, failed := [] }

/-- The combine state of a node replaced. -/
def State.setNode (s : State) (d : DieId) (n : Node) : State :=
  s.setDie d { s.die d with
    nodes := n :: (s.die d).nodes.filter fun m => !(m.tree == n.tree && m.site == n.site) }

/-- The node has completed or failed a sequence: (last - s) mod 2^32 is below 2^31 (R342). -/
def Node.past (n : Node) (seq : Nat) : Bool :=
  match n.last with
  | none => false
  | some l => (l + 2 ^ 32 - seq) % 2 ^ 32 < 2 ^ 31

/-- The result of a sequence that the root holds: one that it has not delivered, or the last that it delivered (R343). -/
def Node.resultOf (n : Node) (seq : Nat) : Option (List W32 × BitVec 48) := (n.results ++ n.given.toList).lookup seq

/-- The root delivers the result of a sequence, and keeps it as its last (R343). -/
def Node.deliver (n : Node) (seq : Nat) : Node :=
  match n.resultOf seq with
  | none => n
  | some r => { n with results := n.results.filter (·.1 != seq), given := some (seq, r) }

/-- The inputs that a node expects: own 0, first child 1, second child 2. -/
def NodeEntry.expects (e : NodeEntry) : List Nat :=
  (if e.own then [0] else []) ++ (if e.child1 != 0x1FF then [1] else []) ++ (if e.child2 != 0x1FF then [2] else [])

/-- An f32 element with every NaN canonical. -/
def canonF32 (v : W32) : W32 := BitVec.ofNat 32 (FFmt.f32.rne (FFmt.f32.decode v.toNat))

/-- Two inputs added element by element, rounded once (R342). -/
def addVals (a b : List W32) : List W32 :=
  (a.zip b).map fun p =>
    BitVec.ofNat 32 (FFmt.f32.rne (Val.add false (FFmt.f32.decode p.1.toNat) (FFmt.f32.decode p.2.toNat)))

/-- The sum that a node sends: its inputs in the order own, first child, second child (R342). -/
def nodeSum : List (List W32) → List W32
  | [] => []
  | v :: vs => vs.foldl addVals (v.map canonF32)

/-- A node has room for an input: the sequence is open or past, or fewer than 64 entries are open (R342). -/
def State.nodeRoom (s : State) (d : DieId) (t : Fin 256) (site seq : Nat) : Bool :=
  let n := s.nodeState d t site
  n.past seq || n.opens.any (·.seq == seq) || n.opens.length < 64

/-- A packet to the parent of a node: to a node of the device, as the child that it is there; one for a port leaves the
device. -/
def State.sendUp (s : State) (d : DieId) (t : Fin 256) (site parent seq : Nat) (vals : List W32) (beat : BitVec 48) :
    State :=
  match nodeOf d parent with
  | none => s
  | some (d', site') =>
    let e := s.nodeEntry d' t site'
    let child := if nodeOf d' e.child1 == some (d, site) then 1 else 2
    { s with packets := s.packets ++
      [{ die := d', tree := t, site := site', child := child, seq := seq, vals := vals, beat := beat }] }

/-- An input reaches a node (R342): a duplicate or a past sequence is discarded; when every expected input is present the
node sends its sum to its parent, or keeps it as the root's result. -/
def State.nodeInput (s : State) (d : DieId) (t : Fin 256) (site child seq : Nat) (vals : List W32) (beat : BitVec 48) :
    State :=
  let n := s.nodeState d t site
  let e := s.nodeEntry d t site
  let o : OpenSeq := (n.opens.find? (·.seq == seq)).getD { seq := seq, inputs := [], since := s.now }
  if n.past seq || o.inputs.any (·.child == child) then s
  else
    let o : OpenSeq := { o with inputs := o.inputs ++ [{ child := child, vals := vals, beat := beat }] }
    let others := n.opens.filter (·.seq != seq)
    let got (c : Nat) : Option NodeInput := o.inputs.find? (·.child == c)
    if !e.expects.all fun c => (got c).isSome then s.setNode d { n with opens := others ++ [o] }
    else
      let ins := e.expects.filterMap got
      let sum := nodeSum (ins.map (·.vals))
      let top := ins.foldl (fun (b : BitVec 48) i => if b < i.beat then i.beat else b) 0
      if e.parent = 0x1FE then
        s.setNode d { n with opens := others, last := some seq, results := n.results ++ [(seq, sum, top)] }
      else (s.setNode d { n with opens := others, last := some seq }).sendUp d t site e.parent seq sum top

/-! ## The root's probe (R344) -/

/-- The nodes below and including a node, as the probe reaches them. -/
def State.probeNodes (s : State) (t : Fin 256) : List (DieId × Nat) → List (DieId × Nat) → Nat → List (DieId × Nat)
  | seen, _, 0 => seen
  | seen, [], _ => seen
  | seen, n :: todo, fuel + 1 =>
    if seen.contains n then s.probeNodes t seen todo fuel
    else
      let e := s.nodeEntry n.1 t n.2
      let next := [e.child1, e.child2].filterMap (nodeOf n.1)
      s.probeNodes t (seen ++ [n]) (next ++ todo) fuel

/-- Entries of a missing-input list that another device reports: free values in the format of R344. -/
def State.freeEntries (s : State) : Nat → List Nat × State
  | 0 => ([], s)
  | n + 1 =>
    let (es, t) := State.freeEntries { s with freeCtr := s.freeCtr + 1 } n
    ((Config.freeWord s.freeCtr).toNat / 2 ^ 12 % 2 ^ 20 * 2 ^ 12 :: es, t)

/-- What the probe learns of a child behind a port (R344): it is silent, and the entry names it, or its device answers with the
inputs that its own nodes lack (log entry 19). -/
def State.portReport (s : State) (silent : Nat) : List Nat × State :=
  let w := Config.freeWord s.freeCtr
  let s : State := { s with freeCtr := s.freeCtr + 1 }
  if w.getLsbD 0 then s.freeEntries (w.toNat / 2 % 2 ^ 18) else ([silent], s)

/-- The list entries of the inputs that a node still lacks at the source of the delay: its own, and what is missing behind a port. -/
def State.missingAt (s : State) (t : Fin 256) (seq : Nat) (n : DieId × Nat) : List Nat × State :=
  let e := s.nodeEntry n.1 t n.2
  let st := s.nodeState n.1 t n.2
  let has (c : Nat) : Bool := match st.opens.find? (·.seq == seq) with
    | some o => o.inputs.any (·.child == c)
    | none => false
  let entry (code flag : Nat) : Nat :=
    s.entryAt (locSys 0 0x1200000) % 512 * 2 ^ 23 + n.1.val * 2 ^ 22 + code * 2 ^ 13 + flag * 2 ^ 12
  if st.past seq then ([], s)
  else
    let (a, s) := if isPort e.child1 && !has 1 then s.portReport (entry e.child1 1) else ([], s)
    let (b, s) := if isPort e.child2 && !has 2 then s.portReport (entry e.child2 1) else ([], s)
    ((if e.own && !has 0 then [entry n.2 0] else []) ++ a ++ b, s)

/-- The list entries of nodes, one after another. -/
def State.missingAll (s : State) (t : Fin 256) (seq : Nat) : List (DieId × Nat) → List Nat × State
  | [] => ([], s)
  | n :: ns =>
    let (a, s) := s.missingAt t seq n
    let (b, s) := s.missingAll t seq ns
    (a ++ b, s)

/-- The missing-input list written and the sequence marked failed at every node that answered; the number found. -/
def State.probe (s : State) (t : Fin 256) (d : DieId) (site seq : Nat) : Nat × State :=
  let nodes := s.probeNodes t [] [(d, site)] 1024
  let (found, s) := s.missingAll t seq nodes
  let miss := found.mergeSort fun a b => a ≤ b
  let bytes := leBytes 8 miss.length ++ (miss.take 511).flatMap (leBytes 8)
  let s := s.writeAt .device none (locShared (s.treeHeader d t 1 % 2 ^ 32)) bytes
  let mark (s : State) (n : DieId × Nat) : State :=
    let st := s.nodeState n.1 t n.2
    let st : Node := { st with
      opens := st.opens.filter (·.seq != seq), last := if st.past seq then st.last else some seq }
    s.setNode n.1 (if n = (d, site) then { st with failed := (seq, miss.length) :: st.failed } else st)
  (miss.length, nodes.foldl mark s)

/-- The reduction-timeout fault of a c.rrecv (R344). -/
def reductionFlt (t : Fin 256) (seq n : Nat) : Flt :=
  { kind := .reduction, code := BitVec.ofNat 32 n, addr := 0xF000000001000000 + BitVec.ofNat 64 (2048 * t.val),
    info := BitVec.ofNat 64 seq, info2 := BitVec.ofNat 64 t.val }

end Sys2Proof.Machine
end

