-- ==== Sys2Proof/Machine/CopyUnit.lean ====
section
/-! DEFINITION. The copy engine's accesses (R146, R151) and the units of its operations (R152-R160, R343), as the running
text, a command queue and a segment copy perform them. -/

namespace Sys2Proof.Machine

/-! ## Who performs a unit -/

/-- For whom a copy engine works: its core, the domain and mode of the access checks, whether its reads and writes are the
text's own (the C engine's), the serial of the cell whose published buffers it reaches as their owner, and what its writes to a
peer carry (R153, R335): the count of the operation, or the number of the command queue, or 4 for a segment copy, and the barrier. -/
structure Agent where
  core : CoreId
  domain : BitVec 16
  supv : Bool
  text : Bool
  who : Option Nat
  seq : Nat := 0
  bar : W32 := 0
  /-- The address of the text's word. -/
  pc : Word := 0

/-- The C engine of the cell under the cursor. -/
def State.textAgent (s : State) : Agent :=
  { core := s.cur.core, domain := s.domain, supv := s.supv, text := true, who := s.me }

/-- The C engine of the cell, for an operation in flight. -/
def State.opAgent (s : State) (o : COp) : Agent := { s.textAgent with seq := o.seq, bar := o.f.f4, pc := o.path.pc }

/-- The observer that an agent is at an address (R242). -/
def Agent.obs (g : Agent) (p : Word) : Obs := if g.text then .engine g.core .C p else .die (dieOf g.core)

/-! ## Access checks (R146, R151) -/

/-- The core whose scratchpad an address of space 0x9 names, checked (R146). -/
def State.remotePad (s : State) (g : Agent) (p : Word) (n : Nat) (a : Acc) : Except Flt (Nat × State) :=
  let v := p.toNat
  let site := v / 2 ^ 21 % 256
  let off := v % 2 ^ 21
  let die : DieId := if v.testBit 29 then 1 else 0
  if v / 2 ^ 30 % 2 ^ 30 != 0 then .error (accFlt .protection 1 p a)
  else
    match coreAt die site with
    | none => .error (accFlt .protection 1 p a)
    | some k =>
      let core := s.cores[k]
      let st := core.cell.status
      if !core.enabled then .error (accFlt .protection 1 p a)
      else if 0x180000 < off + n then .error (accFlt .protection 3 p a)
      else if !g.supv && (st == .idle || core.cell.ident.domain != g.domain) then
        .error (accFlt .protection 4 p a)
      else .ok (locPad k off, s)

/-- The check of a range that lies in one 64 KiB unit, or in one structure outside space 0x0. -/
def State.pieceC (s : State) (g : Agent) (p : Word) (n : Nat) (a : Acc) : Except Flt (Nat × State) :=
  let off := offOf p
  match spaceOf p with
  | 0x8 => if 0x180000 < off + n then .error (accFlt .protection 3 p a) else .ok (locPad g.core off, s)
  | 0x9 => s.remotePad g p n a
  | 0xA =>
    if 0xC000000 < off + n then .error (accFlt .protection 3 p a)
    else do
      s.regionCheck g.domain g.supv off n (accFlt .protection 5 p a)
      .ok (locShared off, s)
  | 0x0 => s.translate (some g.core) (dieOf g.core) g.domain p a
  | _ => .error (accFlt .protection 1 p a)

/-- The check of n bytes from an address: locations and lengths of its pieces, in ascending order. The lowest failing
piece decides. -/
def State.rangeC (s : State) (g : Agent) (p : Word) (n : Nat) (a : Acc) : Nat → Except Flt (List (Nat × Nat) × State)
  | 0 => .ok ([], s)
  | fuel + 1 =>
    if n = 0 then .ok ([], s)
    else do
      let k := if spaceOf p = 0 || spaceOf p = 0xA then Nat.min n (65536 - p.toNat % 65536) else n
      let (x, s) ← s.pieceC g p k a
      let (rest, s) ← s.rangeC g (p + BitVec.ofNat 64 k) (n - k) a fuel
      .ok ((x, k) :: rest, s)

/-- The pieces of n bytes from an address. -/
def State.range (s : State) (g : Agent) (p : Word) (n : Nat) (a : Acc) : Except Flt (List (Nat × Nat) × State) :=
  s.rangeC g p n a (n / 65536 + 3)

/-- The bytes of checked pieces; an uncorrectable granule is the datapath-check fault. -/
def State.readPieces (s : State) (g : Agent) (p : Word) : List (Nat × Nat) → Except Flt (List Byte)
  | [] => .ok []
  | (x, n) :: rest =>
    match s.badAt (g.obs p) g.who x n with
    | some (d, gr) => .error (poisonFlt p d gr 1)
    | none => do
      let more ← s.readPieces g (p + BitVec.ofNat 64 n) rest
      .ok (s.readAt (g.obs p) g.who x n ++ more)

/-- The traffic of an agent's access to checked pieces (R312). -/
def State.touchPieces (s : State) (g : Agent) (ps : List (Nat × Nat)) : State :=
  ps.foldl (fun s x => s.touch g.core g.domain x.1 x.2) s

/-- n bytes read from an address; what the text reads of a peer is a receipt (R351). -/
def State.readC (s : State) (g : Agent) (p : Word) (n : Nat) : Except Flt (List Byte × State) := do
  let (ps, s) ← s.range g p n .load
  let bs ← s.readPieces g p ps
  let s := s.touchPieces g ps
  .ok (bs, if g.text then ps.foldl (fun s x => s.peerReceipt .C x.1) s else s)

/-- A chunk that goes to a peer waits for its acknowledgement, with the bytes that leave its barrier then (R153, R335): the
text's is performed at cell scope and is a send, a command's and a segment copy's at die scope. -/
def State.peerChunk (s : State) (g : Agent) (c : BitVec 12) (p : Word) (x : Nat) (bs : List Byte) : State :=
  let serial := if g.text then s.cell.ident.serial else 0
  let first := s.nextPart serial .C g.seq
  let s := ((pieces p x bs (bs.length + 1)).zipIdx first).foldl (fun (s : State) (q, i) =>
    let s := s.markWritten g.who q.2.1
    { s with stores := s.stores ++
      [{ core := g.core, serial := serial, eng := .C, seq := g.seq, part := i, addr := q.1, loc := s.land g.who q.2.1, bytes := q.2.2,
         level := if g.text then 1 else 2, pc := g.pc }] }) s
  let s := if g.text then s.send .C else s
  { s with peerStores := s.peerStores ++
    [{ channel := c, core := g.core, serial := serial, eng := .C, seq := g.seq, addr := p, len := bs.length, bar := g.bar,
       charge := 0, who := g.who, pc := g.pc }] }

/-- Bytes written to checked pieces: performed at every scope, but for those that go to a peer. -/
def State.writePieces (s : State) (g : Agent) (p : Word) (bs : List Byte) : List (Nat × Nat) → State
  | [] => s
  | (x, n) :: rest =>
    let b := bs.take n
    let s := match peerChannel x with
      | none => s.writeAt (g.obs p) g.who x b
      | some c => s.peerChunk g c p x b
    let s := s.touch g.core g.domain x n
    s.writePieces g (p + BitVec.ofNat 64 n) (bs.drop n) rest

/-- The unacknowledged chunks that an agent's operation has written to peers. -/
def Agent.wrote (g : Agent) (serial : Nat) (w : PeerStore) : Bool :=
  w.core == g.core && w.eng == .C && w.seq == g.seq && w.serial == serial

/-- The last element of a list that satisfies a test, changed. -/
def changeLast {α : Type} (sel : α → Bool) (f : α → α) (l : List α) : List α :=
  match l.reverse.findIdx? sel with
  | none => l
  | some i => l.modify (l.length - 1 - i) f

/-- Bytes that a unit delivered leave its barrier once that unit and the earlier ones are performed at the barrier's scope (R153):
at once, or with the acknowledgement of the last chunk that the operation wrote to a peer. The serial is that of the chunks. -/
def State.deliveredBy (s : State) (serial : Nat) (g : Agent) (n : Nat) : State :=
  let mine := g.wrote serial
  if s.peerStores.any mine then
    { s with peerStores := changeLast mine (fun w => { w with charge := w.charge + n }) s.peerStores }
  else s.pendAdd g.who g.bar (-(n : Int))

/-- Bytes that a unit of the text delivered leave its barrier (R153). -/
def State.delivered (s : State) (g : Agent) (n : Nat) : State := s.deliveredBy s.cell.ident.serial g n

/-- An access of an agent to n bytes from an address waits, because a page of them is reached through a channel that is draining
(R336). -/
def State.behindDrain (s : State) (g : Agent) (p : Word) (n : Nat) : Bool :=
  !s.draining.isEmpty && n != 0 && spaceOf p == 0 && (List.range (n / 65536 + 2)).any fun i =>
    match s.lookupPage g.core g.domain ((p.toNat + Nat.min (65536 * i) (n - 1)) % 2 ^ 57) with
    | none => false
    | some x => match peerChannel x with
      | none => false
      | some c => s.draining.any fun d => d.1 == c

/-- Bytes written from an address, after the whole range is checked. -/
def State.writeC (s : State) (g : Agent) (p : Word) (bs : List Byte) : Except Flt State := do
  let (ps, s) ← s.range g p bs.length .store
  .ok (s.writePieces g p bs ps)

/-! ## Operations (R152, R155, R157, R159, R343) -/

/-- An address plus a number of bytes. -/
def plus (p : Word) (n : Nat) : Word := p + BitVec.ofNat 64 n

/-- Bytes of a c.conv source element. -/
def srcBytes : Ty → Nat
  | .f32 => 4
  | _ => 2

/-- The bytes an operation writes, which its barrier is charged (R153, R157, R343). -/
def State.opBytes (s : State) (g : Agent) (k : CKind) (f : CFields) : Nat :=
  match k with
  | .copy | .fill => f.f3.toNat
  | .gath | .scat => f.f5.toNat * f.f6.toNat
  | .conv _ => imageBytes f.f5.toNat f.f3.toNat + 64
  | .drain => 0
  | .drainSel => 16 + 8 * (f.f7.toNat + 1)
  | .rsend | .rrecv => 4 * s.treeElems (Fin.ofNat 256 f.f5.toNat) (dieOf g.core)

/-- The shape fault of a field (R152). -/
def fieldBad (n : Nat) : Except Flt Unit := .error (Flt.mk' .shape (0x100 + n))

/-- Two ranges share a byte of one space (R152). -/
def sameBytes (a : Word) (na : Nat) (b : Word) (nb : Nat) : Bool :=
  na != 0 && nb != 0 && spaceOf a == spaceOf b && a.toNat < b.toNat + nb && b.toNat < a.toNat + na

/-- The alignment fault at issue of an operand that an access to an address has (R155, R290). -/
def misaligned (p : Word) (a : Acc) : Except Flt Unit := .error (accFlt .alignment 0 p a)

/-- An operand must be a multiple of a size. -/
def aligned (p : Word) (n : Nat) (a : Acc) : Except Flt Unit := if p.toNat % n != 0 then misaligned p a else .ok ()

/-- The address in space 0x8 of an index (R159). -/
def indexAddr (f : CFields) (i : Nat) : Word := 0x8000000000000000 + f.f3.setWidth 64 + BitVec.ofNat 64 (4 * i)

/-- The address of the indexed end of a gather or a scatter's element (R159). -/
def farAddr (f : CFields) (scatter : Bool) (ix : Nat) : Word := (if scatter then f.f1 else f.f2) + BitVec.ofNat 64 ix <<< f.f7.toNat

/-- The packed range of a gather or a scatter meets one of its indexed elements, as the index list stands (R152; log entry 7). -/
def State.listOverlap (s : State) (g : Agent) (scatter : Bool) (f : CFields) : Bool :=
  let n := f.f6.toNat
  let packed := if scatter then f.f2 else f.f1
  match s.readC g (indexAddr f 0) (4 * f.f5.toNat) with
  | .error _ => false
  | .ok (bs, _) => (List.range f.f5.toNat).any fun i =>
    sameBytes packed (n * f.f5.toNat) (farAddr f scatter (leNat ((bs.drop (4 * i)).take 4))) n

/-- The checks of an operation's fields at issue: in ascending order, BAR, the tiles and the overlap, then alignment
(R152, R155, R157, R159); c.rsend and c.rrecv check in the order of R343. -/
def State.fieldCheck (s : State) (g : Agent) (direct : Bool) (k : CKind) (f : CFields) : Except Flt Unit := do
  let bar : Except Flt Unit := if entryBad f.f4 true then fieldBad 4 else .ok ()
  match k with
  | .copy =>
    bar
    if 4 < f.f5.toNat || (f.f5 != 0 && spaceOf f.f1 != 0xA) then fieldBad 5
    if 1 < f.f6.toNat then fieldBad 6
    if sameBytes f.f1 f.f3.toNat f.f2 f.f3.toNat then fieldBad 0
    let a := if direct then 64 else 4
    aligned f.f1 a .store
    aligned f.f2 a .load
    if f.f3.toNat % 4 != 0 then misaligned f.f1 .store
  | .fill =>
    bar
    aligned f.f1 (if direct then 64 else 8) .store
    if f.f3.toNat % 8 != 0 then misaligned f.f1 .store
  | .conv t =>
    bar
    if 27 < f.f5.toNat then fieldBad 5
    if sameBytes f.f1 (imageBytes f.f5.toNat f.f3.toNat + 64) f.f2 (f.f3.toNat * srcBytes t) then fieldBad 0
    aligned f.f1 64 .store
    aligned f.f2 (srcBytes t) .load
    if f.f3 == 0 || f.f3.toNat % 32 != 0 then misaligned f.f1 .store
  | .gath | .scat =>
    bar
    if f.f5 == 0 then fieldBad 5
    if f.f6 == 0 || f.f6.toNat % 32 != 0 || 65504 < f.f6.toNat then fieldBad 6
    if 1 < f.f8.toNat then fieldBad 8
    if s.listOverlap g (k == .scat) f then fieldBad 0
    aligned f.f1 32 .store
    aligned f.f2 32 .load
    aligned (indexAddr f 0) 4 .load
  | .drain =>
    if 63 < f.f2.toNat then fieldBad 2
    if f.f3 == 0 || 64 < f.f3.toNat then fieldBad 3
    bar
    if 1 < f.f5.toNat then fieldBad 5
    if 64 < f.f2.toNat + f.f3.toNat then fieldBad 0
    aligned f.f1 64 .store
  | .drainSel =>
    if 2 ^ 32 < f.f2.toNat + 1024 * f.f6.toNat then fieldBad 2
    match FFmt.f32.decode f.f3.toNat with
    | .real false m _ => if m = 0 then fieldBad 3
    | _ => fieldBad 3
    bar
    if 63 < f.f5.toNat then fieldBad 5
    if f.f6 == 0 || 64 < f.f6.toNat then fieldBad 6
    if 3 < f.f8.toNat then fieldBad 8
    if 64 < f.f5.toNat + f.f6.toNat then fieldBad 0
    aligned f.f1 64 .store
  | .rsend | .rrecv =>
    let root := k == .rrecv
    if 2 ^ 32 ≤ f.f2.toNat then fieldBad 2
    bar
    s.treeCheck f root (dieOf g.core) (siteOf g.core) g.domain g.supv
    aligned f.f1 4 (if root then .store else .load)
    let _ ← s.range g f.f1 (s.opBytes g k f) (if root then .store else .load)

/-- The checks of an operation at issue: its fields, and the region of its barrier object (R148). -/
def State.opCheck (s : State) (g : Agent) (direct : Bool) (k : CKind) (f : CFields) : Except Flt Unit := do
  s.fieldCheck g direct k f
  s.entryCheck g.domain g.supv f.f4

/-- What one unit leaves: the state, the progress, the bytes delivered, which leave the barrier's pending bytes, whether
the operation is complete, the bytes that a join charges to the barrier first (R156) and those of them that leave it because the tiles
have been read (R157), and the source bytes kept (R77). -/
structure UnitDone where
  s : State
  p : Nat
  bytes : Nat
  last : Bool
  charge : Nat := 0
  read : Nat := 0
  kept : List Byte := []

/-- The stretch of a chunk: its offset and length (R153). -/
def chunk (len p : Nat) : Nat × Nat := (4096 * p, Nat.min 4096 (len - 4096 * p))

/-- upd: a bank update's new element (R155). -/
def updOf (u : Nat) (old new : Nat) : Nat :=
  match u with
  | 1 => (old + new) % 2 ^ 32
  | 2 => FFmt.f32.rne (Val.add false (FFmt.f32.decode old) (FFmt.f32.decode new))
  | 3 => FFmt.f32.rne (Val.max (FFmt.f32.decode old) (FFmt.f32.decode new))
  | _ => if sextNat 32 old < sextNat 32 new then new else old

/-- Bank updates of n elements of 4 bytes in ascending order, each atomic at the bank, after every write that has its place there
(R149, R155). -/
def State.updates (s : State) (g : Agent) (u : Nat) (p : Word) (bs : List Byte) : Nat → Except Flt State
  | 0 => .ok s
  | n + 1 => do
    let (x, s) ← s.pieceC g p 4 .store
    let s := s.settle (g.obs p) (s.land g.who x) 4
    let old ← s.readPieces g p [(x, 4)]
    let s := s.writePieces g p (leBytes 4 (updOf u (leNat old) (leNat (bs.take 4)))) [(x, 4)]
    s.updates g u (p + 4) (bs.drop 4) n

/-- A trailer-check fault of a tile whose bytes start in a piece of memory (R78, R297). -/
def trailerFlt (p : Word) (ps : List (Nat × Nat)) : Flt := { kind := .trailer, code := 0, addr := p, watch := ps.head? }

/-- A chunk of c.copy; with TRL the whole source is read once and checked before the first (log entry 7). -/
def State.copyUnit (s : State) (g : Agent) (f : CFields) (p : Nat) : Except Flt UnitDone := do
  let len := f.f3.toNat
  let s ← if f.f6 == 1 && p == 0 then do
      let (ps, s) ← s.range g f.f2 len .load
      let img ← s.readPieces g f.f2 ps
      if len < 64 || !trailerOk (img.take (len - 64)) (BitVec.ofNat 512 (leNat (img.drop (len - 64)))) none then
        .error (trailerFlt f.f2 ps)
      .ok (s.touchPieces g ps)
    else .ok s
  let (off, n) := chunk len p
  let (bs, s) ← s.readC g (plus f.f2 off) n
  let (_, s) ← s.range g (plus f.f1 off) n .store
  let s ← if f.f5 == 0 then s.writeC g (plus f.f1 off) bs else s.updates g f.f5.toNat (plus f.f1 off) bs (n / 4)
  .ok { s := s, p := p + 1, bytes := n, last := len ≤ 4096 * (p + 1) }

/-- A chunk of c.fill. -/
def State.fillUnit (s : State) (g : Agent) (f : CFields) (p : Nat) : Except Flt UnitDone := do
  let len := f.f3.toNat
  let (off, n) := chunk len p
  let s ← s.writeC g (plus f.f1 off) ((List.replicate ((n + 7) / 8) (leBytes 8 f.f2.toNat)).flatten.take n)
  .ok { s := s, p := p + 1, bytes := n, last := len ≤ 4096 * (p + 1) }

/-- The values of source elements (R76). -/
def srcVals (t : Ty) (bs : List Byte) : List Val :=
  let w := srcBytes t
  (List.range (bs.length / w)).map fun i => t.val (BitVec.ofNat 32 (leNat ((bs.drop (w * i)).take w)))

/-- Blocks of 32 source elements converted one after another. -/
def quantAll (c : Nat) (vs : List Val) : Nat → List Nat × List Nat × Events
  | 0 => ([], [], Events.none)
  | n + 1 =>
    let (a, x, e) := quant32 c (vs.take 32)
    let (b, y, f) := quantAll c (vs.drop 32) n
    (a ++ b, x ++ y, e.add f)

/-- The largest decoded magnitude of converted elements with their scales, NaN left out (R77). -/
def maxMag (c : Nat) (codes scales : List Nat) : Val :=
  let b := blockSize c
  amaxInf ((List.range codes.length).map fun i =>
    let v := elemVal c (codes.getD i 0)
    if b = 0 then v else v.mul (scaleVal c (scales.getD (i / b) 0)))
where
  /-- The largest magnitude, infinities included. -/
  amaxInf (vs : List Val) : Val :=
    vs.foldl (fun a v => if v.isNan then a else if a.lt v.abs then v.abs else a) .zero

/-- 32 elements of c.conv; the last unit also writes the padding and the trailer (R76, R77). The source is read once, in order; an
operation that resumes keeps the source bytes that it has read, and reads those below a progress that a handler has raised
(log entry 7). -/
def State.convUnit (s : State) (g : Agent) (t : Ty) (f : CFields) (kept : List Byte) (p : Nat) : Except Flt UnitDone := do
  let c := f.f5.toNat
  let n := f.f3.toNat
  let w := srcBytes t
  let kept := kept.take (w * p)
  let (more, s) ← s.readC g (plus f.f2 kept.length) (w * (p + 32) - kept.length)
  let kept := kept ++ more
  let (codes, scales, _) := quant32 c (srcVals t (kept.drop (w * p)))
  let el := packBytes c codes
  let scaleOff := pad64 (elemBytes c n)
  let s ← s.writeC g (plus f.f1 (elemBytes c p)) el
  let s ← s.writeC g (plus f.f1 (scaleOff + scaleCount c p)) (scales.map fun x => BitVec.ofNat 8 x)
  if p + 32 < n then .ok { s := s, p := p + 32, bytes := el.length + scales.length, last := false, kept := kept }
  else
    let gap := List.replicate (scaleOff - elemBytes c n) (0 : Byte)
    let sc := scaleCount c n
    let tail := List.replicate (pad64 sc - sc) (0 : Byte)
    let s ← s.writeC g (plus f.f1 (elemBytes c n)) gap
    let s ← s.writeC g (plus f.f1 (scaleOff + sc)) tail
    let (codes, scales, ev) := quantAll c (srcVals t kept) (n / 32)
    let img := packBytes c codes ++ gap ++ scales.map (fun x => BitVec.ofNat 8 x) ++ tail
    let cap (v : Nat) : W32 := BitVec.ofNat 32 (Nat.min v (2 ^ 32 - 1))
    let tr := trailer (crc32c img) (BitVec.ofNat 32 img.length) f.f3 (BitVec.ofNat 8 c) (cap ev.nan) (cap ev.sat)
      (BitVec.ofNat 32 (FFmt.f32.rne (maxMag c codes scales)))
    let s ← s.writeC g (plus f.f1 (imageBytes c n)) (recordBytes tr)
    .ok { s := s, p := n, bytes := el.length + scales.length + gap.length + tail.length + 64, last := true }

/-- A fault of an element carries its number (R160, R290). -/
def atElement {α : Type} (i : Nat) (r : Except Flt α) : Except Flt α :=
  match r with
  | .ok a => .ok a
  | .error f =>
    match f.kind with
    | .translation | .protection | .alignment => .error { f with info := BitVec.ofNat 64 i }
    | _ => .error f

/-- An element of c.gath or c.scat (R159): they move in ascending order, their addresses are not checked for alignment (log entry 7). -/
def State.elementUnit (s : State) (g : Agent) (scatter : Bool) (f : CFields) (p : Nat) : Except Flt UnitDone :=
  atElement p do
    let (ix, s) ← s.readC g (indexAddr f p) 4
    let far := farAddr f scatter (leNat ix)
    let n := f.f6.toNat
    let near := n * p
    let (src, dst) := if scatter then (plus f.f2 near, far) else (far, plus f.f1 near)
    let (bs, s) ← s.readC g src n
    let s ← s.writeC g dst bs
    .ok { s := s, p := p + 1, bytes := n, last := f.f5.toNat ≤ p + 1 }

/-- The bytes of an accumulator tile from an element: row 0 first, four bytes each (R155). -/
def tileBytes (t : Tile) (p : Nat) : List Byte := (t.toList.drop p).flatMap fun w => leBytes 4 w.toNat

/-- An accumulator tile of the cell, by its number modulo 64. -/
def State.accTile (s : State) (n : Nat) : Tile := s.cell.acc[n % 64]'(Nat.mod_lt _ (by decide))

/-- An accumulator tile of the cell written. -/
def State.setAcc (s : State) (n : Nat) (t : Tile) : State :=
  s.setCell { s.cell with acc := s.cell.acc.set (n % 64) t (Nat.mod_lt _ (by decide)) }

/-- A tile of c.drain from its next element: the join's charge, the bytes, and the zeroing (R155, R156). Where the tile's
bytes cannot all be written, the next 64 of them are, so that the elements below the first failing ones are delivered. -/
def State.drainUnit (s : State) (g : Agent) (f : CFields) (p : Nat) : Except Flt UnitDone :=
  let t := p / 1024
  let n := f.f2.toNat + t
  let charge := if p % 1024 = 0 then 4096 else 0
  let dst := plus f.f1 (4 * p)
  let bs := tileBytes (s.accTile n) (p % 1024)
  match s.writeC g dst bs with
  | .ok s =>
    let s := if f.f5 == 1 then s.setAcc n Tile.zero else s
    .ok { s := s, p := 1024 * (t + 1), bytes := bs.length, last := f.f3.toNat ≤ t + 1, charge := charge }
  | .error e =>
    if bs.length ≤ 64 then .error e
    else do
      let s ← s.writeC g dst (bs.take 64)
      .ok { s := s, p := p + 16, bytes := 64, last := false, charge := charge }

/-! ## Selecting over logits (R157, R158) -/

/-- The running values of c.drain.sel: maximum, sum, NaN count and candidates, the greatest first. -/
structure Sel where
  m : Val
  sum : Val
  nan : Nat
  cand : List (Val × Nat)

/-- E(y): exp(y / TEMP) rounded to f32 (R157). -/
def selE (temp y : Val) : Val :=
  match y with
  | .inf true => .zero
  | y => FFmt.f32.near ((y.div temp).exp)

/-- A candidate stands before another (R157). -/
def candBefore (a b : Val × Nat) : Bool := b.1.lt a.1 || (!a.1.lt b.1 && a.2 < b.2)

/-- A candidate inserted in its place. -/
def insertCand (x : Val × Nat) : List (Val × Nat) → List (Val × Nat)
  | [] => [x]
  | y :: ys => if candBefore x y then x :: y :: ys else y :: insertCand x ys

/-- One element of the selection (R157). -/
def Sel.step (temp : Val) (st : Sel) (x : Val) (ix : Nat) : Sel :=
  if x.isNan then { st with nan := Nat.min (st.nan + 1) (2 ^ 32 - 1) }
  else
    let x := match x with
      | .inf false => FFmt.f32.decode 0x7F7FFFFF
      | x => x
    let st := if st.m.lt x then
        let sum := match st.m with
          | .inf true => Val.zero
          | m => FFmt.f32.near (st.sum.mul (selE temp (m.add false x.neg)))
        { st with m := x, sum := sum }
      else st
    let st := match x with
      | .inf _ => st
      | x => { st with sum := FFmt.f32.near (st.sum.add false (selE temp (x.add false st.m.neg))) }
    { st with cand := (insertCand (x, ix) st.cand).take st.cand.length }

/-- The selection over the elements of a tile. -/
def Sel.tile (temp : Val) (st : Sel) (t : Tile) (ix : Nat) : Sel :=
  (t.toList.foldl (fun (a : Sel × Nat) w => (a.1.step temp (FFmt.f32.decode w.toNat) a.2, a.2 + 1)) (st, ix)).1

/-- The selection over n tiles. -/
def State.selTiles (s : State) (temp : Val) (st : Sel) (tile ix : Nat) : Nat → Sel
  | 0 => st
  | n + 1 => s.selTiles temp (st.tile temp (s.accTile tile) ix) (tile + 1) (ix + 1024) n

/-- The bytes of a completion record (R158). -/
def selRecord (k : Nat) (st : Sel) : List Byte :=
  let code (v : Val) : Nat := FFmt.f32.rne v
  leBytes 4 (code st.m) ++ leBytes 4 (code st.sum) ++ leBytes 4 st.nan ++ [BitVec.ofNat 8 k, 1, 0, 0]
    ++ st.cand.flatMap fun c => leBytes 4 (code c.1) ++ leBytes 4 c.2

/-- The running values that a record holds (R158). -/
def selOf (k : Nat) (bs : List Byte) : Sel :=
  let at4 (i : Nat) : Nat := leNat ((bs.drop i).take 4)
  { m := FFmt.f32.decode (at4 0), sum := FFmt.f32.decode (at4 4), nan := at4 8,
    cand := (List.range k).map fun j => (FFmt.f32.decode (at4 (16 + 8 * j)), at4 (20 + 8 * j)) }

/-- Tiles zeroed. -/
def State.zeroTiles (s : State) (n : Nat) : Nat → State
  | 0 => s
  | c + 1 => (s.setAcc n Tile.zero).zeroTiles (n + 1) c

/-- c.drain.sel as one unit (R157): the tiles' bytes are charged at the join and subtracted when they have been read,
within the unit. -/
def State.drainSelUnit (s : State) (g : Agent) (f : CFields) : Except Flt UnitDone := do
  let k := f.f7.toNat + 1
  let temp := FFmt.f32.decode f.f3.toNat
  let start : Sel := { m := .inf true, sum := .zero, nan := 0, cand := List.replicate k (.inf true, 0xFFFFFFFF) }
  let (st, s) ← if f.f8.getLsbD 1 then do
      let (bs, s) ← s.readC g f.f1 (16 + 8 * k)
      if (bs.getD 13 0) != 1 || (bs.getD 12 0).toNat != k then .error { Flt.mk' .shape 0x108 with addr := f.f1 }
      .ok (selOf k bs, s)
    else (.ok (start, s) : Except Flt (Sel × State))
  let n := f.f5.toNat
  let nt := f.f6.toNat
  let st := s.selTiles temp st n f.f2.toNat nt
  let s ← s.writeC g f.f1 (selRecord k st)
  let s := if f.f8.getLsbD 0 then s.zeroTiles n nt else s
  .ok { s := s, p := 1024 * nt, bytes := 16 + 8 * k, last := true, charge := 4096 * nt, read := 4096 * nt }

/-! ## Tree operations (R343) -/

/-- The f32 elements of bytes. -/
def f32List (bs : List Byte) (n : Nat) : List W32 :=
  (List.range n).map fun i => BitVec.ofNat 32 (leNat ((bs.drop (4 * i)).take 4))

/-- c.rsend: the values are delivered to the cell's node as its own input; the delivery is a send (R351). -/
def State.rsendUnit (s : State) (g : Agent) (f : CFields) : Except Flt UnitDone := do
  let t : Fin 256 := Fin.ofNat 256 f.f5.toNat
  let d := dieOf g.core
  let n := s.treeElems t d
  let (bs, s) ← s.readC g f.f1 (4 * n)
  let s := s.send .C
  let s := s.nodeInput d t (siteOf g.core) 0 f.f2.toNat (f32List bs n) (s.run .C).beat
  .ok { s := s, p := 1, bytes := 4 * n, last := true }

/-- c.rrecv with its result: the values are written, and the delivery is a receipt (R351). -/
def State.rrecvUnit (s : State) (g : Agent) (f : CFields) : Except Flt UnitDone := do
  let t : Fin 256 := Fin.ofNat 256 f.f5.toNat
  let node := s.nodeState (dieOf g.core) t (siteOf g.core)
  match node.failed.find? fun p => p.1 == f.f2.toNat with
  | some p => .error (reductionFlt t p.1 p.2)
  | none =>
    match node.resultOf f.f2.toNat with
    | none => .ok { s := s, p := 0, bytes := 0, last := false }
    | some (vals, beat) =>
      let s ← s.writeC g f.f1 (vals.flatMap fun w => leBytes 4 w.toNat)
      let s := s.setNode (dieOf g.core) (node.deliver f.f2.toNat)
      .ok { s := s.receive .C beat Known.none, p := 1, bytes := 4 * vals.length, last := true }

/-- The units of an operation, as its progress counts them. -/
def opUnits (k : CKind) (f : CFields) : Nat :=
  match k with
  | .copy => if f.f6 == 1 then Nat.max 1 ((f.f3.toNat + 4095) / 4096) else (f.f3.toNat + 4095) / 4096
  | .fill => (f.f3.toNat + 4095) / 4096
  | .gath | .scat => f.f5.toNat
  | .conv _ => f.f3.toNat
  | .drain => 1024 * f.f3.toNat
  | .drainSel => 1024 * f.f6.toNat
  | .rsend | .rrecv => 1

/-- The ranges of memory that the next unit of an operation reads and writes. -/
def State.unitRanges (s : State) (g : Agent) (k : CKind) (f : CFields) (p : Nat) : List (Word × Nat) :=
  let (off, n) := chunk f.f3.toNat p
  match k with
  | .copy => if f.f6 == 1 && p == 0 then [(f.f2, f.f3.toNat), (f.f1, n)] else [(plus f.f2 off, n), (plus f.f1 off, n)]
  | .fill => [(plus f.f1 off, n)]
  | .conv t => [(f.f2, f.f3.toNat * srcBytes t), (f.f1, imageBytes f.f5.toNat f.f3.toNat + 64)]
  | .gath | .scat =>
    match s.readC g (indexAddr f p) 4 with
    | .error _ => []
    | .ok (ix, _) => [(farAddr f (k == .scat) (leNat ix), f.f6.toNat), (plus (if k == .scat then f.f2 else f.f1) (f.f6.toNat * p), f.f6.toNat)]
  | .drain => [(plus f.f1 (4 * p), 4096 - 4 * p % 4096)]
  | .drainSel => [(f.f1, 16 + 8 * (f.f7.toNat + 1))]
  | .rsend | .rrecv => [(f.f1, s.opBytes g k f)]

/-- The next unit of an operation waits for the drain of a channel (R336). -/
def State.unitHeld (s : State) (g : Agent) (k : CKind) (f : CFields) (p : Nat) : Bool :=
  !s.draining.isEmpty && (s.unitRanges g k f p).any fun r => s.behindDrain g r.1 r.2

/-- The next unit of an operation; one that has none left is complete. -/
def State.opUnit (s : State) (g : Agent) (k : CKind) (f : CFields) (kept : List Byte) (p : Nat) : Except Flt UnitDone :=
  if opUnits k f ≤ p then .ok { s := s, p := p, bytes := 0, last := true }
  else
  match k with
  | .copy => s.copyUnit g f p
  | .fill => s.fillUnit g f p
  | .gath => s.elementUnit g false f p
  | .scat => s.elementUnit g true f p
  | .conv t => s.convUnit g t f kept (p / 32 * 32)
  | .drain => s.drainUnit g f p
  | .drainSel => s.drainSelUnit g f
  | .rsend => s.rsendUnit g f
  | .rrecv => s.rrecvUnit g f

/-- Bytes delivered by the units below p, as the charge of 64-byte pieces counts them (R312). -/
def doneBytes (k : CKind) (f : CFields) (p : Nat) : Nat :=
  match k with
  | .copy | .fill => Nat.min f.f3.toNat (4096 * p)
  | .gath | .scat => f.f6.toNat * p
  | .conv _ =>
    if f.f3.toNat ≤ p then imageBytes f.f5.toNat f.f3.toNat + 64 else elemBytes f.f5.toNat p + scaleCount f.f5.toNat p
  | .drain => 4 * p
  | .drainSel | .rsend | .rrecv => 0

/-- The bytes of an operation's next unit, as its turn on the engine counts them (R133). -/
def State.unitSize (s : State) (g : Agent) (k : CKind) (f : CFields) (p : Nat) : Nat :=
  match k with
  | .copy | .fill => (chunk f.f3.toNat p).2
  | .gath | .scat => f.f6.toNat
  | .conv t => 32 * srcBytes t
  | .drain => 4096
  | .drainSel => 4096 * f.f6.toNat
  | .rsend | .rrecv => s.opBytes g k f

/-- The energy class of an operation (R312). -/
def CKind.cls : CKind → Fin 16
  | .conv _ | .drain | .drainSel => 4
  | _ => 3

end Sys2Proof.Machine
end

