-- ==== Sys2Proof/Machine/COps.lean ====
section
/-! DEFINITION. The C engine: issuing an operation, performing its units, stopping it (R151-R160), windows (R161-R168),
c.pfx (R170) and c.mbx (R360). -/

namespace Sys2Proof.Machine

/-- A free value is drawn. -/
def State.draw (s : State) : Word × State := (Config.freeWord s.freeCtr, { s with freeCtr := s.freeCtr + 1 })

/-- A window that is being fetched. -/
def Window.busy (w : Window) : Bool := !w.missing.isEmpty || !w.owed.isEmpty

/-- C's operations in flight, window fetches included (R151). -/
def State.cBusy (s : State) : Nat := s.flight.cops.length + (s.roll.win.toList.map fun w => w.owed.length).sum

/-- C holds 16 operations: the next one stalls (R151). -/
def State.cRoom (s : State) : Res Unit := if 16 ≤ s.cBusy then .error (.wait .unit none) else .ok ()

/-! ## Posts (R126, R127) -/

/-- C's accesses up to a count are not all performed. -/
def State.cOut (s : State) (seq : Nat) : Bool :=
  s.flight.cops.any (·.seq ≤ seq) || s.roll.win.toList.any fun w => w.owed.any (·.seq ≤ seq)

/-- C's posts whose accesses have been performed are made, oldest first. -/
def State.payPosts (s : State) : List CPost → State
  | [] => s.setFlight { s.flight with cposts := [] }
  | p :: ps =>
    if s.cOut p.seq then s.setFlight { s.flight with cposts := p :: ps }
    else (s.makePosts .C (postsOf .C p.posts)).payPosts ps

/-- C's posts made as far as its accesses allow. -/
def State.payC (s : State) : State := s.payPosts s.flight.cposts

/-- The posts of a word of C wait for C's accesses up to a count, behind the posts of earlier words. -/
def State.postC (s : State) (seq : Nat) (t : Tok) : State :=
  if (postsOf .C t).isEmpty then s
  else
    let before (p : CPost) : Bool := p.seq ≤ seq
    let l := s.flight.cposts
    (s.setFlight { s.flight with cposts := l.takeWhile before ++ [{ seq := seq, posts := t }] ++ l.dropWhile before }).payC

/-! ## Issuing an operation -/

/-- CPROG (R171) when C issues an operation at an address: the progress it resumes from, where it does. -/
def State.resumesAt (s : State) (pc : Word) : Option Nat :=
  let m := s.misc
  if m.cprogValid && m.cprogPc == epcOf pc && !s.flight.cops.any (·.path.pc == pc) then some m.cprogP.toNat else none

/-- C issues a word at an address: VALID stays only where it is the kept one (R171), and what is known of the stopped operation with
it. -/
def State.clearProg (s : State) (pc : Word) : State :=
  if s.misc.cprogPc == epcOf pc then s
  else (s.setMisc { s.misc with cprogValid := false }).setFlight { s.flight with stopped := none }

/-- A gather that posts once for each element (R159). -/
def COp.epost (o : COp) : Bool := o.kind == .gath && o.f.f8 != 0

/-- Bytes charged and not yet subtracted of an operation that resumes from p units (R153). -/
def State.leftAt (s : State) (k : CKind) (f : CFields) (p : Nat) : Nat :=
  match k with
  | .drain => if p % 1024 = 0 then 0 else 4096 - 4 * (p % 1024)
  | .drainSel | .rsend | .rrecv => s.opBytes s.textAgent k f
  | _ => s.opBytes s.textAgent k f - doneBytes k f p

/-- An operation of C issues (R151-R153): its operands, the seventeenth operation's wait, its checks, and its charge or
its resumption. C walks on; the operation's units follow. -/
def State.issueC (s : State) (t : Tok) (k : CKind) (direct : Bool) (uses : List (Fin 16 × Bool))
    (operands : State → Res (CFields × List (Fin 16 × QEntry) × State)) : Host.Outcome State Fault Refusal :=
  s.settleIssue .C do
    s.bindAll .C uses
    let path := s.path .C
    let (taken, s) ← s.takeTokens .C t
    let (f, popped, s) ← operands s
    s.cRoom
    liftFlt (s.opCheck s.textAgent direct k f)
    let resume := s.resumesAt path.pc
    let p := resume.getD 0
    let left := if resume.isSome then s.leftAt k f p else s.opBytes s.textAgent k f
    let kept := match resume, s.flight.stopped with
      | some _, some o => o.kept
      | _, _ => []
    let s ← if resume.isSome then .ok (s.setFlight { s.flight with stopped := none })
      else liftFlt ((s.clearProg path.pc).charged s.me f.f4 left)
    let s := s.countStore .C
    let o : COp :=
      { kind := k, f := f, p := p, left := left, path := path, popped := popped, taken := taken, eaten := [], wins := [], staged := 0,
        posts := t, since := s.now, seq := (s.run .C).issued, kept := kept, undo := s.cur.undo, behind := 0 }
    let s := (s.setFlight { s.flight with cops := s.flight.cops ++ [o] }).advance .C (s.nextPc .C)
    .ok (if o.epost then s else s.postC o.seq t)

/-- Template fields of zero. -/
def CFields.zero : CFields := ⟨0, 0, 0, 0, 0, 0, 0, 0⟩

/-- The uses of the two queues of a direct word. -/
def CForm.uses : CForm → List (Fin 16 × Bool)
  | .direct a b _ => QSrc.uses a ++ QSrc.uses b
  | .image _ => []

/-- The fields of a C word with two queues: popped, or the image's; `fill` places them. -/
def State.cForm (s : State) (o : CForm) (fill : Word → Word → BitVec 6 → CFields) :
    Res (CFields × List (Fin 16 × QEntry) × State) :=
  match o with
  | .image f => .ok (f, [], s)
  | .direct a b small => do
    let (x, p, s) ← s.qsrc .C a
    let (y, q, s) ← s.qsrc .C b
    .ok (fill x y small, q ++ p, s)

/-- The form is a direct word. -/
def CForm.isDirect : CForm → Bool
  | .direct .. => true
  | .image _ => false

/-- LEN of a direct c.copy or c.fill (R155): 64 to 4,096. -/
def lenOf (small : BitVec 6) : BitVec 32 := BitVec.ofNat 32 (64 * (small.toNat + 1))

/-- c.copy (R155). -/
def execCCopy (t : Tok) (o : CForm) (s : State) : Host.Outcome State Fault Refusal :=
  s.issueC t .copy (CForm.isDirect o) (CForm.uses o) fun s =>
    s.cForm o fun d src n => { CFields.zero with f1 := d, f2 := src, f3 := lenOf n }

/-- c.fill (R155). -/
def execCFill (t : Tok) (o : CForm) (s : State) : Host.Outcome State Fault Refusal :=
  s.issueC t .fill (CForm.isDirect o) (CForm.uses o) fun s =>
    s.cForm o fun d pat n => { CFields.zero with f1 := d, f2 := pat, f3 := lenOf n }

/-- c.conv (R76, R155) from elements of a type. -/
def State.conv (s : State) (ty : Ty) (t : Tok) (o : CForm) : Host.Outcome State Fault Refusal :=
  s.issueC t (.conv ty) (CForm.isDirect o) (CForm.uses o) fun s =>
    s.cForm o fun d src n => { CFields.zero with f1 := d, f2 := src, f3 := 1024, f5 := n.setWidth 16 }

/-- c.conv.FMT.f32 (R76, R155). -/
def execCConvF32 (t : Tok) (o : CForm) (s : State) : Host.Outcome State Fault Refusal := s.conv .f32 t o

/-- c.conv.FMT.bf16 (R76, R155). -/
def execCConvBf16 (t : Tok) (o : CForm) (s : State) : Host.Outcome State Fault Refusal := s.conv .bf16 t o

/-- c.conv.FMT.f16 (R76, R155). -/
def execCConvF16 (t : Tok) (o : CForm) (s : State) : Host.Outcome State Fault Refusal := s.conv .f16 t o

/-- c.drain (R155, R156). -/
def execCDrain (t : Tok) (o : CDrainForm) (s : State) : Host.Outcome State Fault Refusal :=
  match o with
  | .image f => s.issueC t .drain false [] fun s => .ok (f, [], s)
  | .direct n q => s.issueC t .drain true (QSrc.uses q) fun s => do
    let (d, p, s) ← s.qsrc .C q
    .ok ({ CFields.zero with f1 := d, f2 := n.setWidth 64, f3 := 1 }, p, s)

/-- An operation that has a template form only. -/
def State.imageC (s : State) (t : Tok) (k : CKind) (f : CFields) : Host.Outcome State Fault Refusal :=
  s.issueC t k false [] fun s => .ok (f, [], s)

/-- c.gath (R159). -/
def execCGath (t : Tok) (f : CFields) (s : State) : Host.Outcome State Fault Refusal := s.imageC t .gath f

/-- c.scat (R159). -/
def execCScat (t : Tok) (f : CFields) (s : State) : Host.Outcome State Fault Refusal := s.imageC t .scat f

/-- c.drain.sel (R157). -/
def execCDrainSel (t : Tok) (f : CFields) (s : State) : Host.Outcome State Fault Refusal := s.imageC t .drainSel f

/-- c.rsend (R343). -/
def execCRsend (t : Tok) (f : CFields) (s : State) : Host.Outcome State Fault Refusal := s.imageC t .rsend f

/-- c.rrecv (R343). -/
def execCRrecv (t : Tok) (f : CFields) (s : State) : Host.Outcome State Fault Refusal := s.imageC t .rrecv f

/-! ## Stopping operations (R153, R160, R283) -/

/-- A window of the cell replaced. -/
def State.setWin (s : State) (w : Fin 8) (x : Window) : State := s.setRoll { s.roll with win := s.roll.win.set w x }

/-- A window as it was before a word of C changed it; its held rows are fetched again (log entry 24). -/
def State.rewindWin (s : State) (p : Fin 8 × Window) : State :=
  let old := s.roll.win[p.1].owed.filter p.2.owed.contains
  let x := p.2.refetch s.now
  s.setWin p.1 { x with owed := old ++ x.owed }

/-- What an operation of C and the words behind it did goes back: popped values, tokens, windows, staged entries, and the template
that it amended. -/
def State.giveBack (s : State) (o : COp) : State :=
  let s := o.wins.foldl State.rewindWin ((s.unpop o.popped).untake o.taken)
  let s := s.setRoll { s.roll with staging := s.roll.staging.take (s.roll.staging.length - o.staged) }
  s.undoTemplate .C o.undo

/-- Operations given back newest first. -/
def State.giveBackAll (s : State) : List COp → State
  | [] => s
  | o :: os => (s.giveBackAll os).giveBack o

/-- C stands again at the word of its oldest operation, with the outcome bits it has consumed since; the posts of that word and of
the later ones are not made. -/
def State.backTo (s : State) (o : COp) : State :=
  let s := s.giveBackAll s.flight.cops
  let s := s.setPath .C { o.path with outs := o.eaten ++ (s.path .C).outs }
  s.setFlight { s.flight with cops := [], cposts := s.flight.cposts.filter fun p => p.seq < o.seq }

/-- Every operation of C after the oldest leaves its barrier (R283). -/
def State.dropLater (s : State) : State :=
  s.flight.cops.tail.foldl (fun s o => s.pendAdd s.me o.f.f4 (-(o.left : Int))) s

/-- C stops at a unit boundary: CPROG keeps the oldest operation's progress, and later ones issue afresh (R153, R171,
R283). -/
def State.stopC (s : State) : State :=
  match s.flight.cops with
  | [] => s
  | o :: _ =>
    let s := s.dropLater
    let s := s.setMisc { s.misc with
      cprogValid := true, cprogP := BitVec.ofNat 32 o.p, cprogPc := epcOf o.path.pc }
    let s := s.backTo o
    s.setFlight { s.flight with stopped := some o }

/-- A unit of C's oldest operation faults (R20, R153, R160). -/
def State.faultC (s : State) (f : Flt) : State :=
  match s.flight.cops, f.kind with
  | [], _ => s
  | _ :: _, .translation | _ :: _, .protection | _ :: _, .alignment => (s.stopC).takeFault .C f
  | o :: _, .trailer | o :: _, .datapath =>
    let s := s.setPath .C { o.path with outs := o.eaten ++ (s.path .C).outs }
    s.fault .C f
  | o :: _, _ =>
    let s := s.dropLater.pendAdd s.me o.f.f4 (-(o.left : Int))
    let s := s.setMisc { s.misc with cprogValid := false }
    (s.backTo o).takeFault .C f

/-! ## Performing a unit -/

/-- Two runs of tiles share one. -/
def tilesMeet (a n b m : Nat) : Bool := overlap a n b m

/-- M has a command in flight that writes one of n tiles from a. -/
def State.mWrites (s : State) (a n : Nat) : Bool :=
  match s.flight.mcmd with
  | none => false
  | some c => tilesMeet a n c.n (shapeTiles c.shape)

/-- The tiles that an operation has still to read: the first and how many. -/
def COp.tiles (o : COp) : Option (Nat × Nat) :=
  match o.kind with
  | .drain => some (o.f.f2.toNat + o.p / 1024, o.f.f3.toNat - o.p / 1024)
  | .drainSel => some (o.f.f5.toNat, o.f.f6.toNat)
  | _ => none

/-- An operation is a drain that has begun and has still to read one of n tiles from a (R156). -/
def COp.holds (o : COp) (a n : Nat) : Bool :=
  0 < o.p && match o.tiles with
    | some (b, m) => tilesMeet a n b m
    | none => false

/-- A drain that has begun has still to read one of n tiles from a: the oldest operation in flight, or the one that a stop has left at its
progress (R156). -/
def State.drainHolds (s : State) (a n : Nat) : Bool := (s.flight.cops.head?.or s.keptOp).any fun o => o.holds a n

/-- The next unit of C's oldest operation can be performed. -/
def State.unitReady (s : State) (o : COp) : Bool :=
  !s.unitHeld s.textAgent o.kind o.f o.p &&
  let t : Fin 256 := Fin.ofNat 256 o.f.f5.toNat
  let d := s.dieId
  let site := siteOf s.cur.core
  match o.kind with
  | .drain => match o.tiles with
    | some (a, n) => n == 0 || !s.mWrites a 1
    | none => true
  | .drainSel => match o.tiles with
    | some (a, n) => !s.mWrites a n
    | none => true
  | .rsend => s.nodeRoom d t site o.f.f2.toNat
  | .rrecv =>
    let n := s.nodeState d t site
    n.failed.any (·.1 == o.f.f2.toNat) || (n.resultOf o.f.f2.toNat).isSome
  | .gath => o.f.f8 == 0 || (s.run .C).owed.isEmpty
  | _ => true

/-- C's operation completes: it leaves the list, a resumed one clears CPROG, the words behind it that stand with it are charged
(R330), and its tokens are posted (R96, R153, R171). -/
def State.finishC (s : State) (o : COp) : State :=
  let s := (s.setFlight { s.flight with cops := s.flight.cops.tail }).charge 3 o.behind
  let m := s.misc
  let s := if m.cprogValid && m.cprogPc == epcOf o.path.pc then s.setMisc { m with cprogValid := false } else s
  (s.setCell { s.cell with progress := s.now }).payC

/-- 64-byte pieces charged when bytes grow from a to b (R312). -/
def piecesCharged (a b : Nat) : Nat := (b + 63) / 64 - (a + 63) / 64

/-- The bytes of a unit at its operation's barrier: those that a join charges, those that leave it because tiles have been read, and those
that leave it with the delivery (R153, R156, R157). -/
def State.settleBytes (s : State) (g : Agent) (u : UnitDone) : State :=
  let s := s.pendAdd g.who g.bar u.charge
  let s := s.pendAdd g.who g.bar (-(u.read : Int))
  s.delivered g u.bytes

/-- The next unit of C's oldest operation is performed (R153): its bytes leave the barrier, its energy is charged, and
under EPOST its token is posted. A barrier object with uncorrectable data is the datapath-check fault (R295). -/
def State.textUnit (s : State) : State :=
  match s.flight.cops with
  | [] => s
  | o :: rest =>
    if !(s.working && s.unitReady o) then s
    else
      let g := s.opAgent o
      match s.opUnit g o.kind o.f o.kept o.p with
      | .error f => s.faultC f
      | .ok u =>
      match s.barFlt g.who g.bar (u.charge + u.bytes) with
      | some f => s.faultC f
      | none =>
        let s := u.s.settleBytes g u
        let units := match o.kind with
          | .drainSel | .rsend | .rrecv => piecesCharged 0 u.bytes
          | k => piecesCharged (doneBytes k o.f o.p) (doneBytes k o.f u.p)
        let s := s.charge o.kind.cls units
        let s := if o.kind == .gath then s.sample s.dieId 2 s.domain (s.now - o.since) else s
        let s := s.setFlight { s.flight with
          cops := { o with p := u.p, left := o.left + u.charge - u.read - u.bytes, kept := u.kept } :: rest }
        let s := if o.epost && o.p < u.p then s.postC (o.seq - 1) o.posts else s
        if u.last then s.finishC o else s

/-! ## Windows (R161-R168) -/

/-- The row pitch of a ring (R161). -/
def Shape.pitch (sh : Shape) : Nat := pad64 sh.rowlen

/-- The fields of a shape record (R161). -/
def shapeOf (r : BitVec 512) : Shape :=
  { base := r.extractLsb' 448 64, stride := r.extractLsb' 384 64, rows := (r.extractLsb' 352 32).toNat,
    rowlen := (r.extractLsb' 336 16).toNat, ringrows := (r.extractLsb' 320 16).toNat,
    ring := (r.extractLsb' 288 32).toNat, fmt := r.extractLsb' 280 8 }

/-- The bank group of a scratchpad offset (R141). -/
def bankGroup (off : Nat) : Nat := off / 0x60000

/-- The first contradiction of a shape record for a window of the cell (R162). -/
def State.shapeBad (s : State) (w : Fin 8) (r : BitVec 512) : Option Nat :=
  let sh := shapeOf r
  let size := sh.ringrows * sh.pitch
  let others := (List.finRange 8).filter fun v => v != w
  if r.extractLsb' 257 23 != 0 || r.extractLsb' 0 256 != 0 then some 1
  else if sh.rows == 0 || sh.rowlen == 0 then some 2
  else if spaceOf sh.base != 0 || sh.base.toNat % 64 != 0 then some 3
  else if sh.rowlen % 32 != 0 || sh.stride.toNat % 32 != 0 then some 4
  else if sh.stride.toNat < sh.rowlen && !r.getLsbD 256 then some 5
  else if sh.ringrows == 0 then some 6
  else if 8192 < sh.ringrows then some 7
  else if sh.ring % 64 != 0 || 0x180000 < sh.ring + size || bankGroup sh.ring != bankGroup (sh.ring + size - 1) then
    some 8
  else if 28 ≤ sh.fmt.toNat && sh.fmt.toNat ≤ 254 then some 9
  else if 2 ^ 57 < sh.base.toNat + (sh.rows - 1) * sh.stride.toNat + sh.rowlen then some 10
  else if others.any fun v => match s.roll.win[v].shape with
      | Option.none => false
      | Option.some o => overlap sh.ring size o.ring (o.ringrows * o.pitch) then some 11
  else Option.none

/-- The address of a tensor row (R163). -/
def Shape.rowAddr (sh : Shape) (i : Nat) : Word := sh.base + BitVec.ofNat 64 (i * sh.stride.toNat)

/-- The pages of n tensor rows from i translated, rows past the tensor left out (R164, R165). -/
def State.translateRows (s : State) (sh : Shape) (i : Nat) : Nat → Except Flt State
  | 0 => .ok s
  | n + 1 =>
    if sh.rows ≤ i then .ok s
    else do
      let (_, s) ← s.range s.textAgent (sh.rowAddr i) sh.rowlen .walk
      s.translateRows sh (i + 1) n

/-- A word of C that is no operation leaves, with the last operation in flight, what a stop of that operation must give back: the
values it popped, the tokens it took, the windows it changed and the entries it staged; it is charged once that operation is complete,
or at once where none is in flight (R312, R330). -/
def State.behindOps (s : State) (popped : List (Fin 16 × QEntry)) (taken : List (Fin 10 × Token)) (wins : List (Fin 8 × Window))
    (staged : Nat) : State :=
  let add (o : COp) : COp :=
    { o with popped := popped ++ o.popped, taken := taken ++ o.taken, wins := wins ++ o.wins, staged := o.staged + staged, behind := o.behind + 1 }
  if s.flight.cops.isEmpty then s.charge 3 1
  else s.setFlight { s.flight with cops := s.flight.cops.modify (s.flight.cops.length - 1) add }

/-- A word of C that is no operation: its effect is made at its issue, behind the operations in flight (R126, R171). The body gives
the values it popped, the windows it changed as they were, and the number of entries it staged. -/
def State.wordC (s : State) (t : Tok) (uses : List (Fin 16 × Bool))
    (body : State → Res (List (Fin 16 × QEntry) × List (Fin 8 × Window) × Nat × State)) : Host.Outcome State Fault Refusal :=
  s.settleIssue .C do
    s.bindAll .C uses
    let pc := (s.path .C).pc
    let (taken, s) ← s.takeTokens .C t
    let (popped, wins, staged, s) ← body s
    let s := ((s.clearProg pc).behindOps popped taken wins staged).advance .C (s.nextPc .C)
    .ok (s.postC (s.run .C).issued t)

/-- A fetch of the tensor rows from lo up to and not including hi begins, counted among C's accesses (R164, R165). -/
def State.startFetch (s : State) (w : Fin 8) (x : Window) (lo hi : Nat) : State :=
  let s := s.countStore .C
  s.setWin w { x with
    missing := x.missing ++ (List.range (hi - lo)).map (lo + ·)
    owed := x.owed ++ [{ lo := lo, upto := hi, seq := (s.run .C).issued, since := s.now, pc := (s.path .C).pc }] }

/-- A window is unmapped once its fetches have ended (R166). -/
def State.unmap (s : State) (w : Fin 8) : Res State :=
  if s.roll.win[w].busy then .error (.wait .unit none) else .ok (s.setWin w Window.none)

/-- A window mapped from a checked record: its head is 0 (R164). -/
def Window.map (sh : Shape) : Window := { Window.none with shape := Option.some sh }

/-- WLIST of a launch record (R80). -/
def recWlist (r : BitVec 512) : Word := r.extractLsb' 448 64

/-- Input window w of the cell mapped from its record of WLIST, exactly as c.wmap maps it (R88). -/
def State.mapInput (s : State) (w : Fin 8) : Except Flt State := do
  let p := plus (recWlist s.cell.ident.record) (64 * w.val)
  let (bs, s) ← s.readC s.textAgent p 64
  let r := BitVec.ofNat 512 (leNat bs)
  match s.shapeBad w r with
  | some c => .error { Flt.mk' .shape (0x200 + 16 * w.val + c) with addr := p }
  | none =>
    let sh := shapeOf r
    let s ← s.translateRows sh 0 sh.ringrows
    .ok (s.startFetch w (Window.map sh) 0 sh.ringrows)

/-- The record of an input window of the cell lies behind a channel that is draining (R336). -/
def State.inputDrains (s : State) (w : Fin 8) : Bool :=
  s.behindDrain s.textAgent (plus (recWlist s.cell.ident.record) (64 * w.val)) 64

/-- C at its first word maps the input windows that could not be mapped at the cell's start, in their order (R88): the first that still
cannot be stops it there, and the ones before it stay mapped, in the checkpoint also. -/
def State.mapLeft (s : State) : List (Fin 8) → Res State
  | [] => .ok s
  | w :: ws =>
    if s.inputDrains w then .error (.waitIn s .data none)
    else
      match s.mapInput w with
      | .error f => .error (.faultIn s f)
      | .ok t =>
        (t.setCell { t.cell with
          startLeft := ws, ckpt := { t.cell.ckpt with win := t.cell.ckpt.win.set w t.roll.win[w] } }).mapLeft ws

/-- c.wmap (R162, R164). -/
def execCWmap (t : Tok) (w : Fin 8) (q : QSrc) (s : State) : Host.Outcome State Fault Refusal :=
  let found := s
  s.wordC t (QSrc.uses q) fun s => do
    let (p, popped, s) ← s.qsrc .C q
    s.cRoom
    requireAt (p.toNat % 64 == 0) .alignment 0 p
    if s.behindDrain s.textAgent p 64 then .error (.wait .data none)
    let (bs, s) ← liftFlt (s.readC s.textAgent p 64)
    let r := BitVec.ofNat 512 (leNat bs)
    match s.shapeBad w r with
    | some c => raiseAt .shape (0x200 + 16 * w.val + c) p
    | none =>
      let old := s.roll.win[w]
      let s ← s.unmap w
      let sh := shapeOf r
      match s.translateRows sh 0 sh.ringrows with
      | .error f => .error (.faultIn (found.setWin w Window.none) f)
      | .ok s => .ok (popped, [(w, old)], 0, s.startFetch w (Window.map sh) 0 sh.ringrows)

/-- c.wadv (R165): n is the count less one. -/
def execCWadv (t : Tok) (w : Fin 8) (n : BitVec 6) (s : State) : Host.Outcome State Fault Refusal :=
  s.wordC t [] fun s => do
    s.cRoom
    let x := s.roll.win[w]
    match x.shape with
    | Option.none => raise .shape (0x2C0 + w.val)
    | Option.some sh =>
      let h := Nat.min (x.head + (n.toNat + 1)) sh.rows
      let s ← liftFlt (s.translateRows sh (x.head + sh.ringrows) (h - x.head))
      let first := Nat.max h (x.head + sh.ringrows)
      let y := { x with head := h }
      .ok ([], [(w, x)], 0, if first < h + sh.ringrows then s.startFetch w y first (h + sh.ringrows) else s.setWin w y)

/-- c.wret (R166). -/
def execCWret (t : Tok) (w : Fin 8) (s : State) : Host.Outcome State Fault Refusal :=
  s.wordC t [] fun s => do
    let x := s.roll.win[w]
    let s ← s.unmap w
    .ok ([], [(w, x)], 0, s)

/-- A row can arrive: its slot's earlier rows have. -/
def Window.canArrive (x : Window) (row : Nat) : Bool :=
  match x.shape with
  | Option.none => false
  | Option.some sh => x.missing.contains row && !x.missing.any fun i => i < row && i % sh.ringrows == row % sh.ringrows

/-- A fetch of a window has rows to come. -/
def Window.fetching (x : Window) (f : WindowFetch) : Bool := x.missing.any fun i => f.lo ≤ i && i < f.upto

/-- When the fetch of a row was issued. -/
def Window.rowSince (x : Window) (row now : Nat) : Nat :=
  ((x.owed.reverse.find? fun f => f.lo ≤ row && row < f.upto).map (·.since)).getD now

/-- A row is reached through a channel that is draining: one of those selected by the drain's start and the row's issue (R336). -/
def State.rowOn (s : State) (w : Fin 8) (row : Nat) (sel : BitVec 12 → Nat → Nat → Bool) : Bool :=
  let x := s.roll.win[w]
  match x.shape with
  | Option.none => false
  | Option.some sh =>
    let t : State := { s with draining := s.draining.filter fun d => sel d.1 d.2.1 (x.rowSince row s.now) }
    row < sh.rows && t.behindDrain s.textAgent (sh.rowAddr row) sh.rowlen

/-- A row waits for a drain that began before its fetch was issued (R336). -/
def State.rowHeld (s : State) (w : Fin 8) (row : Nat) : Bool := s.rowOn w row fun _ since issued => since ≤ issued

/-- A fetched row is written into its slot, with zero bytes up to the pitch or past the tensor (R163); with the last row of a fetch
the posts behind it are made, and C has made progress (R96, R164, R165). -/
def State.rowArrives (s : State) (w : Fin 8) (row : Nat) : State :=
  let x := s.roll.win[w]
  match x.shape with
  | Option.none => s
  | Option.some sh =>
    let slot := 0x8000000000000000 + BitVec.ofNat 64 (sh.ring + row % sh.ringrows * sh.pitch)
    let write : Except Flt State := do
      let (bs, s) ← if row < sh.rows then s.readC s.textAgent (sh.rowAddr row) sh.rowlen else .ok ([], s)
      s.writeC s.textAgent slot (bs ++ List.replicate (sh.pitch - bs.length) 0)
    match write with
    | .error f => s.fault .C f
    | .ok s =>
      let s := if row < sh.rows then s.sample s.dieId 1 s.domain (s.now - x.rowSince row s.now) else s
      let s := if row < sh.rows then s.charge 3 (sh.pitch / 64) else s
      let y := { x with missing := x.missing.filter (· != row) }
      let y := { y with owed := y.owed.filter y.fetching }
      let s := s.setWin w y
      if y.owed.length = x.owed.length then s else (s.setCell { s.cell with progress := s.now }).payC

/-- WINDOW_ROW_ARRIVAL (R163). -/
def execWindowRowArrival (core : CoreId) (w : Fin 8) (row : Nat) (s : State) : Host.Outcome State Fault Refusal :=
  let t := s.on core
  .next (if t.working && t.roll.win[w].canArrive row && !t.rowHeld w row then t.rowArrives w row else s)

/-- The arrived count of a window (R163). -/
def Window.arrived (x : Window) : Nat :=
  match x.shape with
  | Option.none => 0
  | Option.some sh => ((List.range sh.ringrows).takeWhile fun j => !x.missing.contains (x.head + j)).length

/-! ## c.pfx and c.mbx -/

/-- A translation of a domain placed in the cache of a die and in the micro-TLB of a core, where it is a core's, or skipped (R170). -/
def State.prefetchOn (s : State) (k : Option CoreId) (die : DieId) (dom : BitVec 16) (v : Word) : State :=
  let va := v.toNat
  if 2 ^ 57 ≤ va then s
  else
    match s.cached k die dom va with
    | some (_, u) => u
    | none =>
      match s.walkTables dom va v .load with
      | .error _ => s
      | .ok t => if (s.physCheck (t.phys va) v .load).isOk then (s.fillDie die t).fillMicro k t else s

/-- A translation of the cell's domain. -/
def State.prefetch (s : State) (v : Word) : State := s.prefetchOn (some s.cur.core) s.dieId s.domain v

/-- Translations of n pages from an address. -/
def State.prefetchAll (s : State) (v : Word) : Nat → State
  | 0 => s
  | n + 1 => (s.prefetch v).prefetchAll (v + 65536) n

/-- c.pfx (R170): n is the count less one. -/
def execCPfx (t : Tok) (q : QSrc) (n : BitVec 6) (s : State) : Host.Outcome State Fault Refusal :=
  s.wordC t (QSrc.uses q) fun s => do
    let (v, popped, s) ← s.qsrc .C q
    .ok (popped, [], 0, s.prefetchAll v (n.toNat + 1))

/-- C already waits for room in its staging (R360). -/
def State.waitsStaging (s : State) : Bool :=
  match (s.run .C).stall with
  | some st => st.why == .staging
  | none => false

/-- c.mbx (R360): MBXOPEN is tested once, before the wait for room. -/
def execCMbx (t : Tok) (q : QSrc) (k : BitVec 6) (s : State) : Host.Outcome State Fault Refusal :=
  s.wordC t (QSrc.uses q) fun s => do
    let (v, popped, s) ← s.qsrc .C q
    require (s.waitsStaging || (s.streamOf s.domain k).isSome) .shape (0xA00 + k.toNat)
    if 64 ≤ s.roll.staging.length then .error (.wait .staging s.qlimit)
    else .ok (popped, [], 1, s.setRoll { s.roll with staging := s.roll.staging ++ [{ stream := k, value := v }] })

end Sys2Proof.Machine
end

