-- ==== Sys2Proof/Machine/Fetch.lean ====
section
/-! DEFINITION. Fetching the next word of an engine: the text's bounds, the prefix chain, the slip window, and what an
engine does at a word that is not its own (R24, R25, R39-R41, R93). -/

namespace Sys2Proof.Machine

/-- The word at an address of the text (R83, R93), as memory holds it (log entry 26): outside the text it is the illegal-encoding
fault. -/
def State.fetchWord (s : State) (e : Eng) (pc : Word) : Except Flt (W32 × State) :=
  let id := s.cell.ident
  if pc.toNat < id.entry.toNat || id.entry.toNat + 4 * id.textlen ≤ pc.toNat || pc.toNat % 4 != 0 then
    .error { Flt.mk' .illegal 0 with addr := 0 }
  else do
    let (x, s) ← s.translate (some s.cur.core) s.dieId s.domain pc .fetch
    match s.badAt (s.obs e pc) s.me x 4 with
    | some (d, g) => .error (poisonFlt pc d g e.code)
    | none => .ok (BitVec.ofNat 32 (leNat (s.readAt (s.obs e pc) s.me x 4)), s)

/-- The smallest walk count of the engines that do not stand at a halt word (R93). -/
def State.leastWalk (s : State) (e : Eng) : Nat :=
  let p := s.roll.paths
  [p.a, p.c, p.m, p.v, p.f].foldl (fun m q => if q.halted then m else Nat.min m q.walk) (s.path e).walk

/-- The slip window lets an engine walk its next word (R93). -/
def State.slipOk (s : State) (e : Eng) : Bool := (s.path e).walk - s.leastWalk e < s.misc.slipw.toNat

/-- An engine that a hack lets retire one instruction has done so, and the stop that follows stands out (R355). -/
def State.stepDone (s : State) (e : Eng) : Bool :=
  match s.core.hackReq with
  | none => false
  | some w => w.toNat / 2 ^ 60 == 3 && w.toNat % 8 == e.code && (s.run e).stepped

/-- An engine may walk: the device issues, the cell runs, is not frozen and has taken no fault, and the engine does not stand
at halt, nor has it made the one step of a hack. -/
def State.canWalk (s : State) (e : Eng) : Bool :=
  !s.aedty.stopped && s.working && s.mayRaise e && !(s.path e).halted && !s.stepDone e

/-- M and V of a user cell are held by the throttle (R307). -/
def State.throttled (s : State) (e : Eng) : Bool := s.gov.hold && !s.supv && (e == .M || e == .V)

/-- An engine walks a prefix, which counts as one word of its walk (R41, R93). -/
def State.walkPrefix (s : State) (e : Eng) (w : W32) : State :=
  let p := s.path e
  let s := s.setPath e { p with exts := p.exts ++ [extOf w], walk := p.walk + 1 }
  let s := s.setRun e { (s.run e).toHead s.now 0x00 with stall := none }
  s.setCell { s.cell with progress := s.now }

/-- The fault of the fetch of an engine's next word: an engine whose PC leaves the text takes it there, and a word behind prefixes
records its first prefix (R41, R93). -/
def State.fetchFault (s : State) (e : Eng) (f : Flt) : State :=
  if f.kind == .illegal then s.takeFaultAt e f (some (s.hostPc e)) else s.fault e f

/-- An engine passes over another engine's word (R24, R93). -/
def State.passOver (s : State) (e : Eng) : State :=
  s.walkOn e (s.nextPc e)

/-- What an engine finds at its next word. -/
inductive Found where
  /-- An instruction it acts on or follows, with the state that executes it. -/
  | act (i : Instr) (s : State)
  /-- Nothing to execute: the next state. -/
  | done (s : State)

/-- C at its first word, outside the handlers, maps the input windows that the cell's start has left (R88; log entry 34); the state in
which it goes on, or the one in which it waits or has taken a fault there. -/
def State.startMaps (s : State) (e : Eng) : Except State State :=
  let c := s.cell
  if e != .C || c.startLeft.isEmpty || c.traps.active || c.ctx.active then .ok s
  else if (s.path .C).pc != c.ident.entry then .ok (s.setCell { c with startLeft := [] })
  else
    match s.mapLeft c.startLeft with
    | .ok t => .ok t
    | .error (.waitIn t w lim) => .error (t.stallAt .C w lim)
    | .error (.faultIn t f) => .error (t.fault .C f)
    | .error _ => .error s

/-- An engine's next word (R22-R25, R39, R93): it takes a fault owed from a segment copy (R277), owes posts, is held, has input windows
to map (R88), stalls at the slip window, faults on its fetch, walks a prefix, passes over the word, takes the illegal-encoding
fault, stands at another engine's illegal steering word, or acts. -/
def State.find (s : State) (k : CoreId) (e : Eng) (defer : Bool) : Found :=
  let s := { s with cur := { core := k, eng := e, defer := defer, undo := none } }
  if !s.canWalk e then .done s
  else
  match s.cell.owed with
  | some f => .done ((s.setCell { s.cell with owed := none }).fault .A f)
  | none =>
    let s := s.payOwed e
    match (s.run e).owed with
    | j :: _ => .done (s.stallAt e (.post j) none)
    | [] =>
    if s.throttled e then .done (s.stallAt e .throttle none)
    else
    match s.startMaps e with
    | .error t => .done t
    | .ok s =>
    if !s.slipOk e then .done (s.stallAt e .slip none)
    else
    match s.fetchWord e (s.hostPc e) with
    | .error f => .done (s.fetchFault e f)
    | .ok (w, s) =>
      if isPrefix w then .done (s.walkPrefix e w)
      else
        let mine := e == ownerOf w
        if !mine && steerOf w == .no then .done (s.passOver e)
        else
          match decodeHost (s.path e).exts w with
          | .ok i => .act i s
          | .error _ => .done (if mine then s.fault e (Flt.mk' .illegal 0) else s.stallAt e .hold none)

end Sys2Proof.Machine
end

