-- ==== Sys2Proof/Machine/TextScan.lean ====
section
/-! DEFINITION. The words between two engines of a cell: what the one behind has still to walk (R47). -/

namespace Sys2Proof.Machine

/-- Where a walk goes after a word: the next word, or the target that the engine's outcome bits and links give. -/
def nextOf (exts : List (BitVec 29)) (w : W32) (pc : Word) (outs : List Bool) (links : List Word) :
    Option (Word × List Bool × List Word) :=
  if steerOf w == .no || steerOf w == .hold then some (pc + 4, outs, links)
  else
    match decodeHost exts w with
    | .ok (.beq _ _ o) | .ok (.bne _ _ o) | .ok (.blt _ _ o) | .ok (.bge _ _ o) | .ok (.bgt _ _ o) | .ok (.ble _ _ o)
    | .ok (.vBr _ _ _ o) =>
      match outs with
      | [] => none
      | b :: rest => some (if b then pc + o * 4 else pc + 4, rest, links)
    | .ok (.jmp _ o) => some (pc + o * 4, outs, links)
    | .ok (.call _ o) => some (pc + o * 4, outs, (pc + 4) :: links)
    | .ok (.ret _) =>
      match links with
      | [] => none
      | l :: rest => some (l, outs, rest)
    | _ => none

/-- The next n words of a path, each with the prefixes before it. -/
def State.pathWords (s : State) (pc : Word) (outs : List Bool) (links : List Word) (exts : List (BitVec 29)) :
    Nat → List (List (BitVec 29) × W32)
  | 0 => []
  | n + 1 =>
    match s.fetchWord .A pc with
    | .error _ => []
    | .ok (w, _) =>
      if isPrefix w then (exts, w) :: s.pathWords (pc + 4) outs links (exts ++ [extOf w]) n
      else
        match nextOf exts w pc outs links with
        | none => [(exts, w)]
        | some (pc', outs', links') => (exts, w) :: s.pathWords pc' outs' links' [] n

/-- The words that engine b has walked and engine a has not. -/
def State.wordsAhead (s : State) (a b : Eng) : List (List (BitVec 29) × W32) :=
  let p := (s.path a).rewind
  s.pathWords p.pc p.outs p.links [] ((s.path b).walk - p.walk)

/-- One of the words that engine b has walked and engine a has not satisfies a test. -/
def State.aheadHas (s : State) (a b : Eng) (test : W32 → Bool) : Bool := (s.wordsAhead a b).any fun w => test w.2

/-- The image of a template after an amendment, where the operation has the field and the value fits it (R45). DEDUCED: a value of a patch
word without a chain that is wider than a narrow field is refused as a chained one is (log entry 24; R45 names only the chained). -/
def amended (e : Eng) (img : BitVec 256) (fsel : BitVec 4) (value : BitVec 74) : Option (BitVec 256) :=
  if fsel = 0 then if value = 0 then some img else none
  else
    match fieldSpan e (img.extractLsb' 249 7).toNat fsel.toNat with
    | none => none
    | some (lo, w) => if value.toNat < 2 ^ w then some (amendImage img lo w value.toNat) else none

/-- The word is a tset of a template. -/
def tsetOf (e : Eng) (n : BitVec 6) (w : W32) : Bool :=
  w.extractLsb' 29 3 == 0 && w.extractLsb' 18 7 == 0x4C && w.extractLsb' 12 6 == n
    && w.extractLsb' 0 3 == BitVec.ofNat 3 e.code

/-- The word is a patch word that names a template. -/
def isPatch (e : Eng) (n : BitVec 6) (w : W32) : Bool :=
  w.extractLsb' 29 3 == 5 && w.extractLsb' 26 3 == BitVec.ofNat 3 e.code && w.extractLsb' 20 6 == n

/-- One of a list of words of A's path is a tset of a template, or a patch word of A whose template holds one (R46, R47). The list
tm gives the templates of A that earlier words of the path leave; one that an earlier tset loads is not known before that tset has
been performed, and is waited for. -/
def State.tsetIn (s : State) (e : Eng) (n : BitVec 6) (tm : List (BitVec 6 × Option (BitVec 256))) :
    List (List (BitVec 29) × W32) → Bool
  | [] => false
  | (exts, w) :: rest =>
    let target : Option (BitVec 6) := if w.extractLsb' 0 3 == 0 then some (w.extractLsb' 12 6) else none
    if tsetOf e n w then true
    else if engOf w == 0 && opOf w == 0x4C then
      s.tsetIn e n (match target with | some m => (m, none) :: tm | none => tm) rest
    else if ownerOf w == .A && engOf w == 5 then
      match decodeHost exts w with
      | .ok (.patchWord .A m fsel value) =>
        match (tm.lookup m).getD (s.template .A m), (tm.lookup m).isSome with
        | none, true => true
        | none, false => s.tsetIn e n tm rest
        | some img, _ =>
          match amended .A img fsel value with
          | none => s.tsetIn e n tm rest
          | some new =>
            let tm := (m, some new) :: tm
            match decodeImage .A new with
            | .ok (.tset _ m' _ e') =>
              if e' = e && m' = n then true else s.tsetIn e n (if e' = .A then (m', none) :: tm else tm) rest
            | _ => s.tsetIn e n tm rest
      | _ => s.tsetIn e n tm rest
    else s.tsetIn e n tm rest

/-- A tset of a template of an engine stands between A and a patch word at which the engine stands (R47). -/
def State.tsetAhead (s : State) (e : Eng) (n : BitVec 6) : Bool := s.tsetIn e n [] (s.wordsAhead .A e)

end Sys2Proof.Machine
end

