-- ==== Sys2Proof/Machine/AMem.lean ====
section
/-! DEFINITION. The memory instructions of the A engine: loads, stores, run-ahead loads, atomics, cas, await and tset
(R107-R114, R120). -/

namespace Sys2Proof.Machine

/-! ## Shared operations -/

/-- The address of a load or store: base plus the displacement in units of the access size (R108). -/
def memAddr (base imm : Word) (n : Nat) : Word := base + imm * BitVec.ofNat 64 n

/-- The stores of an engine that are not performed at every scope, counted by instruction (R109). DEDUCED: an outstanding amo or cas
counts among the loads and, although it enters both queues, not among these (log entry 35; R109 says what counts for the loads only). -/
def State.storesOut (s : State) (e : Eng) : Nat :=
  (((s.stores.filter fun p => p.serial == s.cell.ident.serial && p.eng == e).map (·.seq)).dedup).length

/-- The bytes that A reads at a checked address, from system space or from memory. -/
def State.fetchData (s : State) (p : Word) (x n : Nat) : Except Flt (List Byte) :=
  if spaceOf p = 0xF then
    match s.sysBad s.dieId (offOf p) n with
    | some g => .error (poisonFlt p (g - x) g 0)
    | none => .ok (s.sysBytes s.dieId (offOf p) n)
  else s.loadBytes .A p x n

/-- The data of a load read now, after every earlier load (R244). -/
def State.loadNow (s : State) (p : Word) (n : Nat) (signed : Bool) : Res (Word × State) := do
  let (x, s) ← s.reach p n .load
  let s ← liftFlt (s.performLoads s.flight.loads.length)
  let bs ← liftFlt (s.fetchData p x n)
  .ok (extendLoad signed n bs, (s.peerReceipt .A x).touched x n)

/-- A load, an amo or a cas left outstanding (R108-R112): at most 32 are held. -/
def State.loadLater (s : State) (p : Word) (n : Nat) (signed : Bool) (dst : LoadDst) (rmw : Option Rmw) : Res State := do
  let (x, s) ← s.reach p n (if rmw.isSome then .atomic else .load)
  if 32 ≤ s.flight.loads.length then .error (.wait .unit none)
  else
    let s := if rmw.isSome then s.peerSend .A x else s
    .ok (s.setFlight { s.flight with loads := s.flight.loads ++
      [{ pc := (s.path .A).pc, addr := p, loc := x, n := n, signed := signed, dst := dst, rmw := rmw, got := none }] })

/-- ld.T (R108). -/
def State.ld (s : State) (n : Nat) (signed : Bool) (t : Tok) (d : Dst) (base : Src) (imm : Word) :
    Host.Outcome State Fault Refusal :=
  s.issue .A t 2 (Src.uses base ++ Dst.uses d) fun s => do
    let (b, s) ← s.src base
    let p := memAddr b imm n
    match d with
    | .x r =>
      if s.cur.defer && spaceOf p != 0xF then
        s.dstReady d
        s.loadLater p n signed (.reg r) none
      else
        let (v, s) ← s.loadNow p n signed
        s.dst d v
    | .push _ =>
      let (v, s) ← s.loadNow p n signed
      s.dst d v

/-- A store of A finds its queue of 32 entries with room (R109). -/
def State.aRoom (s : State) : Res Unit := if 32 ≤ s.storesOut .A then .error (.wait .unit none) else .ok ()

/-- Bytes that A stores at a checked address (R108, R244). -/
def State.storeA (s : State) (p : Word) (x : Nat) (bs : List Byte) : State :=
  if spaceOf p = 0xF then s.sysWrite s.dieId (offOf p) bs (bs.length + 1) else s.addStore .A p x bs

/-- st.T (R108): base is read first, then the stored value. -/
def State.st (s : State) (n : Nat) (t : Tok) (src base : Src) (imm : Word) : Host.Outcome State Fault Refusal :=
  s.issue .A t 2 (Src.uses base ++ Src.uses src) fun s => do
    let (b, s) ← s.src base
    let (v, s) ← s.src src
    let p := memAddr b imm n
    let (x, s) ← s.reach p n .store
    s.aRoom
    let s ← liftFlt (s.loadsBefore x n)
    .ok (s.storeA p x (leBytes n v.toNat))

/-- ldq.T (R110): the access first, then the slot. A value that is there at once is pushed as push does (R127). -/
def State.ldq (s : State) (n : Nat) (signed : Bool) (t : Tok) (q : Fin 16) (base : Src) (imm : Word) :
    Host.Outcome State Fault Refusal :=
  s.issue .A t 2 (Src.uses base ++ [(q, true)]) fun s => do
    let (b, s) ← s.src base
    let p := memAddr b imm n
    if s.cur.defer && spaceOf p != 0xF then
      let s ← s.loadLater p n signed (.slot q) none
      s.roomQ .A q 1
      .ok (s.appendQ .A q 0 false)
    else
      let (v, s) ← s.loadNow p n signed
      s.push .A q v

/-- One read-modify-write at the granule's home (R111-R113), which enters both of A's queues: it answers the old value; the new one
is written where there is one. -/
def State.atomic (s : State) (p : Word) (n : Nat) (f : Nat → Option Nat) : Res (Nat × State) := do
  let (x, s) ← s.reach p n .atomic
  s.aRoom
  let s ← liftFlt (s.performLoads s.flight.loads.length)
  liftFlt ((s.peerSend .A x).rmwAt p x n f)

/-- An amo or a cas whose destination may be written later is left outstanding where it does not complete at once (R109-R112). -/
def State.rmw (s : State) (p : Word) (r : Rmw) (d : Dst) : Res State := do
  match d, s.cur.defer with
  | .x i, true =>
    s.dstReady d
    s.aRoom
    s.loadLater p r.size false (.reg i) (some r)
  | _, _ =>
    let (old, s) ← s.atomic p r.size r.result
    s.dst d (BitVec.ofNat 64 old)

/-- amo.op (R111). -/
def State.amo (s : State) (op : AmoOp) (t : Tok) (d : Dst) (a b : Src) : Host.Outcome State Fault Refusal :=
  s.issue .A t 2 (Src.uses a ++ Src.uses b ++ Dst.uses d) fun s => do
    let (p, s) ← s.src a
    let (v, s) ← s.src b
    s.rmw p (.amo op v) d

/-! ## Loads -/

/-- ld.n8 (R108). -/
def execLdN8 (t : Tok) (d : Dst) (base : Src) (imm : Word) (s : State) : Host.Outcome State Fault Refusal :=
  s.ld 1 false t d base imm

/-- ld.n16 (R108). -/
def execLdN16 (t : Tok) (d : Dst) (base : Src) (imm : Word) (s : State) : Host.Outcome State Fault Refusal :=
  s.ld 2 false t d base imm

/-- ld.n32 (R108). -/
def execLdN32 (t : Tok) (d : Dst) (base : Src) (imm : Word) (s : State) : Host.Outcome State Fault Refusal :=
  s.ld 4 false t d base imm

/-- ld.n64 (R108). -/
def execLdN64 (t : Tok) (d : Dst) (base : Src) (imm : Word) (s : State) : Host.Outcome State Fault Refusal :=
  s.ld 8 false t d base imm

/-- ld.s8 (R108). -/
def execLdS8 (t : Tok) (d : Dst) (base : Src) (imm : Word) (s : State) : Host.Outcome State Fault Refusal :=
  s.ld 1 true t d base imm

/-- ld.s16 (R108). -/
def execLdS16 (t : Tok) (d : Dst) (base : Src) (imm : Word) (s : State) : Host.Outcome State Fault Refusal :=
  s.ld 2 true t d base imm

/-- ld.s32 (R108). -/
def execLdS32 (t : Tok) (d : Dst) (base : Src) (imm : Word) (s : State) : Host.Outcome State Fault Refusal :=
  s.ld 4 true t d base imm

/-! ## Stores -/

/-- st.n8 (R108). -/
def execStN8 (t : Tok) (src base : Src) (imm : Word) (s : State) : Host.Outcome State Fault Refusal :=
  s.st 1 t src base imm

/-- st.n16 (R108). -/
def execStN16 (t : Tok) (src base : Src) (imm : Word) (s : State) : Host.Outcome State Fault Refusal :=
  s.st 2 t src base imm

/-- st.n32 (R108). -/
def execStN32 (t : Tok) (src base : Src) (imm : Word) (s : State) : Host.Outcome State Fault Refusal :=
  s.st 4 t src base imm

/-- st.n64 (R108). -/
def execStN64 (t : Tok) (src base : Src) (imm : Word) (s : State) : Host.Outcome State Fault Refusal :=
  s.st 8 t src base imm

/-! ## Run-ahead loads -/

/-- ldq.n8 (R110). -/
def execLdqN8 (t : Tok) (q : Fin 16) (base : Src) (imm : Word) (s : State) : Host.Outcome State Fault Refusal :=
  s.ldq 1 false t q base imm

/-- ldq.n16 (R110). -/
def execLdqN16 (t : Tok) (q : Fin 16) (base : Src) (imm : Word) (s : State) : Host.Outcome State Fault Refusal :=
  s.ldq 2 false t q base imm

/-- ldq.n32 (R110). -/
def execLdqN32 (t : Tok) (q : Fin 16) (base : Src) (imm : Word) (s : State) : Host.Outcome State Fault Refusal :=
  s.ldq 4 false t q base imm

/-- ldq.n64 (R110). -/
def execLdqN64 (t : Tok) (q : Fin 16) (base : Src) (imm : Word) (s : State) : Host.Outcome State Fault Refusal :=
  s.ldq 8 false t q base imm

/-- ldq.s8 (R110). -/
def execLdqS8 (t : Tok) (q : Fin 16) (base : Src) (imm : Word) (s : State) : Host.Outcome State Fault Refusal :=
  s.ldq 1 true t q base imm

/-- ldq.s16 (R110). -/
def execLdqS16 (t : Tok) (q : Fin 16) (base : Src) (imm : Word) (s : State) : Host.Outcome State Fault Refusal :=
  s.ldq 2 true t q base imm

/-- ldq.s32 (R110). -/
def execLdqS32 (t : Tok) (q : Fin 16) (base : Src) (imm : Word) (s : State) : Host.Outcome State Fault Refusal :=
  s.ldq 4 true t q base imm

/-! ## Atomics -/

/-- amo.add (R111). -/
def execAmoAdd (t : Tok) (d : Dst) (a b : Src) (s : State) : Host.Outcome State Fault Refusal := s.amo .add t d a b

/-- amo.min (R111). -/
def execAmoMin (t : Tok) (d : Dst) (a b : Src) (s : State) : Host.Outcome State Fault Refusal := s.amo .min t d a b

/-- amo.max (R111). -/
def execAmoMax (t : Tok) (d : Dst) (a b : Src) (s : State) : Host.Outcome State Fault Refusal := s.amo .max t d a b

/-- amo.and (R111). -/
def execAmoAnd (t : Tok) (d : Dst) (a b : Src) (s : State) : Host.Outcome State Fault Refusal := s.amo .and t d a b

/-- amo.or (R111). -/
def execAmoOr (t : Tok) (d : Dst) (a b : Src) (s : State) : Host.Outcome State Fault Refusal := s.amo .or t d a b

/-- amo.xor (R111). -/
def execAmoXor (t : Tok) (d : Dst) (a b : Src) (s : State) : Host.Outcome State Fault Refusal := s.amo .xor t d a b

/-- amo.xchg (R111). -/
def execAmoXchg (t : Tok) (d : Dst) (a b : Src) (s : State) : Host.Outcome State Fault Refusal := s.amo .xchg t d a b

/-- amo.fadd.f32 (R111). -/
def execAmoFaddF32 (t : Tok) (d : Dst) (a b : Src) (s : State) : Host.Outcome State Fault Refusal := s.amo .faddF32 t d a b

/-- amo.fmax.f32 (R111). -/
def execAmoFmaxF32 (t : Tok) (d : Dst) (a b : Src) (s : State) : Host.Outcome State Fault Refusal := s.amo .fmaxF32 t d a b

/-- cas (R112): d is read last. -/
def execCas (t : Tok) (d : Dst) (a b : Src) (s : State) : Host.Outcome State Fault Refusal :=
  s.issue .A t 2 (Src.uses a ++ Src.uses b ++ Dst.usesRead d) fun s => do
    let (p, s) ← s.src a
    let (v, s) ← s.src b
    let (e, s) ← s.dstRead d
    s.rmw p (.cas e v) d

/-- The state that an await found, in which an attempt that goes on waiting has read its granule: A's earlier accesses to it have been
performed at its home (R114, R244). -/
def State.awaited (s : State) (p : Word) (x : Nat) : State :=
  match s.performLoads s.flight.loads.length with
  | .ok u => u.settle (u.obs .A p) (u.land u.me x) 8
  | .error _ => s

/-- await (R114): the granule is read on every attempt, behind A's stores to it; the wait began at the first of them. -/
def execAwait (t : Tok) (d : Dst) (a b : Src) (s : State) : Host.Outcome State Fault Refusal :=
  let since := s.stallSince .A .await
  let found := s
  s.issue .A t 2 (Src.uses a ++ Src.uses b ++ Dst.usesRead d) fun s => do
    let (p, s) ← s.src a
    let (w, s) ← s.src b
    let (e, s) ← s.dstRead d
    let (x, s) ← s.reach p 8 .await
    let s ← liftFlt (s.performLoads s.flight.loads.length)
    let s := s.settle (s.obs .A p) (s.land s.me x) 8
    let bs ← liftFlt (s.loadBytes .A p x 8)
    let v := leWord bs
    if v != e || w.toNat ≤ s.now - since then ((s.peerReceipt .A x).touched x 8).dst d v
    else .error (.waitIn (found.awaited p x) .await none)

/-- tset (R120): it waits for the engine's earlier patch words that name the template (R47). -/
def execTset (t : Tok) (n : BitVec 6) (a : Src) (e : Eng) (s : State) : Host.Outcome State Fault Refusal :=
  s.issue .A t 2 (Src.uses a) fun s => do
    let (p, s) ← s.src a
    let (x, s) ← s.reach p 32 .tset
    if s.aheadHas e .A (isPatch e n) then .error (.wait .template none)
    else
      let s ← liftFlt (s.performLoads s.flight.loads.length)
      let bs ← liftFlt (s.loadBytes .A p x 32)
      .ok (((s.peerReceipt .A x).touched x 32).setTemplate e n (BitVec.ofNat 256 (leNat bs)))

end Sys2Proof.Machine
end

