-- ==== Sys2Proof/Machine/Queue.lean ====
section
/-! DEFINITION. Command queues (R130-R140): push, renq, qstat, the running of commands, the spill ring and
the register CQCTL. -/

namespace Sys2Proof.Machine

/-! ## Queues -/

/-- A command queue. -/
def State.queue (s : State) (k : CoreId) (q : Fin 4) : CmdQueue := s.cores[k].cq[q]

/-- A command queue replaced. -/
def State.setQueue (s : State) (k : CoreId) (q : Fin 4) (x : CmdQueue) : State :=
  { s with cores := s.cores.set k { s.cores[k] with cq := s.cores[k].cq.set q x } }

/-- The queue that a name gives, where it is valid (R131). -/
def State.queueNamed (s : State) (v : Word) : Option (CoreId × Fin 4) :=
  if v.toNat / 2 ^ 11 != 0 then none
  else
    match coreAt (if v.getLsbD 10 then 1 else 0) (v.toNat / 4 % 256) with
    | none => none
    | some k => if s.cores[k].enabled then some (k, Fin.ofNat 4 v.toNat) else none

/-- The name of a queue (R131). -/
def queueName (k : CoreId) (q : Fin 4) : BitVec 11 :=
  BitVec.ofNat 11 (1024 * (dieOf k).val + 4 * siteOf k + q.val)

/-- The counts of a domain on a queue. -/
def CmdQueue.count (x : CmdQueue) (d : BitVec 16) : CqCount :=
  (x.counts.find? fun c => c.domain == d).getD { domain := d, out := 0, done := 0 }

/-- The counts of a domain on a queue replaced. -/
def CmdQueue.setCount (x : CmdQueue) (c : CqCount) : CmdQueue :=
  { x with counts := c :: x.counts.filter fun y => y.domain != c.domain }

/-- The cell's domain is at quota on a queue (R137). -/
def State.atQuota (s : State) (k : CoreId) (q : Fin 4) : Bool :=
  let x := s.queue k q
  let die := s.die (dieOf k)
  let out := (x.count s.domain).out
  s.misc.cqquota.toNat ≤ out
    || (out == 0 && 8 ≤ (x.counts.filter fun c => 0 < c.out).length)
    || (if die.spillSize == 0 then 16 ≤ x.entries.length else die.spillSize.toNat ≤ die.spilled.length)

/-! ## Command blocks (R130) -/

/-- The operation of an image that a command may hold. -/
def cmdOp (img : BitVec 256) : Option (CKind × CFields) :=
  if img.extractLsb' 245 4 != 0 then none
  else
    match decodeImage .C img with
    | .ok (.cCopy _ (.image f)) => some (.copy, f)
    | .ok (.cGath _ f) => some (.gath, f)
    | .ok (.cScat _ f) => some (.scat, f)
    | .ok (.cFill _ (.image f)) => some (.fill, f)
    | .ok (.cConvF32 _ (.image f)) => some (.conv .f32, f)
    | .ok (.cConvBf16 _ (.image f)) => some (.conv .bf16, f)
    | .ok (.cConvF16 _ (.image f)) => some (.conv .f16, f)
    | _ => none

/-- The command that a block describes for a domain, a mode and an issuing cell and word, where it is well formed. -/
def cmdFrom (domain : BitVec 16) (supv : Bool) (owner : Nat) (pc : Word) (b : BitVec 512) : Option Cmd :=
  let bar := b.extractLsb' 224 32
  if b.extractLsb' 192 32 != 0 || b.extractLsb' 0 128 != 0 || entryBad bar true then none
  else
    match cmdOp (b.extractLsb' 256 256) with
    | none => none
    | some (k, f) =>
      if f.f4 != 0 then none
      else some { kind := k, f := f, bar := bar, tag := b.extractLsb' 128 64, domain := domain, supv := supv, owner := owner, pc := pc }

/-- The command that a block describes for the cell. -/
def State.cmdOf (s : State) (b : BitVec 512) : Option Cmd := cmdFrom s.domain s.supv s.cell.ident.serial (s.path .A).pc b

/-- The agent that runs a command on a queue of a core: its issuing cell's published buffers are reached as their owner
(R133, R248). -/
def cmdAgent (k : CoreId) (q : Fin 4) (c : Cmd) : Agent :=
  { core := k, domain := c.domain, supv := c.supv, text := false, who := some c.owner, seq := q.val, bar := c.bar }

/-- The bytes charged for a command (R133). -/
def State.cmdBytes (s : State) (k : CoreId) (c : Cmd) : Nat := s.opBytes (cmdAgent k 0 c) c.kind c.f

/-- The overflow engine of the die of a core, which reaches the spill ring in domain 0 (R137). -/
def spillAgent (k : CoreId) : Agent := { core := k, domain := 0, supv := true, text := false, who := none }

/-- The address of an entry of a die's spill ring (R137). -/
def State.spillAddr (s : State) (d : DieId) (place : Nat) : Word := plus (s.die d).spillBase (64 * place)

/-- The first entry of a die's spill ring that is free (log entry 27). -/
def State.spillPlace (s : State) (d : DieId) : Nat :=
  ((List.range (s.die d).spillSize.toNat).find? fun i => !(s.die d).spilled.any (·.place == i)).getD 0

/-- A command's block is placed in the spill ring of the die of its queue's core (R137). -/
def State.spill (s : State) (k : CoreId) (q : Fin 4) (c : Cmd) (block : BitVec 512) : State :=
  let d := dieOf k
  let i := s.spillPlace d
  let s := s.setDie d { s.die d with spilled := (s.die d).spilled ++ [{ core := k, queue := q, place := i, cmd := c }] }
  (s.writeC (spillAgent k) (s.spillAddr d i) (recordBytes block)).toOption.getD s

/-- A command for a queue goes to the spill ring (R137). -/
def State.spills (s : State) (k : CoreId) (q : Fin 4) : Bool :=
  16 ≤ (s.queue k q).entries.length || (s.die (dieOf k)).spilled.any fun y => y.core == k && y.queue == q

/-- An entry of a die's spill ring lies behind a channel that is draining (R336). -/
def State.spillDrains (s : State) (k : CoreId) (place : Nat) : Bool := s.behindDrain (spillAgent k) (s.spillAddr (dieOf k) place) 64

/-- The command that a spilled entry's block in the ring holds; one that cannot be read there is as it was accepted (log entry 27). -/
def State.unspill (s : State) (y : Spilled) : Cmd :=
  match s.readC (spillAgent y.core) (s.spillAddr (dieOf y.core) y.place) 64 with
  | .error _ => y.cmd
  | .ok (bs, _) => (cmdFrom y.cmd.domain y.cmd.supv y.cmd.owner y.cmd.pc (BitVec.ofNat 512 (leNat bs))).getD y.cmd

/-- A command is accepted on a queue (R132, R137): into one of its 16 entries, or the spill ring in order; its bytes are
added to its barrier. -/
def State.acceptCmd (s : State) (k : CoreId) (q : Fin 4) (c : Cmd) (block : BitVec 512) : State :=
  let x := s.queue k q
  let n := x.count c.domain
  let x := x.setCount { n with out := n.out + 1 }
  let s := if s.spills k q then (s.setQueue k q x).spill k q c block
    else s.setQueue k q { x with entries := x.entries ++ [c] }
  let s := { s with cmdOwners := s.cmdOwners ++ [c.owner] }
  s.pendAdd (some c.owner) c.bar (s.cmdBytes k c)

/-- The block that A read before it began to wait for a queue's quota (R132). -/
def State.blockRead (s : State) (name : BitVec 11) : Option (BitVec 512) :=
  match (s.run .A).stall with
  | some { why := .quota n b, .. } => if n = name then some b else none
  | _ => none

/-- The block of push and renq is read and checked once, before the wait for the quota (R132); its barrier must lie in a region
that the cell may access (R148). DEDUCED: the test of its space stands where R107 tests the spaces of its own kinds, before the privilege
test of space 0xF and the region test of space 0xA (log entry 35; R132 gives the test no place). -/
def State.readBlock (s : State) (adr : Word) (name : BitVec 11) : Res (BitVec 512 × State) :=
  match s.blockRead name with
  | some b => .ok (b, s)
  | none => do
    let (x, s) ← s.reach adr 64 .tset
    let bs ← liftFlt (s.loadBytes .A adr x 64)
    let s := (s.peerReceipt .A x).touched x 64
    let b : BitVec 512 := BitVec.ofNat 512 (leNat bs)
    match s.cmdOf b with
    | none => raiseAt .launchShape 15 adr
    | some c => do
      liftFlt (s.entryCheck s.domain s.supv c.bar)
      .ok (b, s)

/-- push and renq after the queue is known (R132). -/
def State.enqueue (s : State) (adr : Word) (k : CoreId) (q : Fin 4) (level : Nat) : Res State := do
  let s ← liftFlt (s.performLoads s.flight.loads.length)
  let s := s.perform (fun p => p.serial == s.cell.ident.serial && p.eng == .A) level
  let (b, s) ← s.readBlock adr (queueName k q)
  if s.atQuota k q then .error (.wait (.quota (queueName k q) b) s.qlimit)
  else
    match s.cmdOf b with
    | none => raiseAt .launchShape 15 adr
    | some c =>
      match s.barFlt (some c.owner) c.bar (s.cmdBytes k c) with
      | some f => .error (.fault f)
      | none =>
        if s.spills k q && s.spillDrains k (s.spillPlace (dieOf k)) then .error (.wait .data none)
        else .ok (s.acceptCmd k q c b)

/-- push (R132). -/
def execPush (t : Tok) (a b : Src) (s : State) : Host.Outcome State Fault Refusal :=
  s.issue .A t 2 (Src.uses a ++ Src.uses b) fun s => do
    let (adr, s) ← s.src a
    let (n, s) ← s.src b
    require (n.toNat < 4) .launchShape 14
    s.enqueue adr s.cur.core (Fin.ofNat 4 n.toNat) 1

/-- renq (R132). -/
def execRenq (t : Tok) (a b : Src) (s : State) : Host.Outcome State Fault Refusal :=
  s.issue .A t 2 (Src.uses a ++ Src.uses b) fun s => do
    let (adr, s) ← s.src a
    let (n, s) ← s.src b
    match s.queueNamed n with
    | none => raise .launchShape 14
    | some (k, q) => s.enqueue adr k q 3

/-- The status of a queue as the cell's domain sees it (R136). -/
def State.queueStatus (s : State) (k : CoreId) (q : Fin 4) : Word :=
  let x := s.queue k q
  let n := x.count s.domain
  n.done ++ BitVec.ofNat 16 n.out ++ BitVec.ofBool x.halted ++ 0#2 ++ s.misc.cqquota

/-- qstat (R136). -/
def execQstat (t : Tok) (d : Dst) (a : Src) (s : State) : Host.Outcome State Fault Refusal :=
  s.issue .A t 0 (Src.uses a ++ Dst.uses d) fun s => do
    let (n, s) ← s.src a
    match s.queueNamed n with
    | none => raise .launchShape 14
    | some (k, q) => s.dst d (s.queueStatus k q)

/-! ## Running commands (R133, R139) -/

/-- The bytes of a queue's head leave its barrier, its domain's counts change, and the head leaves the queue. DEDUCED: a command that is
discarded leaves OUT and does not count in DONE (log entry 35; R140 states neither). -/
def State.dropHead (s : State) (k : CoreId) (q : Fin 4) (complete : Bool) : State :=
  let x := s.queue k q
  match x.entries with
  | [] => s
  | c :: rest =>
    let n := x.count c.domain
    let n : CqCount := { n with out := n.out - 1, done := if complete then n.done + 1 else n.done }
    let x := CmdQueue.setCount { x with entries := rest, running := false, p := 0, kept := [], left := 0, halted := false } n
    let s := s.setQueue k q x
    let s := { s with cmdOwners := s.cmdOwners.erase c.owner }
    s.pendAdd (some c.owner) c.bar (-(s.cmdBytes k c : Int))

/-- A command faults (R139): its queue halts and the die's supervisor is notified, with the number of the queue as CELLNO
(log entry 10). -/
def State.haltQueue (s : State) (k : CoreId) (q : Fin 4) (c : Cmd) (f : Flt) : State :=
  let s := s.setQueue k q { s.queue k q with running := false, halted := true }
  let head : BitVec 512 :=
    c.tag ++ BitVec.ofNat 32 q.val ++ c.domain ++ BitVec.ofNat 8 (siteOf k) ++ BitVec.ofNat 1 (dieOf k).val ++ 0#383 ++ 4#8
  s.queueEvent (dieOf k) { head := head, record := trapRecord f .C 0 0 c.supv }

/-- COMMAND_RUN (R133): the command at the head of a queue starts, or goes on from its progress, once its checks pass. -/
def execCommandRun (core : CoreId) (q : Fin 4) (s : State) : Host.Outcome State Fault Refusal :=
  let x := s.queue core q
  match x.entries with
  | [] => .next s
  | c :: _ =>
    if x.running || x.halted || !s.awake then .next s
    else
      match s.opCheck (cmdAgent core q c) false c.kind c.f with
      | .error f => .next (s.haltQueue core q c f)
      | .ok _ => .next (s.setQueue core q { x with running := true, left := s.cmdBytes core c })

/-- The command at the head of a queue has a unit that can be performed (R133, R336). -/
def State.cmdReady (s : State) (k : CoreId) (q : Fin 4) : Bool :=
  let x := s.queue k q
  match x.entries with
  | [] => false
  | c :: _ => s.awake && x.running && x.p < opUnits c.kind c.f && !s.unitHeld (cmdAgent k q c) c.kind c.f x.p

/-- The bytes of that unit (R133). -/
def State.cmdSize (s : State) (k : CoreId) (q : Fin 4) : Nat :=
  let x := s.queue k q
  match x.entries with
  | [] => 0
  | c :: _ => s.unitSize (cmdAgent k q c) c.kind c.f x.p

/-- The next unit of the command that runs on a queue (R133): its energy is charged to its domain. It waits for the drain of a
channel (R336). -/
def State.cmdUnit (s : State) (k : CoreId) (q : Fin 4) : State :=
  let x := s.queue k q
  match x.entries with
  | [] => s
  | c :: _ =>
    if !s.cmdReady k q then s
    else
      match (s.on k).opUnit (cmdAgent k q c) c.kind c.f x.kept x.p with
      | .error f => s.haltQueue k q c f
      | .ok u =>
        let n := piecesCharged (doneBytes c.kind c.f x.p) (doneBytes c.kind c.f u.p)
        let s := u.s.chargeTicks k c.domain (n * u.s.weight c.kind.cls)
        s.setQueue k q { s.queue k q with p := u.p, kept := u.kept }

/-- A command's writes are performed at device scope: those to a peer are acknowledged (R133, R335). -/
def State.cmdAcked (s : State) (k : CoreId) (q : Fin 4) (c : Cmd) : Bool := !s.peerStores.any ((cmdAgent k q c).wrote 0)

/-- COMMAND_COMPLETE (R133): its bytes leave its barrier; an object with uncorrectable data is the datapath-check fault of the command
(R139, R295). -/
def execCommandComplete (core : CoreId) (q : Fin 4) (s : State) : Host.Outcome State Fault Refusal :=
  let x := s.queue core q
  match x.entries with
  | [] => .next s
  | c :: _ =>
    if !(x.running && opUnits c.kind c.f ≤ x.p && s.cmdAcked core q c && s.awake) then .next s
    else
      match s.barFlt (some c.owner) c.bar (s.cmdBytes core c) with
      | some f => .next (s.haltQueue core q c f)
      | none => .next (s.dropHead core q true)

/-- SPILL_REFILL (R137): the oldest spilled command of a queue moves into an entry that is free. -/
def execSpillRefill (core : CoreId) (q : Fin 4) (s : State) : Host.Outcome State Fault Refusal :=
  let x := s.queue core q
  let d := dieOf core
  let mine (y : Spilled) : Bool := y.core == core && y.queue == q
  match (s.die d).spilled.find? mine with
  | none => .next s
  | some y =>
    if 16 ≤ x.entries.length || !s.awake || s.spillDrains core y.place then .next s
    else
      .next ((s.setQueue core q { x with entries := x.entries ++ [s.unspill y] }).setDie d
        { s.die d with spilled := (s.die d).spilled.eraseP mine })

/-! ## CQCTL (R140) -/

/-- A supervisor's write of CQCTL from a die. -/
def State.writeCqctl (s : State) (d : DieId) (v : Word) : State :=
  match coreAt d (v.toNat / 4 % 256) with
  | none => s
  | some k =>
    let q : Fin 4 := Fin.ofNat 4 v.toNat
    let x := s.queue k q
    if !x.halted || v.toNat / 2 ^ 12 != 0 then s
    else
      match v.toNat / 2 ^ 10 % 4 with
      | 1 => s.setQueue k q { x with halted := false, running := false }
      | 2 => s.dropHead k q false
      | _ => s

end Sys2Proof.Machine
end

