-- ==== Sys2Proof/Machine/Barrier.lean ====
section
/-! DEFINITION. Ordering, publication and barrier objects: mark (R246), pub (R249), bar.init, bar.arr, bar.add, bar.wait,
bar.test (R252-R259), ltrig (R91). -/

namespace Sys2Proof.Machine

/-! ## mark, ltrig and pub -/

/-- Every access ordered before A's next instruction is performed at a scope, peer stores acknowledged where the scope reaches
peers (R245, R246, R335). -/
def State.waitScope (s found : State) (scope : Nat) : Res State := do
  let s ← liftFlt (s.drainKnown .A (scope + 1))
  if 3 ≤ scope then s.peersAcked found s.knowsPeer
  .ok s

/-- mark (R246). -/
def execMark (t : Tok) (scope : BitVec 3) (s : State) : Host.Outcome State Fault Refusal :=
  s.issue .A t 2 [] fun s' => s'.waitScope s scope.toNat

/-- ltrig (R91). -/
def execLtrig (t : Tok) (s : State) : Host.Outcome State Fault Refusal :=
  s.issue .A t 2 [] fun s' => do
    let s' ← liftFlt (s'.drainKnown .A 3)
    s'.peersAcked s s'.knowsPeer
    let e : W32 := s'.cell.ident.record.extractLsb' 96 32
    match if s'.cell.ident.done then none else s'.barFlt s'.me e 1 with
    | some f => .error (.fault f)
    | none => .ok s'.doneArrival

/-- The stretches of locations that n bytes from an address have for an agent, page by page, but for pages that it may not reach. -/
def State.spots (s : State) (g : Agent) (p : Word) (n : Nat) : Nat → List (Nat × Nat)
  | 0 => []
  | fuel + 1 =>
    if n = 0 then []
    else
      let k := Nat.min n (65536 - p.toNat % 65536)
      let rest := s.spots g (plus p k) (n - k) fuel
      match s.pieceC g p k .store with
      | .ok (x, _) => (s.home x, k) :: rest
      | .error _ => rest

/-- A command of a queue of a core may still write to the shadow of a buffer: its destination reaches the shadow through any address;
a scatter may write anywhere (R248, R249). -/
def State.cmdReaches (s : State) (b : Pub) (k : CoreId) (c : Cmd) : Bool :=
  let n := s.cmdBytes k c
  c.owner == b.owner
    && (c.kind == .scat || (s.spots (cmdAgent k 0 c) c.f.f1 n (n / 65536 + 2)).any fun x =>
      (s.shadowSpots b).any fun y => overlap x.1 x.2 y.1 y.2)

/-- A command that the cell has had accepted may still write to a slot's shadow (R249). -/
def State.cmdWrites (s : State) (k : Fin 8) : Bool :=
  match s.pubOf k with
  | none => false
  | some b =>
    s.cmdOwners.contains s.cell.ident.serial
      && (((List.finRange 392).any fun k => s.cores[k].cq.toList.any fun q => q.entries.any (s.cmdReaches b k))
        || s.dies.toList.any fun d => d.spilled.any fun x => s.cmdReaches b x.core x.cmd)

/-- pub (R249). -/
def execPub (t : Tok) (a : Src) (scope : BitVec 3) (s : State) : Host.Outcome State Fault Refusal :=
  s.issue .A t 2 (Src.uses a) fun s' => do
    let (v, s') ← s'.src a
    require (v.toNat ≤ 7) .shape 0x540
    let k : Fin 8 := Fin.ofNat 8 v.toNat
    let p := s'.cell.slots[k]
    require p.en .shape (0x548 + k.val)
    require (!p.lc) .shape (0x550 + k.val)
    let counted := scope.toNat == 4 && p.ver != 0
    let (x, s') ← if counted then s'.reach p.ver 8 .store else .ok (0, s')
    let s' ← s'.waitScope s scope.toNat
    if s'.cmdWrites k then .error (.wait .unit none)
    else if !counted then .ok (s'.publish k scope.toNat)
    else
      let _ ← liftFlt (s'.loadBytes .A p.ver x 8)
      liftFlt ((s'.publish k scope.toNat).countVersion p.ver x)

/-! ## The arrival table and the barrier log (R255, R259) -/

/-- The oldest credit of a kind for an object. -/
def State.creditOf (s : State) (obj : Word) (kind : LogKind) : Option LogEntry :=
  s.cell.blog.find? fun e => e.credit && e.obj == obj && e.kind == kind

/-- The first entry of a list that satisfies a test replaced. -/
def replaceFirst {α : Type} (test : α → Bool) (y : α) : List α → List α
  | [] => []
  | x :: xs => if test x then y :: xs else x :: replaceFirst test y xs

/-- The oldest credit of a kind for an object is consumed: it is an entry of the log again, with a value. -/
def State.consume (s : State) (e : LogEntry) (value : Word) : State :=
  s.setCell { s.cell with
    blog := replaceFirst (fun x => x == e) { e with credit := false, value := value } s.cell.blog }

/-- An operation without a credit needs a free entry of the log. -/
def State.logRoom (s : State) : Res Unit := require (s.cell.blog.length < 32) .launchShape 18

/-- An entry appended to the log. -/
def State.logAdd (s : State) (obj : Word) (kind : LogKind) (value : Word) : State :=
  s.setCell { s.cell with blog := s.cell.blog ++ [{ obj := obj, kind := kind, value := value, credit := false }] }

/-- The arrival-table entry of an object, replaced or added (R255). -/
def State.setArrival (s : State) (obj : Word) (g : BitVec 32) : State :=
  s.setRoll { s.roll with arrivals := (s.roll.arrivals.filter fun e => e.1 != obj) ++ [(obj, g)] }

/-- A cell of a multi-wave launch may not use an object that its launch initialised (R92, R255). -/
def State.launchOk (s : State) (o : BarObj) : Res Unit :=
  let id := s.cell.ident
  require (!(o.lv && o.launch == launchBits id.handle && id.multiWave)) .launchShape 13

/-- The object at a checked location as an operation of A finds it at its bank, where the cell's accesses reach it (R248), after every
earlier load of A (R261); uncorrectable data is the datapath-check fault (R295). -/
def State.objectHere (s : State) (p : Word) (x : Nat) : Res (BarObj × State) := do
  let s ← liftFlt (s.performLoads s.flight.loads.length)
  let o := s.obs .A p
  let y := s.land s.me x
  let s := s.settle o y 32
  match s.poisoned o y 32 with
  | some g => .error (.fault (poisonFlt p (g - y) g Eng.A.code))
  | none => .ok (s.barObj o y, s)

/-- An object for an operation that checks it: malformed is the shape fault 0x560. -/
def State.objectAt (s : State) (p : Word) (x : Nat) : Res (BarObj × State) := do
  let (o, s) ← s.objectHere p x
  if o.malformed then raiseAt .shape 0x560 p else .ok (o, s)

/-- An operation of A on the object at a checked location. -/
def State.changeObj (s : State) (p : Word) (x : Nat) (f : BarObj → BarObj) : State :=
  (s.markWritten s.me x).updateObj (s.obs .A p) (s.land s.me x) f

/-! ## bar.init, bar.arr and bar.add -/

/-- An object as bar.init leaves it (R254). -/
def BarObj.init (o : BarObj) (w : Word) (handle : Word) : BarObj :=
  { o with
    pend := 0, expect := w.extractLsb' 0 32, arrived := 0, timeout := (w.extractLsb' 35 29).setWidth 32,
    launch := launchBits handle, lv := true, scope := w.extractLsb' 32 3, tout := false }

/-- bar.init (R254, R259). -/
def execBarInit (t : Tok) (a b : Src) (s : State) : Host.Outcome State Fault Refusal :=
  s.issue .A t 2 (Src.uses a ++ Src.uses b) fun s => do
    let (p, s) ← s.src a
    let (w, s) ← s.src b
    let (x, s) ← s.reach p 32 .barrier
    requireAt (w.extractLsb' 0 32 != 0 && (w.extractLsb' 32 3).toNat ≤ 4) .shape 0x561 p
    match s.creditOf p .init with
    | some e => .ok (s.consume e 0)
    | none =>
      s.logRoom
      let (_, s) ← s.objectHere p x
      let s := s.changeObj p x fun o => o.init w s.cell.ident.handle
      .ok (s.logAdd p .init 0)

/-- C has walked past the word that A executes (R255). -/
def State.cPast (s : State) : Bool :=
  (s.path .C).halted || (s.path .A).walk + (s.path .A).exts.length + 1 ≤ (s.path .C).walk

/-- bar.arr (R255, R259): the arrival is a send, and carries its beat (R351). -/
def execBarArr (t : Tok) (a : Src) (s : State) : Host.Outcome State Fault Refusal :=
  s.issue .A t 2 (Src.uses a) fun s' => do
    let (p, s') ← s'.src a
    let (x, s') ← s'.reach p 32 .barrier
    let known := s'.roll.arrivals.any fun e => e.1 == p
    require (known || s'.roll.arrivals.length < 8) .launchShape 16
    if !s'.cPast then .error (.wait .unit none)
    else
      let s' ← s'.waitScope s (Nat.min 4 (s'.barObj (s'.obs .A p) (s'.land s'.me x)).scope.toNat)
      match s'.creditOf p .arr with
      | some e => .ok ((s'.consume e e.value).setArrival p (e.value.setWidth 32))
      | none =>
        s'.logRoom
        let (o, s') ← s'.objectAt p x
        s'.launchOk o
        let s' := s'.send .A
        let s' := s'.arriveBeat (s'.land s'.me x) (s'.run .A).beat
        let s' := s'.changeObj p x fun o => { o with arrived := o.arrived + 1 }
        .ok ((s'.logAdd p .arr (o.gen.setWidth 64)).setArrival p o.gen)

/-- bar.add (R256, R259). -/
def execBarAdd (t : Tok) (a b : Src) (s : State) : Host.Outcome State Fault Refusal :=
  s.issue .A t 2 (Src.uses a ++ Src.uses b) fun s => do
    let (p, s) ← s.src a
    let (v, s) ← s.src b
    let (x, s) ← s.reach p 32 .barrier
    let add (s : State) (n : Word) : State := s.changeObj p x fun o => { o with pend := o.pend + n }
    match s.creditOf p .add with
    | some e =>
      let (_, s) ← s.objectHere p x
      .ok ((add s (v - e.value)).consume e v)
    | none =>
      s.logRoom
      let (_, s) ← s.objectAt p x
      .ok ((add s v).logAdd p .add v)

/-! ## bar.wait and bar.test -/

/-- The record of a bar.wait that timed out (R257, R290). -/
def timeoutFlt (p : Word) (o : BarObj) : Flt :=
  { kind := .barrierTimeout, code := 0, addr := p, info := o.expect ++ o.arrived, info2 := o.pend }

/-- The generation from which a bar.wait on an object waits (R257). -/
def State.waitFrom (s : State) (p : Word) : BitVec 32 := (s.roll.arrivals.lookup p).getD s.misc.waitGen

/-- One attempt of bar.wait, which began at a time (R257). -/
def State.barWait (s found : State) (a : Src) (since : Nat) : Res State := do
  let (p, s) ← s.src a
  let (x, s) ← s.reach p 32 .barrier
  let (o, s) ← s.objectAt p x
  s.launchOk o
  if o.gen != s.waitFrom p then
    let s := s.receive .A (s.objBeats (s.land s.me x)).2 Known.none
    let s := s.sample s.dieId 5 s.domain (s.now - since)
    .ok (s.setRoll { s.roll with arrivals := s.roll.arrivals.filter fun e => e.1 != p })
  else if o.timeout != 0 && o.timeout.toNat * Config.cyclesPerUs ≤ s.now - since then
    .error (.faultIn (found.changeObj p x fun o => { o with tout := true }) (timeoutFlt p o))
  else
    .error (.waitIn (if o.timeout = 0 then found else found.setMisc { found.misc with waitTimed := some found.now }) .barWait none)

/-- The generation that a bar.wait reads first is kept while it waits. -/
def State.firstRead (s : State) (a : Src) : State :=
  let look : Res (BitVec 32) := do
    let (p, s) ← s.src a
    let (x, s) ← s.reach p 32 .barrier
    let (o, _) ← s.objectHere p x
    .ok o.gen
  let waits : Bool := match (s.run .A).stall with
    | some st => st.why == .barWait
    | none => false
  match waits, look with
  | false, .ok g => s.setMisc { s.misc with waitGen := g }
  | _, _ => s

/-- bar.wait (R257). -/
def execBarWait (t : Tok) (a : Src) (s : State) : Host.Outcome State Fault Refusal :=
  let since := s.stallSince .A .barWait
  let s := s.uncountWait.firstRead a
  s.issue .A t 2 (Src.uses a) fun s' => s'.barWait s a since

/-- The status that bar.test gives (R258). -/
def State.barStatus (s : State) (p : Word) (o : BarObj) : Word :=
  let e := s.roll.arrivals.lookup p
  let done := match e with
    | some g => o.gen != g
    | none => false
  BitVec.ofBool done ++ BitVec.ofBool e.isSome ++ BitVec.ofBool (o.pend.getLsbD 63) ++ BitVec.ofBool o.tout ++ 0#28 ++ o.gen

/-- bar.test (R258). -/
def execBarTest (t : Tok) (d : Dst) (a : Src) (s : State) : Host.Outcome State Fault Refusal :=
  s.issue .A t 2 (Src.uses a ++ Dst.uses d) fun s => do
    let (p, s) ← s.src a
    let (x, s) ← s.reach p 32 .barrier
    let (o, s) ← s.objectAt p x
    s.dst d (s.barStatus p o)

end Sys2Proof.Machine
end

