-- ==== Sys2Proof/Machine/Branch.lean ====
section
/-! DEFINITION. Steering words: conditional branches of A and V, jmp, call and ret, as their owner and as the other
engines act on them (R25, R26, R94, R95, R106, R190). -/

namespace Sys2Proof.Machine

/-- The target of a steering word: its own address plus four times the offset (R26). -/
def State.target (s : State) (e : Eng) (off : Word) : Word := s.hostPc e + off * 4

/-- An outcome bit pushed into the queues of the other four engines (R94). -/
def State.pushOutcome (s : State) (owner : Eng) (b : Bool) : State :=
  let add (e : Eng) (p : Path) : Path := if e = owner then p else { p with outs := p.outs ++ [b] }
  let p := s.roll.paths
  s.setRoll { s.roll with paths := ⟨add .A p.a, add .C p.c, add .M p.m, add .V p.v, add .F p.f⟩ }

/-- Every other engine's outcome queue has room (R94). -/
def State.outcomeRoom (s : State) (owner : Eng) : Bool :=
  Eng.all.all fun e => e == owner || (s.path e).outs.length < 64

/-- An outcome bit that C or F has taken is remembered by its operations in flight, which give it back if they fault. -/
def State.ate (s : State) (e : Eng) (b : Bool) : State :=
  match e with
  | .C => s.setFlight { s.flight with cops := s.flight.cops.map fun o => { o with eaten := o.eaten ++ [b] } }
  | .F => s.setFlight { s.flight with fop := s.flight.fop.map fun o => { o with eaten := o.eaten ++ [b] } }
  | _ => s

/-- An engine that does not own a conditional steering word: it waits for the owner's bit and follows it (R94). -/
def State.followCond (s : State) (off : Word) : Host.Outcome State Fault Refusal :=
  let e := s.cur.eng
  let p := s.path e
  match p.outs with
  | [] => .next (s.stallAt e .outcome none)
  | b :: rest =>
    .next (((s.setPath e { p with outs := rest }).ate e b).advance e (if b then s.target e off else s.nextPc e))

/-- The owner of a conditional steering word (R94): its own test, the outcome pushed, and its path. -/
def State.ownCond (s : State) (e : Eng) (t : Tok) (cls : Fin 16) (uses : List (Fin 16 × Bool)) (off : Word)
    (test : State → Res (Bool × State)) : Host.Outcome State Fault Refusal :=
  s.settleIssue e do
    s.bindAll e uses
    let (_, s) ← s.takeTokens e t
    let (b, s) ← test s
    if !s.outcomeRoom e then .error (.wait .outFull none)
    else .ok ((s.pushOutcome e b).retireTo e t cls 1 (if b then s.target e off else s.nextPc e))

/-- A conditional branch of A (R106). -/
def State.branchA (s : State) (t : Tok) (a : Src) (off : Word) (test : Word → Bool) : Host.Outcome State Fault Refusal :=
  if s.cur.eng = .A then
    s.ownCond .A t 0 (Src.uses a) off fun s => do
      let (v, s) ← s.src a
      .ok (test v, s)
  else s.followCond off

/-- beq (R106). -/
def execBeq (t : Tok) (a : Src) (off : Word) (s : State) : Host.Outcome State Fault Refusal :=
  s.branchA t a off fun v => v == 0

/-- bne (R106). -/
def execBne (t : Tok) (a : Src) (off : Word) (s : State) : Host.Outcome State Fault Refusal :=
  s.branchA t a off fun v => v != 0

/-- blt (R106). -/
def execBlt (t : Tok) (a : Src) (off : Word) (s : State) : Host.Outcome State Fault Refusal :=
  s.branchA t a off fun v => v.toInt < 0

/-- bge (R106). -/
def execBge (t : Tok) (a : Src) (off : Word) (s : State) : Host.Outcome State Fault Refusal :=
  s.branchA t a off fun v => 0 ≤ v.toInt

/-- bgt (R106). -/
def execBgt (t : Tok) (a : Src) (off : Word) (s : State) : Host.Outcome State Fault Refusal :=
  s.branchA t a off fun v => 0 < v.toInt

/-- ble (R106). -/
def execBle (t : Tok) (a : Src) (off : Word) (s : State) : Host.Outcome State Fault Refusal :=
  s.branchA t a off fun v => v.toInt ≤ 0

/-- The lane condition of v.br over a tile (R32, R190). -/
def condHolds (c : VCond) (x : Tile) : Bool :=
  match c with
  | .any => x.toList.any fun w => w != 0
  | .all => x.toList.all fun w => w != 0
  | .none => x.toList.all fun w => w == 0
  | .nall => x.toList.any fun w => w == 0

/-- v.br (R190). -/
def execVBr (t : Tok) (a : Fin 16) (c : VCond) (off : Word) (s : State) : Host.Outcome State Fault Refusal :=
  if s.cur.eng = .V then
    s.ownCond .V t 7 [] off fun s => do
      s.tileOk .V a false
      .ok (condHolds c (s.tile a), s)
  else s.followCond off

/-- jmp (R106): it carries no outcome bit, so every engine follows it on its own. -/
def execJmp (t : Tok) (off : Word) (s : State) : Host.Outcome State Fault Refusal :=
  let e := s.cur.eng
  if e = .A then
    s.settleIssue .A do
      let (_, s) ← s.takeTokens .A t
      .ok (s.retireTo .A t 0 1 (s.target .A off))
  else .next (s.advance e (s.target e off))

/-- The return address pushed on an engine's hidden link stack (R95). -/
def State.pushLink (s : State) (e : Eng) (ra : Word) : State :=
  s.setPath e { s.path e with links := ra :: (s.path e).links }

/-- An engine other than A stands at a call or ret until A has passed it (R25, R95). -/
def State.behindA (s : State) : Bool := (s.path s.cur.eng).walk < (s.path .A).walk

/-- call (R95). DEDUCED: an engine other than A stands at it until A has passed it, since A's link-depth fault leaves the other engines at the
word (log entry 35; R95 names no wait there). -/
def execCall (t : Tok) (off : Word) (s : State) : Host.Outcome State Fault Refusal :=
  let e := s.cur.eng
  if e = .A then
    s.settleIssue .A do
      let (_, s) ← s.takeTokens .A t
      if s.xBusy 31 then .error (.wait .data none)
      else
        require ((s.path .A).links.length < 16) .linkDepth 1
        let ra := s.nextPc .A
        .ok (((s.pushLink .A ra).setX 31 ra).retireTo .A t 0 1 (s.target .A off))
  else if s.behindA then .next ((s.pushLink e (s.nextPc e)).advance e (s.target e off))
  else .next (s.stallAt e .hold none)

/-- ret (R95): A continues only where x31 equals the address it pops. -/
def execRet (t : Tok) (s : State) : Host.Outcome State Fault Refusal :=
  let e := s.cur.eng
  if e = .A then
    s.settleIssue .A do
      let (_, s) ← s.takeTokens .A t
      if s.xBusy 31 then .error (.wait .data none)
      else
        match (s.path .A).links with
        | [] => raise .linkDepth 2
        | ra :: rest =>
          require (s.x 31 == ra) .linkDepth 3
          .ok ((s.setPath .A { s.path .A with links := rest }).retireTo .A t 0 1 ra)
  else if s.behindA then
    match (s.path e).links with
    | [] => .next (s.stallAt e .hold none)
    | ra :: rest => .next ((s.setPath e { s.path e with links := rest }).advance e ra)
  else .next (s.stallAt e .hold none)

end Sys2Proof.Machine
end

