-- ==== Sys2Proof/Machine/Context.lean ====
section
/-! DEFINITION. Context records and segment moves (R264-R269, R277), and the layer rollback (R273, R274, R296, R297). -/

namespace Sys2Proof.Machine

/-! ## Context records (R264-R269) -/

/-- A context record. -/
structure CtxRec where
  adr : Word
  segtab : Word
  stubtab : Word
  resbase : Word
  slotmap : Word
  theta : W32
  ctxno : BitVec 16
  limit : Nat
  rcount : Nat
  nseg : Nat
  layers : Nat
  heads : Nat
  dim : Nat
  kfmt : Nat
  sexp : Nat
  resv : BitVec 95

/-- The fields of a record's 64 bytes (R264). -/
def ctxRecOf (adr : Word) (b : BitVec 512) : CtxRec :=
  { adr := adr, segtab := b.extractLsb' 448 64, stubtab := b.extractLsb' 384 64, resbase := b.extractLsb' 320 64,
    slotmap := b.extractLsb' 256 64, theta := b.extractLsb' 224 32, ctxno := b.extractLsb' 208 16,
    limit := (b.extractLsb' 192 16).toNat, rcount := (b.extractLsb' 176 16).toNat, nseg := (b.extractLsb' 144 32).toNat,
    layers := (b.extractLsb' 128 16).toNat, heads := (b.extractLsb' 120 8).toNat, dim := (b.extractLsb' 104 16).toNat,
    kfmt := (b.extractLsb' 99 5).toNat, sexp := (b.extractLsb' 95 4).toNat, resv := b.extractLsb' 0 95 }

/-- An address lies in one of some spaces, aligned. -/
def inSpaces (p : Word) (spaces : List Nat) (align : Nat) : Bool := spaces.contains (spaceOf p) && p.toNat % align == 0

/-- The first failing check of a record after the first (R269). -/
def CtxRec.bad (r : CtxRec) : Option Nat :=
  if r.resv != 0 then some 2
  else if !(inSpaces r.segtab [0, 0xA] 16 && inSpaces r.stubtab [0] 64 && inSpaces r.resbase [0] 64
      && inSpaces r.slotmap [0, 0xA] 8) then some 3
  else if r.sexp < 2 || 12 < r.sexp || !(r.kfmt == 23 || r.kfmt == 24 || r.kfmt == 26) then some 4
  else if r.limit == 0 || 4096 < r.limit || r.nseg == 0 || 2 ^ 24 < r.nseg || r.layers == 0 || 4096 < r.layers
      || r.heads == 0 || r.dim < 16 || 1024 < r.dim || r.dim % 16 != 0 then some 5
  else if r.limit < r.rcount then some 6
  else none

/-- KB of a record (R266). -/
def CtxRec.keyBytes (r : CtxRec) : Nat := r.dim * (if r.kfmt == 26 then 4 else 2)

/-- ES of a record (R266). -/
def CtxRec.stubBytes (r : CtxRec) : Nat := pad64 (64 + r.keyBytes)

/-- BB of a record (R267). -/
def CtxRec.blockBytes (r : CtxRec) : Nat := 2 * 2 ^ r.sexp * r.keyBytes

/-- Blocks of a segment (R267). -/
def CtxRec.blocks (r : CtxRec) : Nat := r.layers * r.heads

/-- The address of resident slot i (R267). -/
def CtxRec.slotAt (r : CtxRec) (i : Nat) : Word := plus r.resbase (i * (r.blocks * r.blockBytes))

/-- The address of descriptor j (R265). -/
def CtxRec.descAt (r : CtxRec) (j : Nat) : Word := plus r.segtab (16 * j)

/-- The word of SLOTMAP that holds a slot's bit. -/
def CtxRec.mapAt (r : CtxRec) (i : Nat) : Word := plus r.slotmap (i / 64 * 8)

/-- Bytes that A reads as a load (R107), after its earlier loads. -/
def State.readRecord (s : State) (p : Word) (n : Nat) : Res (List Byte × State) := do
  let (x, s) ← s.reach p n .load
  let bs ← liftFlt (s.loadBytes .A p x n)
  .ok (bs, (s.peerReceipt .A x).touched x n)

/-- The record at an address, read and checked (R269). -/
def State.ctxRecord (s : State) (adr : Word) : Res (CtxRec × State) := do
  require (inSpaces adr [0, 0xA] 64) .shape 0x601
  let s ← liftFlt (s.performLoads s.flight.loads.length)
  let (bs, s) ← s.readRecord adr 64
  let r := ctxRecOf adr (BitVec.ofNat 512 (leNat bs))
  match r.bad with
  | some c => raiseAt .shape (0x600 + c) adr
  | none => .ok (r, s)

/-- A swr of CTXREC (R269): with a nonzero value the record is checked, and SMTHETA and SMTAG.CTX are loaded from it. -/
def State.writeCtxrec (s : State) (v : Word) : Res State := do
  if v = 0 then .ok (s.setCtx { s.cell.ctx with ctxrec := 0 })
  else
    let (r, s) ← s.ctxRecord v
    let s := s.setMisc { s.misc with smtheta := r.theta, smtag := r.ctxno ++ s.misc.smtag.extractLsb' 0 24 }
    .ok (s.setCtx { s.cell.ctx with ctxrec := v })

/-- A swr of CKSLOT (R268). -/
def State.writeCkslot (s : State) (v : Word) : Res State := do
  let v := v &&& 0x7FF001FFFFF
  let (off, n) := ckRegionOf v
  require (off % 64 == 0 && n ≤ 65536 && (n == 0 || off + n ≤ 0x17F000)) .shape 0x620
  .ok (s.setCtx { s.cell.ctx with ckslot := v })

/-! ## sgin and sgout (R277) -/

/-- The TIER addresses of n blocks of a segment, from block i; a bad one is the shape fault 0x611. -/
def State.tiers (s : State) (r : CtxRec) (j i : Nat) : Nat → Res (List Word × State)
  | 0 => .ok ([], s)
  | n + 1 => do
    let p := plus r.stubtab ((j * r.blocks + i) * r.stubBytes)
    let (bs, s) ← s.readRecord p 8
    let t := leWord bs
    if !inSpaces t [0] 64 then raiseAt .shape 0x611 p
    else
      let (rest, s) ← s.tiers r j (i + 1) n
      .ok (t :: rest, s)

/-- Every page of each of some blocks translated for an access. -/
def State.touchAll (s : State) (a : Acc) (n : Nat) : List Word → Res State
  | [] => .ok s
  | p :: ps => do
    let (_, s) ← liftFlt (s.range s.textAgent p n a)
    s.touchAll a n ps

/-- The lowest slot below a limit whose bit of SLOTMAP is 0, searched from slot i for n slots. -/
def State.freeSlot (s : State) (r : CtxRec) (i : Nat) : Nat → Res (Option Nat)
  | 0 => .ok none
  | n + 1 => do
    let (bs, _) ← s.readRecord (r.mapAt i) 8
    if (leNat bs).testBit (i % 64) then s.freeSlot r (i + 1) n else .ok (some i)

/-- A word changed at its home by A, atomically, as part of the one step of R277. -/
def State.rmwA (s : State) (p : Word) (f : Nat → Nat) : Res State := do
  let (_, s) ← s.atomic p 8 fun v => some (f v)
  .ok s

/-- The state of a descriptor's first word. -/
def descState (v : Nat) : Nat := v / 2 ^ 18 % 4

/-- A descriptor's first word with a state, a slot and, where asked, DIRTY cleared. -/
def descWith (v st slot : Nat) (clean : Bool) : Nat :=
  v / 2 ^ 20 * 2 ^ 20 + st * 2 ^ 18 + (if clean then 0 else v / 2 ^ 16 % 4 * 2 ^ 16) + slot

/-- A bit of a word set or cleared. -/
def withBit (v i : Nat) (b : Bool) : Nat := if v.testBit i == b then v else if b then v + 2 ^ i else v - 2 ^ i

/-- RCOUNT, bits 63:48 of a record's third word, changed by one (R264). -/
def rcountBy (v : Nat) (up : Bool) : Nat := (if up then v + 2 ^ 48 else v + 2 ^ 64 - 2 ^ 48) % 2 ^ 64

/-- The status word of sgin and sgout. -/
def segStatus (st slot : Nat) : Word := BitVec.ofNat 64 (st * 2 ^ 62 + slot)

/-- A segment copy starts: its bytes are charged to the barrier. -/
def State.startSeg (s : State) (r : CtxRec) (inward move : Bool) (j slot : Nat) (tiers : List Word) (bar : W32) : State :=
  let c : SegCopy :=
    { owner := s.cell.ident.serial, core := s.cur.core, domain := s.domain, supv := s.supv, ctxrec := r.adr, seg := j,
      slot := slot, inward := inward, move := move, blockBytes := r.blockBytes, unit := 0, tiers := tiers,
      resBase := r.slotAt slot, bar := bar, since := s.now, pc := (s.path .A).pc }
  let s : State := { s with segs := s.segs ++ [c] }
  if move then s.pendAdd s.me bar (r.blocks * r.blockBytes) else s

/-- The descriptor step of sgin (R277). -/
def State.stepIn (s : State) (r : CtxRec) (j : Nat) (tiers : List Word) (bar : W32) : Res (Word × State) := do
  let (v, s) ← s.atomic (r.descAt j) 8 fun _ => none
  if descState v != 0 then .ok (segStatus 1 (v % 2 ^ 16), s)
  else
    let (rc, s) ← s.readRecord (plus r.adr 16) 8
    if leNat rc / 2 ^ 48 == r.limit then .ok (segStatus 2 0, s)
    else
      match ← s.freeSlot r 0 r.limit with
      | none => raiseAt .shape 0x612 r.adr
      | some i =>
        let s ← s.rmwA (r.descAt j) fun v => descWith v 1 i false
        let s ← s.rmwA (r.mapAt i) fun v => withBit v (i % 64) true
        let s ← s.rmwA (plus r.adr 16) fun v => rcountBy v true
        .ok (segStatus 0 i, s.startSeg r true true j i tiers bar)

/-- The descriptor step of sgout (R277). -/
def State.stepOut (s : State) (r : CtxRec) (j : Nat) (tiers : List Word) (bar : W32) : Res (Word × State) := do
  let (v, s) ← s.atomic (r.descAt j) 8 fun _ => none
  if descState v != 2 then .ok (segStatus 1 0, s)
  else if v / 2 ^ 48 != 0 then .ok (segStatus 2 0, s)
  else
    let i := v % 2 ^ 16
    let s ← s.rmwA (r.descAt j) fun v => descWith v 3 i false
    .ok (segStatus 0 i, s.startSeg r false (v.testBit 17) j i tiers bar)

/-- sgin and sgout (R277). -/
def State.segMove (s : State) (inward : Bool) (t : Tok) (d : Dst) (a b : Src) : Host.Outcome State Fault Refusal :=
  s.issue .A t 2 (Src.uses a ++ Src.uses b ++ Dst.uses d) fun s => do
    let (adr, s) ← s.src a
    let (arg, s) ← s.src b
    let (r, s) ← s.ctxRecord adr
    let j := arg.toNat % 2 ^ 32
    let bar : W32 := arg.extractLsb' 32 32
    if r.nseg ≤ j then raiseAt .shape 0x610 adr
    else
      require (!entryBad bar true) .launchShape 9
      liftFlt (s.entryCheck s.domain s.supv bar)
      let (tiers, s) ← s.tiers r j 0 r.blocks
      let slots := (List.range r.limit).map r.slotAt
      let s ← s.touchAll (if inward then .load else .store) r.blockBytes tiers
      let s ← s.touchAll (if inward then .store else .load) (r.blocks * r.blockBytes) slots
      let s ← liftFlt (s.drainKnown .A 3)
      s.dstReady d
      match s.barFlt s.me bar (r.blocks * r.blockBytes) with
      | some f => .error (.fault f)
      | none => .ok ()
      let (v, s) ← if inward then s.stepIn r j tiers bar else s.stepOut r j tiers bar
      s.dst d v

/-- sgin (R277). -/
def execSgin (t : Tok) (d : Dst) (a b : Src) (s : State) : Host.Outcome State Fault Refusal := s.segMove true t d a b

/-- sgout (R277). -/
def execSgout (t : Tok) (d : Dst) (a b : Src) (s : State) : Host.Outcome State Fault Refusal := s.segMove false t d a b

/-! ## The copy -/

/-- The core whose cell has a serial. -/
def State.coreOf (s : State) (serial : Nat) : Option CoreId :=
  (List.finRange 392).find? fun k => s.cores[k].cell.ident.serial == serial

/-- A cell with a serial changed, where it holds a core or has a switch image. -/
def State.mapCell (s : State) (serial : Nat) (f : Cell → Cell) : State :=
  match s.coreOf serial with
  | some k => { s with cores := s.cores.set k { s.cores[k] with cell := f s.cores[k].cell } }
  | none =>
    { s with dies := s.dies.map fun d => { d with images := d.images.map fun i =>
        if i.cell.ident.serial == serial then { i with cell := f i.cell } else i } }

/-- Chunks of a block of a segment (R133). -/
def SegCopy.perBlock (c : SegCopy) : Nat := (c.blockBytes + 4095) / 4096

/-- Chunks of a copy. -/
def SegCopy.units (c : SegCopy) : Nat := if c.move then c.tiers.length * c.perBlock else 0

/-- The agent that performs a copy (R277); its count tells the copies of a core apart. -/
def SegCopy.agent (c : SegCopy) : Agent :=
  { core := c.core, domain := c.domain, supv := c.supv, text := false, who := some c.owner,
    seq := 4 + 2 ^ 40 * (2 ^ 64 * c.owner + c.ctxrec.toNat) + 2 ^ 16 * c.seg + c.slot, bar := c.bar }

/-- Source, destination and bytes of the next chunk of a copy. -/
def SegCopy.chunk (c : SegCopy) : Word × Word × Nat :=
  let b := c.unit / c.perBlock
  let off := c.unit % c.perBlock * 4096
  let tier := plus (c.tiers.getD b 0) off
  let slot := plus c.resBase (b * c.blockBytes + off)
  let n := Nat.min 4096 (c.blockBytes - off)
  if c.inward then (tier, slot, n) else (slot, tier, n)

/-- The locations of the granules of checked pieces. -/
def granulesOf (ps : List (Nat × Nat)) : List Nat :=
  ps.flatMap fun p => (List.range (p.2 / 8)).map fun i => p.1 + 8 * i

/-- A cell takes a datapath-check fault of a segment copy: at once where it runs, else at its resume (R277). -/
def State.segFault (s : State) (serial : Nat) (f : Flt) : State :=
  match s.coreOf serial with
  | some k =>
    let t := s.on k
    if t.working && !t.excluded then t.fault .A f else s.mapCell serial fun c => { c with owed := some f }
  | none => s.mapCell serial fun c => { c with owed := some f }

/-- One chunk of a copy (R277): uncorrectable granules are copied poisoned, and the cell takes the fault. -/
def State.segChunk (s : State) (c : SegCopy) : State :=
  let g := c.agent
  let (src, dst, n) := c.chunk
  match s.range g src n .load with
  | .error _ => s
  | .ok (ps, s) =>
    match s.range g dst n .store with
    | .error _ => s
    | .ok (qs, s) =>
      let from_ := granulesOf ps
      let bad := from_.map fun x => (s.badAt (g.obs src) g.who x 8).isSome
      let bs := from_.flatMap fun x => s.readAt (g.obs src) g.who x 8
      let s := s.touchPieces g ps
      let s := s.writePieces g dst bs qs
      let s := ((granulesOf qs).zip bad).foldl (fun s p => if p.2 then s.addPoison (s.land g.who p.1) else s) s
      let flt := (s.barFlt g.who g.bar n).or
        (((from_.zip bad).zipIdx.find? fun y => y.1.2).map fun y => poisonFlt (plus src (8 * y.2)) 0 y.1.1 6)
      let s := s.deliveredBy 0 g n
      let s := s.chargeTicks c.core c.domain (n / 64 * s.weight 3)
      match flt with
      | none => s
      | some f => s.segFault c.owner f

/-- The k-th segment copy, where it runs on a core. -/
def State.segAt (s : State) (core : CoreId) (k : Nat) : Option SegCopy :=
  match s.segs[k]? with
  | some c => if c.core == core then some c else none
  | none => none

/-- The k-th segment copy runs on a core and has a chunk that can be copied, which waits for the drain of a channel (R336). -/
def State.segReady (s : State) (core : CoreId) (k : Nat) : Bool :=
  match s.segAt core k with
  | none => false
  | some c =>
    let (src, dst, n) := c.chunk
    s.awake && c.unit < c.units && !s.behindDrain c.agent src n && !s.behindDrain c.agent dst n

/-- The next chunk of a segment copy. -/
def State.segUnit (s : State) (core : CoreId) (k : Nat) : State :=
  match s.segAt core k with
  | none => s
  | some c =>
    if !s.segReady core k then s
    else
      let s : State := { s with segs := s.segs.set k { c with unit := c.unit + 1 } }
      s.segChunk c

/-- A word changed at its home by the device for a copy; a word with uncorrectable data stays as it is, and its cell takes the
datapath-check fault (R277, R295; log entry 30). -/
def State.rmwSeg (s : State) (c : SegCopy) (p : Word) (f : Nat → Nat) : State :=
  match s.pieceC c.agent p 8 .atomic with
  | .error _ => s
  | .ok (x, s) =>
    let o : Obs := .die (dieOf c.core)
    let s := s.settle o (s.land c.agent.who x) 8
    match s.badAt o c.agent.who x 8 with
    | some (i, y) => s.segFault c.owner (poisonFlt p i y 6)
    | none => s.writeAt o c.agent.who x (leBytes 8 (f (leNat (s.readAt o c.agent.who x 8))))

/-- The record of a copy, as it stands. -/
def State.segRecord (s : State) (c : SegCopy) : CtxRec :=
  match s.pieceC c.agent c.ctxrec 64 .load with
  | .error _ => ctxRecOf c.ctxrec 0
  | .ok (x, s) => ctxRecOf c.ctxrec (BitVec.ofNat 512 (leNat (s.readAt (.die (dieOf c.core)) c.agent.who x 64)))

/-- The datapath-check fault of a record with uncorrectable data that the final step of a copy reads (R295). -/
def State.segRecordFlt (s : State) (c : SegCopy) : Option Flt :=
  match s.pieceC c.agent c.ctxrec 64 .load with
  | .error _ => none
  | .ok (x, s) => (s.badAt (.die (dieOf c.core)) c.agent.who x 64).map fun y => poisonFlt c.ctxrec y.1 y.2 6

/-- The record, the descriptor or the map that the final step of a copy reaches lies behind a channel that is draining (R336). -/
def State.segBehind (s : State) (c : SegCopy) : Bool :=
  s.behindDrain c.agent c.ctxrec 64
    || (let r := s.segRecord c
        [r.descAt c.seg, r.mapAt c.slot].any fun p => s.behindDrain c.agent p 8)

/-- The final step of a copy, made at the descriptor's home (R277). -/
def State.segFinal (s : State) (c : SegCopy) : State :=
  let r := s.segRecord c
  let s := match s.segRecordFlt c with
    | some f => s.segFault c.owner f
    | none => s
  let desc := r.descAt c.seg
  let s :=
    if c.inward then
      let s := s.rmwSeg c desc fun v => descWith v 2 (v % 2 ^ 16) true
      s.sample (dieOf c.core) 4 c.domain (s.now - c.since)
    else
      let s := s.rmwSeg c desc fun v => descWith v 0 0 true
      let s := s.rmwSeg c (r.mapAt c.slot) fun v => withBit v (c.slot % 64) false
      s.rmwSeg c (plus r.adr 16) fun v => rcountBy v false
  s.mapCell c.owner fun x => { x with progress := s.now }

/-- SEGMENT_FINAL_STEP (R277). -/
def execSegmentFinalStep (core : CoreId) (k : Nat) (s : State) : Host.Outcome State Fault Refusal :=
  match s.segAt core k with
  | none => .next s
  | some c =>
    if c.unit < c.units || !s.awake || s.segBehind c || s.peerStores.any (c.agent.wrote 0) then .next s
    else
      let t := s.segFinal c
      .next { t with segs := t.segs.eraseIdx k }

/-! ## COPY_UNIT_PERFORMED -/

/-- C's oldest operation has a unit that can be performed. -/
def State.textReady (s : State) : Bool :=
  match s.flight.cops with
  | [] => false
  | o :: _ => s.working && s.unitReady o

/-- The bytes of that unit (R133). -/
def State.textSize (s : State) : Nat :=
  match s.flight.cops with
  | [] => 0
  | o :: _ => s.unitSize s.textAgent o.kind o.f o.p

/-- The place of a piece of work among those that share a core's C engine: the running text, the four queues, and the segment copies
(R133, R277; log entry 32). -/
def placeOf : CopyWork → Nat
  | .text => 0
  | .command q => 1 + q.val
  | .segment _ => 5

/-- A piece of work of a core's C engine has a unit that can be performed. -/
def State.workReady (s : State) (core : CoreId) : CopyWork → Bool
  | .text => (s.on core).textReady
  | .command q => s.cmdReady core q
  | .segment k => s.segReady core k

/-- Some work at a place has a unit that can be performed. -/
def State.placeReady (s : State) (core : CoreId) (i : Nat) : Bool :=
  if i = 0 then s.workReady core .text
  else if i = 5 then (List.range s.segs.length).any fun k => s.workReady core (.segment k)
  else s.workReady core (.command (Fin.ofNat 4 (i - 1)))

/-- Whose turn it is on a core's C engine (R133): the place that has it, until it has moved 4 KiB or has nothing to do, then the next
place in the round that has something to do. -/
def State.turn (s : State) (core : CoreId) : Nat :=
  let c := s.cores[core]
  let start := if c.cmoved < 4096 then c.cturn else c.cturn + 1
  (((List.range 6).map fun j => (start + j) % 6).find? (s.placeReady core)).getD (start % 6)

/-- A place of a core's C engine has moved n bytes in its turn (R133). -/
def State.moved (s : State) (core : CoreId) (i n : Nat) : State :=
  let c := s.cores[core]
  let before := if c.cturn = i && c.cmoved < 4096 then c.cmoved else 0
  { s with cores := s.cores.set core { c with cturn := i, cmoved := before + n } }

/-- The bytes of a work's next unit. -/
def State.workSize (s : State) (core : CoreId) : CopyWork → Nat
  | .text => (s.on core).textSize
  | .command q => s.cmdSize core q
  | .segment k => ((s.segAt core k).map fun c => c.chunk.2.2).getD 0

/-- The next unit of a work of a core's C engine. -/
def State.workUnit (s : State) (core : CoreId) : CopyWork → State
  | .text => (s.on core).textUnit
  | .command q => s.cmdUnit core q
  | .segment k => s.segUnit core k

/-- COPY_UNIT_PERFORMED (R133, R153, R277): the running text, the queues and the segment copies share the engine in turn. -/
def execCopyUnitPerformed (core : CoreId) (u : CopyWork) (s : State) : Host.Outcome State Fault Refusal :=
  .next (if s.workReady core u && s.turn core == placeOf u then
    (s.moved core (placeOf u) (s.workSize core u)).workUnit core u else s)

/-! ## The rollback -/

/-- A cell resumes at its own paths (R273): its clocks start again. -/
def State.resumeRun (s : State) : State := s.setCell { s.cell with status := .running, raised := none, progress := s.now }

/-- A cell resumes from a hold (R287), in which its counters have counted nothing (R353): a new slice begins. -/
def State.leaveHold (s : State) : State :=
  let s := s.clearStalls.restartHeads.resumeRun
  s.setCell { s.cell with ident := { s.cell.ident with since := s.now } }

/-- The resumption of a replayed cell from its checkpoint; inside the context handler it enters the handler again at the
same depth (R273, R274). -/
def State.replay (s : State) : State :=
  let s := (s.clearStalls.allHeads 0x02).resumeRun
  match s.cell.ctx.active, s.contextEntry with
  | true, some h => s.startContext h
  | _, _ => s

end Sys2Proof.Machine
end

