-- ==== Sys2Proof/Machine/Flags.lean ====
section
/-! DEFINITION. The counters and sticky flags that arithmetic sets. The device has no condition codes: what stands in
their place are the holding counters VSATN, VNANN and MSATN (R68) and the flags FTRC, FOOD and FROOT of the function
engine (R220). -/

namespace Sys2Proof.Machine

/-- Events of V counted in VSATN and VNANN, which hold at 2^48 - 1 (R68). -/
def State.countV (s : State) (e : Events) : State :=
  s.setRoll { s.roll with vsatn := holdAdd s.roll.vsatn e.sat, vnann := holdAdd s.roll.vnann e.nan }

/-- Saturations of M counted in MSATN (R68). -/
def State.countM (s : State) (n : Nat) : State := s.setRoll { s.roll with msatn := holdAdd s.roll.msatn n }

/-- The sticky flags FTRC.TRC and FTRC.NAN set (R220). -/
def State.flagF (s : State) (trc nan : Bool) : State :=
  s.setRoll { s.roll with ftrc := s.roll.ftrc ||| (BitVec.ofBool nan ++ BitVec.ofBool trc) }

/-- Inputs outside the domain counted in FOOD (R220). -/
def State.countFood (s : State) (n : Nat) : State := s.setRoll { s.roll with food := holdAdd s.roll.food n }

end Sys2Proof.Machine
end

