-- ==== Sys2Proof/Machine/Matrix.lean ====
section
/-! DEFINITION. The matrix engine: the format queue and fpush (R197-R199), tile commands and their units (R192-R203, R210),
loop nests (R205-R209). -/

namespace Sys2Proof.Machine

/-! ## Shapes, formats and rates -/

/-- The rows, columns and depth of a shape (R53). -/
def shapeDims (shape : Fin 8) : Nat × Nat × Nat :=
  match shape with
  | 0 => (16, 64, 32) | 1 => (16, 64, 64) | 2 => (16, 64, 128) | 3 => (16, 64, 256)
  | 4 => (32, 64, 64) | 5 => (16, 128, 64) | 6 => (32, 128, 64) | 7 => (64, 64, 64)

/-- The formats of a valid format word: FMTA and FMTB (R70, R71). -/
def formatsOf (w : Word) : Option (Nat × Nat) :=
  let a := w.toNat % 32
  let b := w.toNat / 256 % 32
  if w.toNat != a + 256 * b || 27 < a || 27 < b || (a == 27) != (b == 27) then none else some (a, b)

/-- The least power of two that is not below n. -/
def pow2Above (n : Nat) : Nat := if n ≤ 1 then 1 else 2 ^ (Nat.log2 (n - 1) + 1)

/-- Products formed in a cycle for two formats (R69). -/
def rateOf (a b : Nat) : Nat :=
  let g := gangWidth a * gangWidth b
  if pow2Above g = g then 32768 / g else 7 * 32768 / pow2Above (7 * g)

/-! ## The format queue -/

/-- fpush (R198). -/
def execFpush (t : Tok) (a : Src) (s : State) : Host.Outcome State Fault Refusal :=
  s.issue .A t 0 (Src.uses a) fun s => do
    let (v, s) ← s.src a
    if 16 ≤ s.roll.fmtq.length then .error (.wait .fmtFull s.qlimit)
    else .ok (s.setRoll { s.roll with fmtq := s.roll.fmtq ++ [v] })

/-- A format word taken from the head of the queue (R199). -/
def State.takeFormat (s : State) : Res (Word × State) :=
  match s.roll.fmtq with
  | [] => .error (.wait .fmtEmpty s.qlimit)
  | w :: rest => .ok (w, s.setRoll { s.roll with fmtq := rest })

/-! ## Operand checks (R145, R195, R196) -/

/-- The parts of an operand region that holds n elements of a format: the bytes of its element array, and of the whole
region with scales and trailer. -/
def regionBytes (c n : Nat) (trailered : Bool) : Nat × Nat :=
  (elemBytes c n, elemBytes c n + pad64 (scaleCount c n) + if trailered then 64 else 0)

/-- An operand range: its least and greatest address, the bytes of the part at the address, and of the region. -/
structure Operand where
  lo : Word
  hi : Word
  part : Nat
  whole : Nat

/-- The address checks of an operand range. -/
def Operand.addressOk (o : Operand) : Res Unit := do
  let bad (p : Word) : Bool := spaceOf p != 8 || p.toNat / 2 ^ 21 % 2 ^ 39 != 0
  requireAt (!bad o.lo) .protection 1 o.lo
  requireAt (!bad o.hi) .protection 1 o.hi
  requireAt (o.lo.toNat % 64 == 0) .alignment 0 o.lo
  requireAt (o.hi.toNat % 2 ^ 21 + o.part ≤ 0x180000) .protection 3 o.hi

/-- The bank group of an operand's element array. -/
def Operand.group (o : Operand) : Nat := bankGroup (o.lo.toNat % 2 ^ 21)

/-- An operand range lies within a bank group. -/
def Operand.within (o : Operand) (g : Nat) : Bool :=
  bankGroup (o.lo.toNat % 2 ^ 21) == g && bankGroup (o.hi.toNat % 2 ^ 21 + o.whole - 1) == g

/-- The checks of R196 on the operands of a command or of a nest, bitmaps where there are two. -/
def operandsOk (a b : Operand) (maps : Option (Operand × Operand)) : Res Unit := do
  a.addressOk
  b.addressOk
  match maps with
  | none => .ok ()
  | some (am, bm) =>
    am.addressOk
    bm.addressOk
  require (a.group != b.group) .bankConflict 1
  let mapsIn := match maps with
    | none => true
    | some (am, bm) => am.within a.group && bm.within b.group
  require (a.within a.group && b.within b.group && mapsIn) .bankConflict 2

/-- The operand ranges of a command of a shape, from the least and greatest addresses. -/
def State.mOperands (s : State) (shape : Fin 8) (fa fb : Nat) (a b am bm : Word × Word) :
    Operand × Operand × Operand × Operand :=
  let (m, n, k) := shapeDims shape
  let ra := regionBytes fa (m * k) (s.misc.mctl.getLsbD 0)
  let rb := regionBytes fb (k * n) (s.misc.mctl.getLsbD 1)
  (⟨a.1, a.2, ra.1, ra.2⟩, ⟨b.1, b.2, rb.1, rb.2⟩, ⟨am.1, am.2, m * k / 8, m * k / 8⟩, ⟨bm.1, bm.2, k * n / 8, k * n / 8⟩)

/-! ## Tile commands -/

/-- M is free to issue a command: no live nest has bodies to issue, and its last command is done (R208). -/
def State.mFree (s : State) : Res Unit :=
  if s.flight.mcmd.isNone && s.flight.nest.isNone then .ok () else .error (.wait .unit none)

/-- A command waits while a drain that has begun has still to read a tile that it writes (R156). -/
def State.drained (s : State) (n count : Nat) : Res Unit :=
  if s.drainHolds n count then .error (.wait .unit none) else .ok ()

/-- An address of space 0x8 from an offset. -/
def padAddr (off : BitVec 32) : Word := 0x8000000000000000 + off.setWidth 64

/-- The queue a tile command pops. -/
def MForm.uses : MForm → List (Fin 16 × Bool)
  | .direct _ q => [(q, false)]
  | .image _ => []

/-- The first tile and the addresses of a tile command (R200, R207). -/
def State.mAddrs (s : State) (sparse : Bool) (o : MForm) : Res ((Nat × Word × Word × Word × Word) × State) :=
  match o with
  | .image b => .ok ((b.n.toNat, padAddr b.aoff, padAddr b.boff, padAddr b.amoff, padAddr b.bmoff), s)
  | .direct n q => do
    let (a, s) ← s.pop .M q
    let (b, s) ← s.pop .M q
    if sparse then
      let (am, s) ← s.pop .M q
      let (bm, s) ← s.pop .M q
      .ok ((n.toNat, a, b, am, bm), s)
    else .ok ((n.toNat, a, b, 0, 0), s)

/-- m.mma and m.mmas (R200): the format word, the operands, the checks; the units follow. -/
def State.mma (s : State) (sparse : Bool) (t : Tok) (shape : Fin 8) (o : MForm) : Host.Outcome State Fault Refusal :=
  s.settleIssue .M do
    s.bindAll .M (MForm.uses o)
    let (_, s) ← s.takeTokens .M t
    s.mFree
    let (fw, s) ← s.takeFormat
    let ((n, a, b, am, bm), s) ← s.mAddrs sparse o
    match formatsOf fw with
    | none => raise .shape 0x300
    | some (fa, fb) =>
      require (n + shapeTiles shape ≤ 64) .shape 0x301
      let (ra, rb, ram, rbm) := s.mOperands shape fa fb (a, a) (b, b) (am, am) (bm, bm)
      operandsOk ra rb (if sparse then some (ram, rbm) else none)
      s.drained n (shapeTiles shape)
      let c : MCmd :=
        { sparse := sparse, shape := shape, n := n, a := a, b := b, am := am, bm := bm, fmt := fw, pc := (s.path .M).pc, unit := 0,
          posts := postsOf .M t, ofNest := false, early := [] }
      .ok (((s.setFlight { s.flight with mcmd := some c }).takesM).advance .M (s.nextPc .M))

/-- m.mma.SHAPE (R200). -/
def execMMma (t : Tok) (shape : Fin 8) (o : MForm) (s : State) : Host.Outcome State Fault Refusal :=
  s.mma false t shape o

/-- m.mmas.SHAPE (R200). -/
def execMMmas (t : Tok) (shape : Fin 8) (o : MForm) (s : State) : Host.Outcome State Fault Refusal :=
  s.mma true t shape o

/-- m.zero (R202): c is the count less one. -/
def execMZero (t : Tok) (n c : BitVec 6) (s : State) : Host.Outcome State Fault Refusal :=
  s.settleIssue .M do
    let (_, s) ← s.takeTokens .M t
    s.mFree
    s.drained n.toNat (c.toNat + 1)
    .ok ((s.zeroTiles n.toNat (c.toNat + 1)).retire .M t 6 (c.toNat + 1))

/-! ## Sums (R72-R74) -/

/-- An accumulator element after a k-group on the integer path (R73), and whether it saturated. -/
def intStep (acc : W32) (ps : List Val) : W32 × Nat :=
  let s := acc.toInt + (ps.map Val.int0).foldl (· + ·) 0
  if 2 ^ 31 - 1 < s then (0x7FFFFFFF, 1) else if s < -2 ^ 31 then (0x80000000, 1) else (BitVec.ofInt 32 s, 0)

/-- The sum of a k-group on the float path: the exact products, each cut to the window of 96 bits (R74). -/
def groupSum (ps : List Val) : Val :=
  let pos := ps.any fun p => p == .inf false
  let neg := ps.any fun p => p == .inf true
  if ps.any Val.isNan || (pos && neg) then .nan
  else if pos then .inf false
  else if neg then .inf true
  else
    let nz := ps.filter fun p => !p.isZero
    let top (p : Val) : Int := match p with
      | .real _ m e => (bitLen m : Int) - 1 + e
      | _ => 0
    match nz with
    | [] => .zero
    | p :: _ =>
      let q := nz.foldl (fun a p => Max.max a (top p)) (top p) - 90
      let cut (p : Val) : Int := match p with
        | .real n m e =>
          let v : Int := (if q ≤ e then m * 2 ^ (e - q).toNat else m / 2 ^ (q - e).toNat : Nat)
          if n then -v else v
        | _ => 0
      let s := (nz.map cut).foldl (· + ·) 0
      if s = 0 then .zero else .real (s < 0) s.natAbs q

/-- An accumulator element after a k-group on the float path (R74). -/
def floatStep (acc : W32) (ps : List Val) : W32 :=
  let a := FFmt.f32.decode acc.toNat
  let g := groupSum ps
  match a, g with
  | .nan, _ | _, .nan => 0x7FC00000
  | .inf x, .inf y => if x = y then acc else 0x7FC00000
  | _, g => if g.isZero then acc else BitVec.ofNat 32 (FFmt.f32.convert .rne false (a.add false g)).1

/-! ## Units (R210) -/

/-- 32 consecutive elements of an operand from element j: their codes, the value of each with its scale, and the bitmap
bits where there are any. -/
structure Group where
  codes : List Nat
  vals : List Val
  mask : List Bool

/-- The byte at a location that M has read already for the next unit of its command (R203). -/
def State.earlyByte (s : State) (x : Nat) : Option Byte :=
  match s.flight.mcmd with
  | none => none
  | some c => (c.early.lookup (x / 8 * 8)).bind fun bs => bs[x % 8]?

/-- Bytes that M reads at an address of the scratchpad: a granule that its load queue has read already is as it was then (R203). -/
def State.mRead (s : State) (p : Word) (n : Nat) : Except Flt (List Byte) := do
  let x := locPad s.cur.core (p.toNat % 2 ^ 21)
  let bs ← s.loadBytes .M p x n
  .ok ((bs.zipIdx x).map fun b => (s.earlyByte b.2).getD b.1)

/-- M's load queue reads an operand granule for the next unit of its command (R203): another engine may write it before the unit is
performed. A granule with uncorrectable data is left to the unit. -/
def State.readEarly (s : State) (off : BitVec 21) : State :=
  let p := 0x8000000000000000 + (off.setWidth 64 &&& ~~~ 7#64)
  match s.flight.mcmd, s.mRead p 8 with
  | some c, .ok bs =>
    let x := locPad s.cur.core (off.toNat / 8 * 8)
    s.setFlight { s.flight with mcmd := some { c with early := (x, bs) :: c.early } }
  | _, _ => s

/-- A group of an operand at an address, of total elements in the operand. -/
def State.mGroup (s : State) (c total : Nat) (p : Word) (map : Option Word) (j : Nat) : Except Flt Group := do
  let sb := storeBits c
  let bs ← s.mRead (plus p (j * sb / 8)) (4 * sb)
  let codes := (List.range 32).map (elemAt c bs)
  let block := blockSize c
  let scales ← if block = 0 then .ok []
    else s.mRead (plus p (elemBytes c total + j / block)) (32 / block)
  let vals := codes.zipIdx.map fun (x, i) =>
    let v := elemVal c x
    if block = 0 then v else v.mul (scaleVal c (scales.getD (i / block) 0).toNat)
  let mask ← match map with
    | none => .ok (List.replicate 32 true)
    | some q => do
      let bits := leNat (← s.mRead (plus q (j / 8)) 4)
      .ok ((List.range 32).map fun i => bits.testBit i)
  .ok { codes := codes, vals := vals, mask := mask }

/-- The products of a row's group and a column's group; a masked one is 0 (R200). -/
def products (l8 : Bool) (a b : Group) : List Val :=
  (List.range 32).map fun i =>
    if !(a.mask.getD i false && b.mask.getD i false) then .zero
    else if l8 then l8Mul (a.codes.getD i 0) (b.codes.getD i 0)
    else (a.vals.getD i .zero).mul (b.vals.getD i .zero)

/-- The groups of n rows or columns from the first, at k-group g of depth k. -/
def State.mGroups (s : State) (c total k g : Nat) (p : Word) (map : Option Word) (first : Nat) :
    Nat → Except Flt (List Group)
  | 0 => .ok []
  | n + 1 => do
    let x ← s.mGroup c total p map (first * k + 32 * g)
    let rest ← s.mGroups c total k g p map (first + 1) n
    .ok (x :: rest)

/-- The trailer of an operand checked on its first fetch (R78, R195). -/
def State.mTrailer (s : State) (on : Bool) (c total : Nat) (p : Word) : Except Flt Unit := do
  if on then
    let n := elemBytes c total + pad64 (scaleCount c total)
    let bs ← s.mRead p (n + 64)
    if trailerOk (bs.take n) (BitVec.ofNat 512 (leNat (bs.drop n))) (some c) then .ok ()
    else .error (trailerFlt p [(locPad s.cur.core (p.toNat % 2 ^ 21), n + 64)])
  else .ok ()

/-- A tile after a k-group: its elements and the saturations. -/
def tileStep (int l8 : Bool) (t : Tile) (as_ bs : List Group) : Tile × Nat :=
  let step (r c : Nat) : W32 × Nat :=
    let z : Group := ⟨[], [], []⟩
    let ps := products l8 (as_.getD r z) (bs.getD c z)
    let acc := t.at_ (64 * r + c)
    if int then intStep acc ps else (floatStep acc ps, 0)
  let l := (List.range 16).map fun r => (List.range 64).map (step r)
  (Tile.of fun i => (((l.getD (i / 64) []).getD (i % 64) (0, 0)).1), (l.flatten.map (·.2)).sum)

/-- The products of a sparse command whose two bitmap bits are set (R201). -/
def State.formed (s : State) (m n k : Nat) (am bm : Word) : Except Flt Nat := do
  let a := leNat (← s.mRead am (m * k / 8))
  let b := leNat (← s.mRead bm (k * n / 8))
  let count (bits rows j : Nat) : Nat := ((List.range rows).filter fun r => bits.testBit (r * k + j)).length
  .ok (((List.range k).map fun j => count a m j * count b n j).sum)

/-- The work cycles of a command (R201). -/
def State.workOf (s : State) (c : MCmd) (fa fb : Nat) : Nat :=
  let (m, n, k) := shapeDims c.shape
  let r := rateOf fa fb
  let up (x y : Nat) : Nat := (x + y - 1) / y
  if c.sparse then
    match s.formed m n k c.am c.bm with
    | .ok f => Nat.max (up f r) (up (m * n * k) (4 * r))
    | .error _ => up (m * n * k) (4 * r)
  else up (m * n * k) r

/-- The next unit of M's command: one k-group of one tile (R200, R210). -/
def State.mUnit (s : State) (c : MCmd) (fa fb : Nat) : Except Flt State := do
  let (m, n, k) := shapeDims c.shape
  let tiles := shapeTiles c.shape
  let g := c.unit / tiles
  let i := c.unit % tiles
  let per := n / 64
  if c.unit = 0 then
    s.mTrailer (s.misc.mctl.getLsbD 0) fa (m * k) c.a
    s.mTrailer (s.misc.mctl.getLsbD 1) fb (k * n) c.b
  let as_ ← s.mGroups fa (m * k) k g c.a (if c.sparse then some c.am else none) (16 * (i / per)) 16
  let bs ← s.mGroups fb (k * n) k g c.b (if c.sparse then some c.bm else none) (64 * (i % per)) 64
  let (t, sat) := tileStep (fa ≤ 8 && fb ≤ 8) (fa == 27) (s.accTile (c.n + i)) as_ bs
  .ok ((s.setAcc (c.n + i) t).countM sat)

/-- Cycles of a command's work that are charged with a unit: its share (R312). -/
def workShare (work u total : Nat) : Nat := work * (u + 1) / total - work * u / total

/-- Posts of M are made once its earlier commands, those of the live nest included, have read and written (R127). -/
def State.postM (s : State) (js : List (Fin 10)) : State :=
  match s.flight.nest, s.flight.mcmd with
  | some n, _ => s.setFlight { s.flight with nest := some { n with posts := n.posts ++ js } }
  | none, some c => s.setFlight { s.flight with mcmd := some { c with posts := c.posts ++ js } }
  | none, none => s.makePosts .M js

/-- MATRIX_UNIT_PERFORMED (R210). -/
def execMatrixUnitPerformed (core : CoreId) (s : State) : Host.Outcome State Fault Refusal :=
  let t := s.on core
  match t.flight.mcmd with
  | none => .next s
  | some c =>
    match formatsOf c.fmt with
    | none => .next s
    | some (fa, fb) =>
      if !t.working then .next s
      else
        match t.mUnit c fa fb with
        | .error f => .next (t.fault .M f)
        | .ok t =>
          let total := (shapeDims c.shape).2.2 / 32 * shapeTiles c.shape
          let t := t.charge 5 (workShare (t.workOf c fa fb) c.unit total)
          if c.unit + 1 < total then
            .next (t.setFlight { t.flight with mcmd := some { c with unit := c.unit + 1, early := [] } })
          else
            let t := t.setCell { t.cell with progress := t.now }
            .next ((t.setFlight { t.flight with mcmd := none }).makePosts .M c.posts)

/-! ## Loop nests (R205-R209) -/

/-- The fields of a level record (R205): iterations and the steps of A, B, the tile and the two bitmaps. -/
structure Level where
  count : Nat
  da : Int
  db : Int
  dn : Int
  dam : Int
  dbm : Int

/-- A level record read; an unused one is one iteration without steps. -/
def levelOf (w : Word) : Level :=
  let c := w.toNat / 2 ^ 52
  if c = 0 then ⟨1, 0, 0, 0, 0, 0⟩
  else ⟨c, (w.extractLsb' 38 14).toInt, (w.extractLsb' 24 14).toInt, (w.extractLsb' 17 7).toInt,
    (w.extractLsb' 9 8).toInt, (w.extractLsb' 1 8).toInt⟩

/-- m.lvl (R206). -/
def execMLvl (t : Tok) (q : Fin 16) (k : Fin 6) (s : State) : Host.Outcome State Fault Refusal :=
  s.settleIssue .M do
    s.bindAll .M [(q, false)]
    let (_, s) ← s.takeTokens .M t
    let (v, s) ← s.pop .M q
    require (!v.getLsbD 0) .shape (0x310 + k.val)
    let sh := s.roll.shadow
    let s := s.setRoll { s.roll with shadow := { sh with levels := sh.levels.set k v } }
    .ok (((s.charge 6 1).advance .M (s.nextPc .M)).postM (postsOf .M t))

/-- The levels of a configuration. -/
def Nest.list (n : Nest) : List Level := n.levels.toList.map levelOf

/-- The least and greatest value of a quantity over a nest (R208): its start and its step at each level. -/
def extremes (start : Int) (steps : List (Nat × Int)) : Int × Int :=
  steps.foldl (fun (lo, hi) (c, d) =>
    let v : Int := ((c : Int) - 1) * d
    (lo + Min.min 0 v, hi + Max.max 0 v)) (start, start)

/-- The addresses of space 0x8 at two offsets. -/
def padPair (x : Int × Int) : Word × Word := (0x8000000000000000 + BitVec.ofInt 64 x.1, 0x8000000000000000 + BitVec.ofInt 64 x.2)

/-- The checks of m.go on the whole nest, after its format word (R208). -/
def State.nestOk (s : State) (n : Nest) (fa fb : Nat) : Res Unit := do
  let ls := n.list
  let b := n.body
  let (lo, hi) := extremes b.n.toNat (ls.map fun l => (l.count, l.dn))
  require (0 ≤ lo && hi + shapeTiles b.shape ≤ 64) .shape 0x301
  let range (off : BitVec 32) (d : Level → Int) : Word × Word :=
    padPair (extremes off.toNat (ls.map fun l => (l.count, 64 * d l)))
  let (ra, rb, ram, rbm) := s.mOperands b.shape fa fb (range b.aoff (·.da)) (range b.boff (·.db))
    (range b.amoff (·.dam)) (range b.bmoff (·.dbm))
  operandsOk ra rb (if b.sparse then some (ram, rbm) else none)

/-- m.go (R208). -/
def execMGo (t : Tok) (body : Option MBody) (s : State) : Host.Outcome State Fault Refusal :=
  s.settleIssue .M do
    let (_, s) ← s.takeTokens .M t
    let s := match body with
      | none => s
      | some b => s.setRoll { s.roll with shadow := { s.roll.shadow with body := b } }
    if s.flight.nest.isSome then .error (.wait .unit none)
    else
      let (fw, s) ← s.takeFormat
      match formatsOf fw with
      | none => raise .shape 0x300
      | some (fa, fb) =>
        let n := s.roll.shadow
        s.nestOk n fa fb
        let live : LiveNest :=
          { nest := n, fmt := fw, pc := (s.path .M).pc, next := 0, total := (n.list.map (·.count)).foldl (· * ·) 1, posts := postsOf .M t }
        let s := s.setMisc { s.misc with iter := 0 }
        .ok ((((s.setFlight { s.flight with nest := some live }).takesM).charge 6 1).advance .M (s.nextPc .M))

/-- m.stop (R209): the live nest issues no more; its tokens and the word's are posted when the command in flight is done. -/
def execMStop (t : Tok) (s : State) : Host.Outcome State Fault Refusal :=
  s.settleIssue .M do
    let (_, s) ← s.takeTokens .M t
    let owed := (match s.flight.nest with
      | none => []
      | some n => n.posts) ++ postsOf .M t
    let s := (s.charge 6 1).advance .M (s.nextPc .M)
    .ok ((s.setFlight { s.flight with nest := none }).postM owed)

/-- The indices of the body of number i, level 5 fastest (R208). -/
def indicesOf (counts : List Nat) (i : Nat) : List Nat :=
  (counts.foldr (fun c (acc : List Nat × Nat) => (acc.2 % c :: acc.1, acc.2 / c)) ([], i)).1

/-- A quantity of a body: its start and the sum of the indices times the steps. -/
def affine (start : Int) (ix : List Nat) (steps : List Int) : Int :=
  start + ((ix.zip steps).map fun p => (p.1 : Int) * p.2).foldl (· + ·) 0

/-- The body command of number i of a nest (R208). -/
def LiveNest.body (n : LiveNest) (i : Nat) : MCmd :=
  let ls := n.nest.list
  let ix := indicesOf (ls.map (·.count)) i
  let b := n.nest.body
  let addr (off : BitVec 32) (d : Level → Int) : Word :=
    0x8000000000000000 + BitVec.ofInt 64 (affine off.toNat ix (ls.map fun l => 64 * d l))
  { sparse := b.sparse, shape := b.shape, n := (affine b.n.toNat ix (ls.map (·.dn))).toNat, a := addr b.aoff (·.da),
    b := addr b.boff (·.db), am := addr b.amoff (·.dam), bm := addr b.bmoff (·.dbm), fmt := n.fmt, pc := n.pc, unit := 0,
    posts := [], ofNest := true, early := [] }

/-- NEST_BODY_COMMAND (R208): with its last body the nest hands its tokens to that command. -/
def execNestBodyCommand (core : CoreId) (s : State) : Host.Outcome State Fault Refusal :=
  let t := s.on core
  match t.flight.nest with
  | none => .next s
  | some n =>
    let c := n.body n.next
    if !t.working || t.throttled .M || t.flight.mcmd.isSome || t.drainHolds c.n (shapeTiles c.shape) then .next s
    else
      let last := n.total ≤ n.next + 1
      let c : MCmd := if last then { c with posts := n.posts } else c
      let t := t.setMisc { t.misc with iter := BitVec.ofNat 48 (n.next + 1) }
      .next (t.setFlight { t.flight with
        mcmd := some c, nest := if last then none else some { n with next := n.next + 1 } })

/-- MSTAT (R213). -/
def State.mstat (s : State) : Word :=
  let live := s.flight.nest.isSome || match s.flight.mcmd with
    | some c => c.ofNest
    | none => false
  BitVec.ofBool live ++ BitVec.ofNat 5 s.roll.fmtq.length ++ 0#10 ++ s.misc.iter

end Sys2Proof.Machine
end

