-- ==== Sys2Proof/Machine/Energy.lean ====
section
/-! DEFINITION. Energy accounts and the power of samples (R303, R304, R308-R314, R316). -/

namespace Sys2Proof.Machine

/-- The offset of a domain's account entry in system space (R311). -/
def accountOff (d : BitVec 16) : Nat := 0x200000 + 16 * d.toNat

/-- Word 0 of a domain's account. -/
def State.account (s : State) (d : BitVec 16) : Nat := s.entryAt (locSys 0 (accountOff d))

/-- Word 0 after an addition, which saturates (R313). -/
def accountAdd (w ticks : Nat) : Nat :=
  let c := w % 2 ^ 48 + ticks
  if 2 ^ 48 ≤ c then 2 ^ 63 + (2 ^ 48 - 1) else w / 2 ^ 63 * 2 ^ 63 + c

/-- Ticks added to a domain's account. -/
def State.addTicks (s : State) (d : BitVec 16) (ticks : Nat) : State :=
  s.sysPut 0 (accountOff d) (accountAdd (s.account d) ticks)

/-- Ballast cycles added to a domain's account; the count holds at 2^48 - 1. -/
def State.addBallast (s : State) (d : BitVec 16) (n : Nat) : State :=
  let w := s.entryAt (locSys 0 (accountOff d + 8))
  s.sysPut 0 (accountOff d + 8) (Nat.min (w + n) (2 ^ 48 - 1))

/-! ## Power of past samples (R303, R304) -/

/-- The greatest of a list. -/
def mostOf (l : List Nat) : Nat := l.foldl Nat.max 0

/-- lo(t) in ticks (R304). -/
def State.loTicks (s : State) : Nat :=
  mostOf (s.windows.map fun w => mostOf (s.gov.history.take w.1) - w.2.2 * ticksPerWatt)

/-- hi(t) in ticks, once a sample has been metered (R304). -/
def State.hiTicks (s : State) : Option Nat :=
  if s.gov.history.isEmpty then none
  else some (leastOf (s.windows.map fun w => leastOf (s.gov.history.take w.1) + w.2.1 * ticksPerWatt))

/-! ## What a sample has metered (R303, R312) -/

/-- Static ticks of every enabled core over some cycles (R303). -/
def State.staticTicks (s : State) (cycles : Nat) : Nat :=
  (s.cores.toList.filter (·.enabled)).length * s.gov.use.estatic.toNat * cycles / 4096

/-- The cycles that F's instruction in flight on a core has run and that are not charged yet, in ticks (R312). -/
def State.unpaidF (s : State) (k : CoreId) : Nat :=
  let c := s.cores[k].cell
  match c.flight.fop with
  | none => 0
  | some o => if c.status == .running && !c.frozen then (o.spent s.now - o.paid) * s.weight o.cls else 0

/-- Ticks metered so far in the sample (R303): dynamic charges, ballast, static power, and the part of the refresh, patrol and idle traffic
that falls to the cycles that have passed. -/
def State.metered (s : State) : Nat :=
  let n := s.now - s.gov.sampleAt
  s.gov.ticks + s.gov.ballastSum + s.staticTicks n + s.gov.idle * Nat.min n Config.cyclesPerSample / Config.cyclesPerSample
    + ((List.finRange 392).map s.unpaidF).sum

/-- The ticks of the refresh, patrol and idle link traffic of a sample: a free number of class 14 and 15 units, below the ceiling of the
sample (R303, R304; log entry 13). -/
def State.drawIdle (s : State) : Nat × State :=
  let v := (Config.freeWord s.freeCtr).toNat
  let n := v % 65536 * s.weight 14 + v / 2 ^ 32 % 65536 * s.weight 15
  let most := match s.hiTicks with
    | none => n
    | some hi => hi - s.staticTicks Config.cyclesPerSample
  (Nat.min n most, { s with freeCtr := s.freeCtr + 1 })

/-! ## Additions (R313) -/

/-- A core adds its pending charges and ballast cycles to the accounts (R313), those of the cycles that F has run included. -/
def State.flushCharges (s : State) (k : CoreId) : State :=
  let s := s.payF k
  let c := s.cores[k]
  let s := c.pending.foldl (fun s p => s.addTicks p.1 p.2) s
  let s := c.ballastPend.foldl (fun s p => s.addBallast p.1 p.2) s
  { s with cores := s.cores.set k { s.cores[k] with pending := [], ballastPend := [], view := none } }

/-- The account of its cell's domain as a core sees it: as its image gave it, until the core's next addition (R313). -/
def State.accountView (s : State) : Nat :=
  match s.core.view with
  | none => s.account s.domain
  | some w => w.toNat

/-- ENERGY (R314, R316): the account and the core's pending charge of the cell's domain. -/
def State.energy (s : State) : Word :=
  BitVec.ofNat 64 (Nat.min (s.accountView % 2 ^ 48 + (s.core.pending.lookup s.domain).getD 0) (2 ^ 48 - 1))

/-- A write of ESAT: 0 clears the flag in the entry of a domain (R314). -/
def State.writeEsat (s : State) (v : Word) : State :=
  if v.getLsbD 0 then s
  else (s.sysPut 0 (accountOff s.domain) (s.account s.domain % 2 ^ 48)).setCore { s.core with view := none }

/-- A write of ECLAIM: the entry of the domain named is read and cleared (R314). -/
def State.writeEclaim (s : State) (v : Word) : State :=
  let d : BitVec 16 := v.extractLsb' 0 16
  let w := s.account d
  let view := if d == s.domain then none else s.core.view
  let s := s.setCore { s.core with eclaim := BitVec.ofNat 64 w, view := view }
  s.sysPut 0 (accountOff d) 0

/-- The static charge of a core, to the domain that holds it, and its addition (R313). -/
def State.staticOf (s : State) (k : CoreId) : State :=
  let c := s.cores[k]
  if !c.enabled then s
  else
    let d := s.holder k
    let old := (c.pending.lookup d).getD 0
    let c : Core := { c with pending := (d, old + s.gov.use.estatic.toNat) :: c.pending.filter fun p => p.1 != d }
    ({ s with cores := s.cores.set k c } : State).flushCharges k

/-- A boundary of the 4,096-cycle counter is over (R313, R331): what happens in its own cycle happens before its charges. -/
def State.staticDue (s : State) : Bool := s.aedty.suspended != 2 && s.gov.staticAt + 4096 < s.now

/-- STATIC_CHARGE (R313). -/
def execStaticCharge (s : State) : Host.Outcome State Fault Refusal :=
  if !s.staticDue then .next s
  else .next ((List.finRange 392).foldl State.staticOf { s with gov := { s.gov with staticAt := s.gov.staticAt + 4096 } })

end Sys2Proof.Machine
end

