-- ==== Sys2Proof/Machine/Series.lean ====
section
/-! DEFINITION. Chebyshev series in FP64: the coefficient arithmetic, composition, evaluation, roots and extremes of the
function engine (R222, R223, R227-R238), and cosines rounded once. -/

namespace Sys2Proof.Machine

/-! ## FP64 (R222) -/

/-- rne to FP64. -/
def r64 (v : Val) : Val := FFmt.f64.near v

/-- The value of an FP64 bit pattern. -/
def f64Val (w : Word) : Val := FFmt.f64.decode w.toNat

/-- The FP64 bit pattern of a value, rounded by rne; NaN is canonical. -/
def f64Word (v : Val) : Word := BitVec.ofNat 64 (FFmt.f64.rne v)

/-- A value rounded to FP64 in a direction. -/
def round64 (mode : Rnd) (v : Val) : Val := FFmt.f64.decode (FFmt.f64.convert mode false v).1

/-- The exact difference. -/
def Val.sub (a b : Val) : Val := a.add false b.neg

/-- 1/2. -/
def half : Val := .real false 1 (-1)

/-- 2. -/
def two : Val := .real false 1 1

/-- a <= b for values that are not NaN. -/
def Val.le (a b : Val) : Bool := a.lt b || a.eq b

/-- A value is NaN or infinite. -/
def Val.wild : Val → Bool
  | .real .. => false
  | _ => true

/-- A domain is good (R241): both bounds finite and a < b. -/
def domainOk (a b : Val) : Bool := !a.wild && !b.wild && a.lt b

/-! ## Cosines of rational multiples of pi -/

/-- 1/n - 1/(3 n^3) + ..., in fixed point: p is the current power of 1/n. -/
def atanFrom (n2 : Nat) : Nat → Nat → Bool → Int → Nat → Int
  | _, _, _, acc, 0 => acc
  | p, k, minus, acc, t + 1 =>
    let term : Int := (p / k : Nat)
    atanFrom n2 (p / n2) (k + 2) (!minus) (if minus then acc - term else acc + term) t

/-- pi in fixed point: 16 atan(1/5) - 4 atan(1/239). -/
def piFix : Nat :=
  let a := atanFrom 25 (2 ^ fixBits / 5) 1 false 0 75
  let b := atanFrom (239 * 239) (2 ^ fixBits / 239) 1 false 0 25
  (16 * a - 4 * b).toNat

/-- 1 - y^2/2! + ..., in fixed point: t is the current power over its factorial. -/
def cosFrom (y2 : Nat) : Nat → Nat → Bool → Int → Nat → Int
  | _, _, _, acc, 0 => acc
  | t, k, minus, acc, n + 1 =>
    let t' := t * y2 / (2 ^ fixBits * (k * (k + 1)))
    cosFrom y2 t' (k + 2) (!minus) (if minus then acc - t' else acc + t') n

/-- cos(pi num / den) for an angle between 0 and pi/2. -/
def cosQuarter (num den : Nat) : Val :=
  if num = 0 then .real false 1 0
  else if 2 * num = den then .zero
  else
    let y := piFix * num / den
    ofFix false (cosFrom (y * y / 2 ^ fixBits) (2 ^ fixBits) 1 true (2 ^ fixBits) 60).toNat 0

/-- cos(pi num / den) (R227, R237). -/
def cosPi (num den : Nat) : Val :=
  let r := num % (2 * den)
  let r := if den < r then 2 * den - r else r
  if 2 * r ≤ den then cosQuarter r den else (cosQuarter (den - r) den).neg

/-- P(k, j) (R227): rne of T_k at the node x_j = -cos(pi (2j + 1) / 2n). -/
def chebAt (n k j : Nat) : Val := r64 (cosPi (k * (2 * n - (2 * j + 1))) (2 * n))

/-- The nodes of R237: rne(-cos(pi j / 32)), the middle one +0. -/
def scanNode (j : Nat) : Val := if j = 16 then .zero else r64 (cosPi j 32).neg

/-! ## Truncation (R223) -/

/-- A coefficient, +0 beyond the length. -/
def coef (c : List Val) (k : Nat) : Val := c.getD k .zero

/-- The smallest length of at least 1 beyond which every magnitude is at most the tolerance. -/
def keepLength (t : Val) (c : List Val) : Nat :=
  Nat.max 1 (c.length - (c.reverse.takeWhile fun v => v.abs.le t).length)

/-- trunc without the cap: the coefficients kept, and whether one is NaN or infinite. Coefficients that are all zero are cut to one
whatever the tolerance (R223). -/
def truncTol (tol : Val) (c : List Val) : List Val × Bool :=
  if c.any Val.wild then (c, true)
  else
    let top := c.foldl (fun (a : Val) v => if a.lt v.abs then v.abs else a) .zero
    (c.take (if top.isZero then 1 else keepLength (r64 (tol.mul top)) c), false)

/-- trunc with a cap of 2,048 and no flag (R232). -/
def truncWork (tol : Val) (c : List Val) : List Val := (truncTol tol c).1.take 2048

/-! ## Coefficient arithmetic (R228-R231) -/

/-- f.add and f.sub (R228). -/
def addSeries (minus : Bool) (a b : List Val) : List Val :=
  (List.range (Nat.max a.length b.length)).map fun k =>
    r64 (if minus then (coef a k).sub (coef b k) else (coef a k).add false (coef b k))

/-- The second indices, ascending, with which the coefficient m meets the tests of R229 for the result p. -/
def partners (p m : Nat) : List Nat :=
  (if m ≤ p then [p - m] else []) ++ (if p ≤ m then [m - p] else []) ++ (if p = 0 then [] else [m + p])

/-- Coefficient p of a product (R229). -/
def mulCoef (a b : List Val) (p : Nat) : Val :=
  (List.range a.length).foldl (fun acc m =>
    ((partners p m).filter (· < b.length)).foldl (fun acc n =>
      r64 (acc.add false (r64 (half.mul ((coef a m).mul (coef b n)))))) acc) .zero

/-- A product of two series (R229), cut at a number of coefficients. -/
def mulSeries (a b : List Val) (cap : Nat) : List Val :=
  (List.range (Nat.min cap (a.length + b.length - 1))).map (mulCoef a b)

/-- The antiderivative before trunc (R230). -/
def intSeries (a b : Val) (c : List Val) : List Val :=
  let h := r64 ((b.sub a).mul half)
  let n := c.length
  let up := (List.range n).map fun i =>
    let k := i + 1
    if k = 1 then r64 (h.mul ((coef c 0).sub ((coef c 2).mul half)))
    else r64 ((h.mul ((coef c (k - 1)).sub (coef c (k + 1)))).div (Val.ofInt (2 * k)))
  let c0 := (up.zipIdx).foldl (fun (acc : Val) (v, i) => r64 (if i % 2 = 0 then acc.add false v else acc.sub v)) .zero
  c0 :: up

/-- d[k] for k below n - 1, downward (R231): the list holds d[k + 1], d[k + 2], .... -/
def derFrom (c : List Val) : Nat → List Val → List Val
  | 0, l => l
  | k + 1, l => derFrom c k (r64 ((coef l 1).add false ((Val.ofInt (2 * (k + 1))).mul (coef c (k + 1)))) :: l)

/-- The derivative before trunc (R231). -/
def derSeries (a b : Val) (c : List Val) : List Val :=
  let n := c.length
  if n ≤ 1 then [.zero]
  else
    let d := (derFrom c (n - 1) [.zero, .zero]).take (n - 1)
    let d := match d with
      | [] => []
      | x :: xs => r64 (x.mul half) :: xs
    d.map fun x => r64 ((x.mul two).div (b.sub a))

/-! ## Composition (R232, R233) -/

/-- 2P - B, one rounding for each coefficient; missing ones are +0. -/
def twiceMinus (double : Bool) (p b : List Val) : List Val :=
  (List.range (Nat.max p.length b.length)).map fun j =>
    r64 ((if double then two.mul (coef p j) else coef p j).sub (coef b j))

/-- A value added to coefficient 0. -/
def addFirst (p : List Val) (v : Val) : List Val :=
  match p with
  | [] => [r64 (Val.zero.add false v)]
  | x :: xs => r64 (x.add false v) :: xs

/-- The recurrence of R232 from coefficient k down to 1. -/
def composeFrom (tol : Val) (c u : List Val) : Nat → List Val → List Val → List Val
  | 0, b1, b2 => addFirst (twiceMinus false (mulSeries u b1 2048) b2) (coef c 0)
  | k + 1, b1, b2 =>
    let p := addFirst (twiceMinus true (mulSeries u b1 2048) b2) (coef c (k + 1))
    composeFrom tol c u k (truncWork tol p) b1

/-- A series composed with an inner one that is mapped to its own variable (R232). -/
def compose (tol : Val) (c u : List Val) : List Val := composeFrom tol c u (c.length - 1) [.zero] [.zero]

/-- The bounds of a series over its domain (R232). -/
def boundsOf (g : List Val) : Val × Val :=
  let s := g.tail.foldl (fun (a : Val) v => round64 .rup (a.add false v.abs)) .zero
  (round64 .rdn ((coef g 0).add true s.neg), round64 .rup ((coef g 0).add false s))

/-- The inner series of f.comp mapped onto the domain [p, q] (R232). -/
def innerSeries (p q : Val) (g : List Val) : List Val :=
  let w := q.sub p
  g.zipIdx.map fun (v, k) =>
    if k = 0 then r64 ((((two.mul v).sub p).sub q).div w) else r64 ((two.mul v).div w)

/-- The inner series of a restriction of [a, b] to [a2, b2] (R233). -/
def restrictInner (a b a2 b2 : Val) : List Val :=
  let w := b.sub a
  [r64 ((((a2.add false b2).sub a).sub b).div w), r64 ((b2.sub a2).div w)]

/-! ## Evaluation (R234, R235) -/

/-- clen from coefficient k down to 1: b1 and b2. -/
def clenFrom (c : List Val) (u t : Val) : Nat → Val → Val → Val
  | 0, b1, b2 => r64 ((u.mul b1).add false (r64 ((coef c 0).sub b2)))
  | k + 1, b1, b2 =>
    let w := r64 ((coef c (k + 1)).sub b2)
    clenFrom c u t k (r64 ((t.mul b1).add false w)) b1

/-- clen(c, n, u) (R234). -/
def clen (c : List Val) (u : Val) : Val := clenFrom c u (two.mul u) (c.length - 1) .zero .zero

/-- The point of [-1, 1] for x in [a, b] (R235). -/
def unitOf (a b x : Val) : Val :=
  let u := r64 ((r64 ((r64 (two.mul x)).sub (r64 (a.add false b)))).div (r64 (b.sub a)))
  if u.lt (.real true 1 0) then .real true 1 0 else if (Val.real false 1 0).lt u then .real false 1 0 else u

/-- A lane of f.eval: its f32 value, and whether it was clamped (R235). -/
def evalLane (a b : Val) (c : List Val) (w : W32) : W32 × Bool :=
  let x := FFmt.f32.decode w.toNat
  if x.isNan then (0x7FC00000, false)
  else
    let low := x.lt a
    let high := b.lt x
    let x := if low then a else if high then b else x
    (BitVec.ofNat 32 (FFmt.f32.rne (clen c (unitOf a b x))), low || high)

/-! ## Roots (R237) -/

/-- A piece of a function: its domain and coefficients. -/
structure Piece where
  p : Val
  q : Val
  c : List Val

/-- The pieces of a function, in ascending x; `depth` splits are left. -/
def splitPieces (tol : Val) (x : Piece) : Nat → List Piece
  | 0 => [x]
  | depth + 1 =>
    if x.c.length ≤ 16 then [x]
    else
      let m := r64 ((x.p.add false x.q).mul half)
      let part (a b : Val) : Piece := ⟨a, b, (truncTol tol (compose tol x.c (restrictInner x.p x.q a b))).1⟩
      splitPieces tol (part x.p m) depth ++ splitPieces tol (part m x.q) depth

/-- Two values that are not NaN have the same sign. -/
def sameSign (a b : Val) : Bool := !a.isNan && !b.isNan && a.neg? == b.neg?

/-- The bisection of R237 between two points. -/
def bisect (c : List Val) : Nat → Val → Val → Val
  | 0, lo, hi => r64 ((lo.add false hi).mul half)
  | n + 1, lo, hi =>
    let t := r64 ((lo.add false hi).mul half)
    let s := clen c t
    if s.isZero then t
    else if sameSign s (clen c lo) then bisect c n t hi else bisect c n lo t

/-- The roots of a piece, in the variable of the piece (R237). -/
def pieceRoots (c : List Val) (last : Bool) : List Val :=
  let v := (List.range 33).map fun j => clen c (scanNode j)
  (List.range 33).flatMap fun j =>
    let x := coef v j
    let y := coef v (j + 1)
    (if x.isZero && (j < 32 || last) then [scanNode j] else [])
      ++ (if j < 32 && !x.isZero && !y.isZero && !x.isNan && !y.isNan && x.neg? != y.neg?
          then [bisect c 48 (scanNode j) (scanNode (j + 1))] else [])

/-- The roots of pieces in ascending x. -/
def rootsOfPieces : List Piece → List Val
  | [] => []
  | x :: rest =>
    let mid := r64 ((x.p.add false x.q).mul half)
    let h := r64 ((x.q.sub x.p).mul half)
    (pieceRoots x.c rest.isEmpty).map (fun u => r64 ((h.mul u).add false mid)) ++ rootsOfPieces rest

/-- The roots of a function (R237). -/
def rootsOf (tol a b : Val) (c : List Val) : List Val := rootsOfPieces (splitPieces tol ⟨a, b, c⟩ 6)

/-! ## Extremes (R238) -/

/-- A candidate replaces the best one so far: a better value, or an equal one at a smaller abscissa. -/
def extBetter (greatest : Bool) (best : Option (Val × Val)) (x : Val × Val) : Bool :=
  match best with
  | none => true
  | some b =>
    (if greatest then b.1.lt x.1 else x.1.lt b.1) || (b.1.eq x.1 && x.2.lt b.2)

/-- The greatest or least value among candidates, with its abscissa. -/
def extOf (greatest : Bool) (l : List (Val × Val)) : Option (Val × Val) :=
  l.foldl (fun b x => if x.1.isNan then b else if extBetter greatest b x then some x else b) none

/-- The four values of f.ext, and whether more than sixteen roots were found (R238). -/
def extremesOf (tol a b : Val) (c : List Val) : List Val × Bool :=
  let d := (truncTol tol (derSeries a b c)).1
  let rs := rootsOf tol a b d
  let clamp (x : Val) : Val := if x.lt a then a else if b.lt x then b else x
  let cands := (a :: b :: rs.take 16).map fun x => let x := clamp x; (clen c (unitOf a b x), x)
  let two (g : Bool) : List Val := match extOf g cands with
    | some (v, x) => [v, x]
    | none => [.nan, .nan]
  (two true ++ two false, 16 < rs.length)

end Sys2Proof.Machine
end

