-- ==== Sys2Proof/Machine/Vector.lean ====
section
/-! DEFINITION. The vector engine's instructions on tiles (R172-R178, R182-R189). -/

namespace Sys2Proof.Machine

/-! ## Shapes of V words -/

/-- A tile and the events of computing it, lane by lane. -/
def lanesOf (f : Nat → W32 × Events) : Tile × Events :=
  let l := (List.range 1024).map f
  (⟨⟨l.map (·.1)⟩, by simp [l]⟩, l.foldl (fun a x => a.add x.2) Events.none)

/-- The tile of a list of lanes; lanes that are missing are 0. -/
def Tile.ofList (l : List W32) : Tile :=
  ⟨⟨(l ++ List.replicate (1024 - l.length) 0).take 1024⟩, by simp; omega⟩

/-- A word that computes tile d from the tiles it reads, in that order, and counts its events. -/
def State.toTile (s : State) (cls : Fin 16) (t : Tok) (d : Fin 16) (reads : List (Fin 16))
    (uses : List (Fin 16 × Bool)) (f : State → Res ((Tile × Events) × State)) : Host.Outcome State Fault Refusal :=
  s.issue .V t cls uses fun s => do
    for r in reads do
      s.tileOk .V r false
    s.tileOk .V d true
    let ((x, ev), s) ← f s
    .ok ((s.setTile d x).countV ev)

/-- A lanewise word: lane i of d from lane i of a, of b, and of the old d. -/
def State.lanewise (s : State) (cls : Fin 16) (t : Tok) (d a b : Fin 16) (f : W32 → W32 → W32 → W32 × Events) :
    Host.Outcome State Fault Refusal :=
  s.toTile cls t d [a, b] [] fun s =>
    let x := s.tile a
    let y := s.tile b
    let z := s.tile d
    .ok (lanesOf fun i => f (x.at_ i) (y.at_ i) (z.at_ i), s)

/-- A lanewise word of one source. -/
def State.lanewise1 (s : State) (cls : Fin 16) (t : Tok) (d a : Fin 16) (f : W32 → W32 × Events) :
    Host.Outcome State Fault Refusal :=
  s.toTile cls t d [a] [] fun s =>
    let x := s.tile a
    .ok (lanesOf fun i => f (x.at_ i), s)

/-- A lane without events. -/
def plain (w : W32) : W32 × Events := (w, Events.none)

/-- The lane of an exact arithmetic result (R75, R175). -/
def modResult (m : Mod) (v : Val) : W32 × Events :=
  match m.ty.ffmt with
  | some _ => m.ty.convert m.rnd m.sat v
  | none => if m.sat then m.ty.convert m.rnd true v else plain (m.ty.lane v.int0)

/-- A lane read as the type of a mod field. -/
def modVal (m : Mod) (x : W32) : Val := m.ty.val x

/-- The exact sum of two lanes, rounded (R175, R183). -/
def addLane (m : Mod) (x y : W32) : W32 × Events :=
  modResult m ((modVal m x).add (m.rnd == .rdn) (modVal m y))

/-- The larger of two lanes (R175). -/
def maxLane (m : Mod) (x y : W32) : W32 × Events := modResult m ((modVal m x).max (modVal m y))

/-- The smaller of two lanes (R175). -/
def minLane (m : Mod) (x y : W32) : W32 × Events := modResult m ((modVal m x).min (modVal m y))

/-! ## Elementwise arithmetic (R175) -/

/-- v.add (R175). -/
def execVAdd (t : Tok) (d a b : Fin 16) (m : Mod) (s : State) : Host.Outcome State Fault Refusal :=
  s.lanewise 7 t d a b fun x y _ => addLane m x y

/-- v.sub (R175). -/
def execVSub (t : Tok) (d a b : Fin 16) (m : Mod) (s : State) : Host.Outcome State Fault Refusal :=
  s.lanewise 7 t d a b fun x y _ => modResult m ((modVal m x).add (m.rnd == .rdn) (modVal m y).neg)

/-- v.mul (R175). -/
def execVMul (t : Tok) (d a b : Fin 16) (m : Mod) (s : State) : Host.Outcome State Fault Refusal :=
  s.lanewise 8 t d a b fun x y _ => modResult m ((modVal m x).mul (modVal m y))

/-- v.fma (R75, R175). -/
def execVFma (t : Tok) (d a b : Fin 16) (m : Mod) (s : State) : Host.Outcome State Fault Refusal :=
  s.lanewise 8 t d a b fun x y z =>
    modResult m (((modVal m x).mul (modVal m y)).add (m.rnd == .rdn) (modVal m z))

/-- v.min (R175). -/
def execVMin (t : Tok) (d a b : Fin 16) (m : Mod) (s : State) : Host.Outcome State Fault Refusal :=
  s.lanewise 7 t d a b fun x y _ => minLane m x y

/-- v.max (R175). -/
def execVMax (t : Tok) (d a b : Fin 16) (m : Mod) (s : State) : Host.Outcome State Fault Refusal :=
  s.lanewise 7 t d a b fun x y _ => maxLane m x y

/-- v.abs (R175). -/
def execVAbs (t : Tok) (d a : Fin 16) (m : Mod) (s : State) : Host.Outcome State Fault Refusal :=
  s.lanewise1 7 t d a fun x => modResult m (modVal m x).abs

/-- v.neg (R175). -/
def execVNeg (t : Tok) (d a : Fin 16) (m : Mod) (s : State) : Host.Outcome State Fault Refusal :=
  s.lanewise1 7 t d a fun x => modResult m (modVal m x).neg

/-! ## Bits, shifts, selection, comparison (R176) -/

/-- v.and (R176). -/
def execVAnd (t : Tok) (d a b : Fin 16) (_m : Mod) (s : State) : Host.Outcome State Fault Refusal :=
  s.lanewise 7 t d a b fun x y _ => plain (x &&& y)

/-- v.or (R176). -/
def execVOr (t : Tok) (d a b : Fin 16) (_m : Mod) (s : State) : Host.Outcome State Fault Refusal :=
  s.lanewise 7 t d a b fun x y _ => plain (x ||| y)

/-- v.xor (R176). -/
def execVXor (t : Tok) (d a b : Fin 16) (_m : Mod) (s : State) : Host.Outcome State Fault Refusal :=
  s.lanewise 7 t d a b fun x y _ => plain (x ^^^ y)

/-- v.shl (R176). -/
def execVShl (t : Tok) (d a b : Fin 16) (m : Mod) (s : State) : Host.Outcome State Fault Refusal :=
  s.lanewise 7 t d a b fun x y _ => modResult m (Val.ofInt (m.ty.int x * 2 ^ (y.toNat % 32)))

/-- v.shr (R176). -/
def execVShr (t : Tok) (d a b : Fin 16) (m : Mod) (s : State) : Host.Outcome State Fault Refusal :=
  s.lanewise 7 t d a b fun x y _ => plain (m.ty.lane (m.ty.int x / 2 ^ (y.toNat % 32)))

/-- v.sel (R176). -/
def execVSel (t : Tok) (d a b : Fin 16) (_m : Mod) (s : State) : Host.Outcome State Fault Refusal :=
  s.lanewise 7 t d a b fun x y z => plain (if z != 0 then x else y)

/-- A comparison: 1 or 0 in each lane (R176). -/
def State.cmp (s : State) (t : Tok) (d a b : Fin 16) (m : Mod) (f : Val → Val → Bool) :
    Host.Outcome State Fault Refusal :=
  s.lanewise 7 t d a b fun x y _ => plain (if f (modVal m x) (modVal m y) then 1 else 0)

/-- v.cmp.eq (R176). -/
def execVCmpEq (t : Tok) (d a b : Fin 16) (m : Mod) (s : State) : Host.Outcome State Fault Refusal :=
  s.cmp t d a b m Val.eq

/-- v.cmp.ne (R176). -/
def execVCmpNe (t : Tok) (d a b : Fin 16) (m : Mod) (s : State) : Host.Outcome State Fault Refusal :=
  s.cmp t d a b m fun x y => !x.eq y

/-- v.cmp.lt (R176). -/
def execVCmpLt (t : Tok) (d a b : Fin 16) (m : Mod) (s : State) : Host.Outcome State Fault Refusal :=
  s.cmp t d a b m Val.lt

/-- v.cmp.le (R176). -/
def execVCmpLe (t : Tok) (d a b : Fin 16) (m : Mod) (s : State) : Host.Outcome State Fault Refusal :=
  s.cmp t d a b m fun x y => x.lt y || x.eq y

/-! ## Functions and conversion (R177, R178) -/

/-- v.exp2 (R177). -/
def execVExp2 (t : Tok) (d a : Fin 16) (m : Mod) (s : State) : Host.Outcome State Fault Refusal :=
  s.lanewise1 9 t d a fun x => modResult m (modVal m x).exp2

/-- v.log2 (R177). -/
def execVLog2 (t : Tok) (d a : Fin 16) (m : Mod) (s : State) : Host.Outcome State Fault Refusal :=
  s.lanewise1 9 t d a fun x => modResult m (modVal m x).log2

/-- v.rcp (R177). -/
def execVRcp (t : Tok) (d a : Fin 16) (m : Mod) (s : State) : Host.Outcome State Fault Refusal :=
  s.lanewise1 9 t d a fun x => modResult m (modVal m x).rcp

/-- v.rsq (R177). -/
def execVRsq (t : Tok) (d a : Fin 16) (m : Mod) (s : State) : Host.Outcome State Fault Refusal :=
  s.lanewise1 9 t d a fun x => modResult m (modVal m x).rsq

/-- v.cvt.D.S (R178). -/
def execVCvt (t : Tok) (d a : Fin 16) (dty sty : Ty) (rnd : Rnd) (sat : Bool) (s : State) :
    Host.Outcome State Fault Refusal :=
  s.lanewise1 7 t d a fun x => dty.convert rnd sat (sty.val x)

/-! ## Layout (R182-R185) -/

/-- A word that moves whole lanes of a tile by a popped count: `from_ k r c` is the lane index that lane (r, c) takes. -/
def State.moveLanes (s : State) (t : Tok) (d a q : Fin 16) (from_ : Nat → Nat → Nat → Nat) :
    Host.Outcome State Fault Refusal :=
  s.toTile 10 t d [a] [(q, false)] fun s => do
    let (k, s) ← s.pop .V q
    let x := s.tile a
    .ok (lanesOf fun i => plain (x.at_ (from_ k.toNat (i / 64) (i % 64))), s)

/-- v.rotr (R182). -/
def execVRotr (t : Tok) (d a q : Fin 16) (_m : Mod) (s : State) : Host.Outcome State Fault Refusal :=
  s.moveLanes t d a q fun k r c => 64 * r + (c + 64 - k % 64) % 64

/-- v.rotc (R182). -/
def execVRotc (t : Tok) (d a q : Fin 16) (_m : Mod) (s : State) : Host.Outcome State Fault Refusal :=
  s.moveLanes t d a q fun k r c => 64 * ((r + 16 - k % 16) % 16) + c

/-- v.bcr (R182). -/
def execVBcr (t : Tok) (d a q : Fin 16) (_m : Mod) (s : State) : Host.Outcome State Fault Refusal :=
  s.moveLanes t d a q fun k _ c => 64 * (k % 16) + c

/-- v.bcc (R182). -/
def execVBcc (t : Tok) (d a q : Fin 16) (_m : Mod) (s : State) : Host.Outcome State Fault Refusal :=
  s.moveLanes t d a q fun k r _ => 64 * r + k % 64

/-- Two lists of lanes combined lane by lane, with the events. -/
def combine (op : W32 → W32 → W32 × Events) (l r : List W32) : List W32 × Events :=
  let xs := (l.zip r).map fun p => op p.1 p.2
  (xs.map (·.1), xs.foldl (fun a x => a.add x.2) Events.none)

/-- The fixed tree of R183 over 2^n lanes: the second half into the first, n times. -/
def treeRed (op : W32 → W32 → W32 × Events) : Nat → List W32 → W32 × Events
  | 0, l => (l.headD 0, Events.none)
  | n + 1, l =>
    let (x, e) := combine op (l.take (2 ^ n)) (l.drop (2 ^ n))
    let (y, f) := treeRed op n x
    (y, e.add f)

/-- The lanes of a row. -/
def Tile.row (t : Tile) (r : Nat) : List W32 := (List.range 64).map fun c => t.at_ (64 * r + c)

/-- The lanes of a column. -/
def Tile.col (t : Tile) (c : Nat) : List W32 := (List.range 16).map fun r => t.at_ (64 * r + c)

/-- A reduction along rows (R183). -/
def State.redr (s : State) (t : Tok) (d a : Fin 16) (op : W32 → W32 → W32 × Events) : Host.Outcome State Fault Refusal :=
  s.toTile 10 t d [a] [] fun s =>
    let x := s.tile a
    let rs := (List.range 16).map fun r => treeRed op 6 (x.row r)
    .ok ((Tile.ofList (rs.flatMap fun y => y.1 :: List.replicate 63 0), rs.foldl (fun a y => a.add y.2) Events.none), s)

/-- A reduction along columns (R183). -/
def State.redc (s : State) (t : Tok) (d a : Fin 16) (op : W32 → W32 → W32 × Events) : Host.Outcome State Fault Refusal :=
  s.toTile 10 t d [a] [] fun s =>
    let x := s.tile a
    let cs := (List.range 64).map fun c => treeRed op 4 (x.col c)
    .ok ((Tile.ofList (cs.map (·.1)), cs.foldl (fun a y => a.add y.2) Events.none), s)

/-- v.redr.add (R183). -/
def execVRedrAdd (t : Tok) (d a : Fin 16) (m : Mod) (s : State) : Host.Outcome State Fault Refusal :=
  s.redr t d a (addLane m)

/-- v.redr.max (R183). -/
def execVRedrMax (t : Tok) (d a : Fin 16) (m : Mod) (s : State) : Host.Outcome State Fault Refusal :=
  s.redr t d a (maxLane m)

/-- v.redr.min (R183). -/
def execVRedrMin (t : Tok) (d a : Fin 16) (m : Mod) (s : State) : Host.Outcome State Fault Refusal :=
  s.redr t d a (minLane m)

/-- v.redc.add (R183). -/
def execVRedcAdd (t : Tok) (d a : Fin 16) (m : Mod) (s : State) : Host.Outcome State Fault Refusal :=
  s.redc t d a (addLane m)

/-- v.redc.max (R183). -/
def execVRedcMax (t : Tok) (d a : Fin 16) (m : Mod) (s : State) : Host.Outcome State Fault Refusal :=
  s.redc t d a (maxLane m)

/-- v.redc.min (R183). -/
def execVRedcMin (t : Tok) (d a : Fin 16) (m : Mod) (s : State) : Host.Outcome State Fault Refusal :=
  s.redc t d a (minLane m)

/-- Prefix sums of lanes after a first one (R183). -/
def scanFrom (m : Mod) (acc : W32) : List W32 → List W32 × Events
  | [] => ([], Events.none)
  | x :: xs =>
    let (y, e) := addLane m acc x
    let (ys, f) := scanFrom m y xs
    (y :: ys, e.add f)

/-- A lane as an instruction of a type writes it (R173). -/
def cleanLane (t : Ty) (x : W32) : W32 :=
  match t.ffmt with
  | some _ => BitVec.ofNat 32 (x.toNat % 2 ^ t.width)
  | none => t.lane (t.int x)

/-- v.scanr (R183). -/
def execVScanr (t : Tok) (d a : Fin 16) (m : Mod) (s : State) : Host.Outcome State Fault Refusal :=
  s.toTile 10 t d [a] [] fun s =>
    let x := s.tile a
    let rs := (List.range 16).map fun r =>
      let l := x.row r
      let first := cleanLane m.ty (l.headD 0)
      let (ys, e) := scanFrom m first l.tail
      (first :: ys, e)
    .ok ((Tile.ofList (rs.flatMap (·.1)), rs.foldl (fun a y => a.add y.2) Events.none), s)

/-- v.iota (R184). -/
def execVIota (t : Tok) (d : Fin 16) (m : Mod) (s : State) : Host.Outcome State Fault Refusal :=
  s.toTile 7 t d [] [] fun s => .ok (lanesOf fun i => modResult m (Val.ofInt i), s)

/-- The lane that takes the raw bits of a value for a type (R184). -/
def rawLane (t : Ty) (u : Nat) : W32 :=
  match t.ffmt with
  | some _ => BitVec.ofNat 32 (u % 2 ^ t.width)
  | none => t.lane u

/-- v.splat (R184). -/
def execVSplat (t : Tok) (d q : Fin 16) (m : Mod) (s : State) : Host.Outcome State Fault Refusal :=
  s.toTile 7 t d [] [(q, false)] fun s => do
    let (u, s) ← s.pop .V q
    .ok (lanesOf fun _ => plain (rawLane m.ty u.toNat), s)

/-- v.pack (R185). -/
def execVPack (t : Tok) (d a : Fin 16) (m : Mod) (s : State) : Host.Outcome State Fault Refusal :=
  s.toTile 10 t d [a] [] fun s =>
    let x := s.tile a
    let w := m.ty.width
    let n := 32 / w
    let part (i k : Nat) : Nat := (x.at_ (n * i + k)).toNat % 2 ^ w * 2 ^ (w * k)
    .ok (lanesOf fun i =>
      plain (if i < 1024 / n then BitVec.ofNat 32 (((List.range n).map (part i)).sum) else 0), s)

/-- v.unpack (R185). -/
def execVUnpack (t : Tok) (d a : Fin 16) (m : Mod) (s : State) : Host.Outcome State Fault Refusal :=
  s.toTile 10 t d [a] [] fun s =>
    let x := s.tile a
    let w := m.ty.width
    let n := 32 / w
    .ok (lanesOf fun j => plain (rawLane m.ty ((x.at_ (j / n)).toNat / 2 ^ (w * (j % n)))), s)

/-! ## v.part (R186) -/

/-- v.part (R186). -/
def execVPart (t : Tok) (d a q : Fin 16) (_m : Mod) (s : State) : Host.Outcome State Fault Refusal :=
  s.toTile 10 t d [a] [(q, true)] fun s => do
    let x := s.tile a
    let on := (List.range 1024).filter fun i => x.at_ i != 0
    let off := (List.range 1024).filter fun i => x.at_ i == 0
    let s ← s.push .V q (BitVec.ofNat 64 on.length)
    .ok ((Tile.ofList ((on ++ off).map (BitVec.ofNat 32)), Events.none), s)

/-! ## v.smass (R188) -/

/-- An f32 lane's value. -/
def f32Val (x : W32) : Val := FFmt.f32.decode x.toNat

/-- A value rounded to an f32 lane by rne. -/
def f32Lane (v : Val) : W32 := BitVec.ofNat 32 (FFmt.f32.rne v)

/-- E(x - M) (R188): 1 where the two are equal. -/
def massE (x m : Val) : Val := if x.eq m then .real false 1 0 else FFmt.f32.near (x.add false m.neg).exp

/-- M, Z and the shares of the stubs (R188); none where Z is NaN. -/
def massOf (m z : Val) (vb : List Val) : Option (Val × Val × List Val) :=
  let top := vb.foldl (fun (a : Val) v => if a.lt v then v else a) m
  let z0 : Val := if m == .inf true then .zero else FFmt.f32.near (z.mul (massE m top))
  let zz := vb.foldl (fun (a : Val) v => if v == .inf true then a else FFmt.f32.near (a.add false (massE v top))) z0
  if zz.isNan then none
  else
    let share (v : Val) : Val :=
      if v == .inf true || zz.isZero then .zero else FFmt.f32.near ((massE v top).div zz)
    some (top, zz, vb.map share)

/-- The first index of the largest value, with the value. -/
def largest : List Val → Nat → Nat × Val → Nat × Val
  | [], _, best => best
  | v :: vs, i, best => largest vs (i + 1) (if best.2.lt v then (i, v) else best)

/-- v.smass (R188). DEDUCED: its test of the largest share against the threshold is R188's also where a negative z makes a share greater
than 1, so that a threshold of 1 or more then faults (log entry 9; R187 says that such a threshold never does). -/
def execVSmass (t : Tok) (d a b : Fin 16) (s : State) : Host.Outcome State Fault Refusal :=
  s.toTile 11 t d [a, b] [] fun s => do
    let x := s.tile a
    let theta := f32Val s.misc.smtheta
    require (Val.zero.lt theta) .shape 0x2E1
    let m := f32Val (x.at_ 0)
    let z := f32Val (x.at_ 1)
    let vb := ((s.tile b).toList.take 1022).map f32Val
    let nan : (Tile × Events) := (Tile.of fun _ => 0x7FC00000, ⟨0, 1⟩)
    if m.isNan || z.isNan || vb.any Val.isNan then .ok (nan, s)
    else
      match massOf m z vb with
      | none => .ok (nan, s)
      | some (top, zz, sh) =>
        let (g, v) := largest sh.tail 1 (0, sh.headD .zero)
        if theta.lt v then
          .error (.fault { kind := .context, code := BitVec.ofNat 32 g, seg := x.at_ (2 + g), share := f32Lane v,
                           lane := BitVec.ofNat 10 g })
        else .ok ((Tile.ofList (sh.map f32Lane ++ [f32Lane top, f32Lane zz]), Events.none), s)

/-! ## v.stub (R189) -/

/-- The column sums after the rows taken (R189). -/
def stubSums (ty : Ty) (keys : Tile) (rows : Nat) (old : Tile) : List W32 :=
  (List.range 64).map fun c =>
    (List.range rows).foldl (fun acc r => f32Lane ((f32Val acc).add false (ty.val (keys.at_ (64 * r + c))))) (old.at_ c)

/-- v.stub (R189). -/
def execVStub (t : Tok) (d a q : Fin 16) (m : Mod) (s : State) : Host.Outcome State Fault Refusal :=
  s.toTile 11 t d [a] [(q, false)] fun s => do
    let (u, s) ← s.pop .V q
    require (u.extractLsb' 10 54 == 0 && u.extractLsb' 4 4 == 0) .shape 0x2E0
    let rows := u.toNat % 16 + 1
    let old := if u.getLsbD 9 then Tile.zero else s.tile d
    let sums := stubSums m.ty (s.tile a) rows old
    let n := Nat.min ((old.at_ 64).toNat + rows) (2 ^ 32 - 1)
    let fin := sums.map fun x => m.ty.convert .rne true ((f32Val x).div (Val.ofInt n))
    let finish := u.getLsbD 8
    let row0 := if finish then fin.map (·.1) else sums
    let ev := if finish then fin.foldl (fun a x => a.add x.2) Events.none else Events.none
    let tile := Tile.of fun i =>
      if i < 64 then row0.getD i 0
      else if i = 64 then BitVec.ofNat 32 n
      else if i = 65 && finish then f32Lane (lnNat n)
      else old.at_ i
    .ok ((tile, ev), s)

end Sys2Proof.Machine
end

