-- ==== Sys2Proof/Machine/VMem.lean ====
section
/-! DEFINITION. The vector engine's memory instructions: v.ld, v.st, v.ldx and v.stx (R179-R181, R191). -/

namespace Sys2Proof.Machine

/-! ## Access (R191) -/

/-- The checked pieces of n bytes from an address, which is a multiple of the element size. -/
def State.rangeV (s : State) (p : Word) (n esize : Nat) (a : Acc) : Res (List (Nat × Nat) × State) := do
  if p.toNat % esize != 0 then .error (.fault (accFlt .alignment 0 p a)) else .ok ()
  if spaceOf p = 0x9 then .error (.fault (accFlt .protection 1 p a))
  else
    let (ps, s) ← liftFlt (s.range s.textAgent p n a)
    for q in ps do
      s.undrained q.1
    .ok (ps, s)

/-- The bytes of checked pieces, as V or F reads them. -/
def State.readBy (s : State) (e : Eng) (p : Word) : List (Nat × Nat) → Except Flt (List Byte)
  | [] => .ok []
  | (x, n) :: rest => do
    let bs ← s.loadBytes e p x n
    let more ← s.readBy e (plus p n) rest
    .ok (bs ++ more)

/-- The traffic of what has been read is charged (R312), and what is read of a peer is a receipt of each answer (R351). -/
def State.answers (s : State) (e : Eng) (ps : List (Nat × Nat)) : State :=
  ps.foldl (fun s x => (s.peerReceipt e x.1).touched x.1 x.2) s

/-- Bytes that V or F stores at checked pieces, which enter its store queue (R244). -/
def State.storeBy (s : State) (e : Eng) (seq : Nat) (p : Word) (bs : List Byte) : List (Nat × Nat) → State
  | [] => s
  | (x, n) :: rest => (s.addPieces e seq p x (bs.take n)).storeBy e seq (plus p n) (bs.drop n) rest

/-- An engine holds at most n memory instructions in flight, and stalls without a fault at the next (R191, R225). -/
def State.memRoom (s : State) (e : Eng) (n : Nat) : Res Unit := if n ≤ s.storesOut e then .error (.wait .unit none) else .ok ()

/-! ## Selectors -/

/-- The queue a VM word uses. -/
def VSel.uses : VSel → List (Fin 16 × Bool)
  | .win _ => []
  | .pop q | .peek q => [(q, false)]

/-- The address that the address form takes from its queue. -/
def State.vAddr (s : State) : VSel → Res (Word × State)
  | .pop q => s.pop .V q
  | .peek q => s.peekQ .V q
  | .win _ => .ok (0, s)

/-! ## Lanes and bytes -/

/-- A lane from an element of n bytes, extended (R179). -/
def elemLane (signed : Bool) (bs : List Byte) : W32 :=
  let n := bs.length
  let v := leNat bs
  if signed then BitVec.ofInt 32 (sextNat (8 * n) v) else BitVec.ofNat 32 v

/-- Bytes cut into elements of n bytes. -/
def chunksOf (n : Nat) : Nat → List Byte → List (List Byte)
  | 0, _ => []
  | fuel + 1, bs => if bs.isEmpty then [] else bs.take n :: chunksOf n fuel (bs.drop n)

/-- The tile of its bytes. -/
def tileOf (esize : Nat) (signed : Bool) (bs : List Byte) : Tile :=
  Tile.ofList ((chunksOf esize 1024 bs).map (elemLane signed))

/-- The bytes of a tile, the low bytes of each lane. -/
def bytesOfTile (esize : Nat) (t : Tile) : List Byte := t.toList.flatMap fun w => leBytes esize w.toNat

/-! ## Windows (R163, R179) -/

/-- The bytes of tile rows r to 15 of a window at a head: those within the ring must have arrived, the others are zero. -/
def State.windowRows (s : State) (x : Window) (sh : Shape) (h j0 off n : Nat) (r : Nat) : Nat → Res (List Byte)
  | 0 => .ok []
  | fuel + 1 => do
    let bs ←
      if j0 + r < sh.ringrows then
        let i := h + j0 + r
        if x.missing.contains i then .error (.wait (.rows h) none)
        else
          let o := sh.ring + i % sh.ringrows * sh.pitch + off
          liftFlt (s.loadBytes .V (0x8000000000000000 + BitVec.ofNat 64 o) (locPad s.cur.core o) n)
      else .ok (List.replicate n 0)
    let rest ← s.windowRows x sh h j0 off n (r + 1) fuel
    .ok (bs ++ rest)

/-- The head at which V's windowed load reads: that of its issue, while it waits for rows (R179). -/
def State.headOf (s : State) (x : Window) : Nat :=
  match (s.run .V).stall with
  | some { why := .rows h, .. } => h
  | _ => x.head

/-- The bytes of a tile read through a window (R179). -/
def State.windowTile (s : State) (w : Fin 8) (row : Word) (esize : Nat) : Res (List Byte) :=
  let x := s.roll.win[w]
  match x.shape with
  | Option.none => raise .shape (0x2C0 + w.val)
  | Option.some sh =>
    let j0 := row.toNat % 2 ^ 13
    let off := row.toNat / 2 ^ 13 % 2 ^ 22 * 64
    if sh.ringrows ≤ j0 || sh.pitch < off + 64 * esize then raise .shape (0x2C8 + w.val)
    else do
      s.memRoom .V 16
      s.windowRows x sh (s.headOf x) j0 off (64 * esize) 0 16

/-! ## v.ld and v.st -/

/-- The trailer check of a trailered v.ld (R78, R179, R180). -/
def State.vTrailer (s : State) (p : Word) (bs : List Byte) : Res State := do
  let q : Word := BitVec.ofNat 64 ((p.toNat + bs.length + 63) / 64 * 64)
  let (ps, s) ← s.rangeV q 64 1 .load
  let tr ← liftFlt (s.readBy .V q ps)
  if trailerOk bs (BitVec.ofNat 512 (leNat tr)) none then .ok (s.answers .V ps)
  else
    let (tile, _) ← s.rangeV p bs.length 1 .load
    .error (.fault (trailerFlt p tile))

/-- v.ld (R179). -/
def State.vld (s : State) (esize : Nat) (signed : Bool) (t : Tok) (d : Fin 16) (sel : VSel) (row : Word) :
    Host.Outcome State Fault Refusal :=
  s.issue .V t 11 (VSel.uses sel) fun s => do
    let (base, s) ← s.vAddr sel
    s.tileOk .V d true
    match sel with
    | .win w =>
      let bs ← s.windowTile w row esize
      .ok (s.setTile d (tileOf esize signed bs))
    | _ =>
      let p := base + row * BitVec.ofNat 64 (64 * esize)
      let (ps, s) ← s.rangeV p (1024 * esize) esize .load
      require (!s.misc.vctl || row == 0) .shape 0x2D8
      s.memRoom .V 16
      let bs ← liftFlt (s.readBy .V p ps)
      let s ← if s.misc.vctl then s.vTrailer p bs else .ok s
      .ok ((s.answers .V ps).setTile d (tileOf esize signed bs))

/-- v.st (R179). -/
def State.vst (s : State) (esize : Nat) (t : Tok) (d : Fin 16) (sel : VSel) (row : Word) :
    Host.Outcome State Fault Refusal :=
  s.issue .V t 11 (VSel.uses sel) fun s => do
    let (base, s) ← s.vAddr sel
    s.tileOk .V d false
    match sel with
    | .win w => raise .shape (0x2D0 + w.val)
    | _ =>
      let p := base + row * BitVec.ofNat 64 (64 * esize)
      let (ps, s) ← s.rangeV p (1024 * esize) esize .store
      s.memRoom .V 16
      let s := s.countStore .V
      .ok (s.storeBy .V (s.run .V).issued p (bytesOfTile esize (s.tile d)) ps)

/-- v.ld.n8 (R179). -/
def execVLdN8 (t : Tok) (d : Fin 16) (sel : VSel) (row : Word) (s : State) : Host.Outcome State Fault Refusal :=
  s.vld 1 false t d sel row

/-- v.ld.s8 (R179). -/
def execVLdS8 (t : Tok) (d : Fin 16) (sel : VSel) (row : Word) (s : State) : Host.Outcome State Fault Refusal :=
  s.vld 1 true t d sel row

/-- v.ld.n16 (R179). -/
def execVLdN16 (t : Tok) (d : Fin 16) (sel : VSel) (row : Word) (s : State) : Host.Outcome State Fault Refusal :=
  s.vld 2 false t d sel row

/-- v.ld.s16 (R179). -/
def execVLdS16 (t : Tok) (d : Fin 16) (sel : VSel) (row : Word) (s : State) : Host.Outcome State Fault Refusal :=
  s.vld 2 true t d sel row

/-- v.ld (R179). -/
def execVLd (t : Tok) (d : Fin 16) (sel : VSel) (row : Word) (s : State) : Host.Outcome State Fault Refusal :=
  s.vld 4 false t d sel row

/-- v.st.n8 (R179). -/
def execVStN8 (t : Tok) (d : Fin 16) (sel : VSel) (row : Word) (s : State) : Host.Outcome State Fault Refusal :=
  s.vst 1 t d sel row

/-- v.st.n16 (R179). -/
def execVStN16 (t : Tok) (d : Fin 16) (sel : VSel) (row : Word) (s : State) : Host.Outcome State Fault Refusal :=
  s.vst 2 t d sel row

/-- v.st (R179). -/
def execVSt (t : Tok) (d : Fin 16) (sel : VSel) (row : Word) (s : State) : Host.Outcome State Fault Refusal :=
  s.vst 4 t d sel row

/-! ## v.ldx and v.stx (R181) -/

end Sys2Proof.Machine

namespace Sys2Proof

/-- Bytes of a memory element (R35). -/
def Elem.size : Elem → Nat
  | .e32 => 4
  | .n16 | .s16 => 2
  | .n8 | .s8 => 1

/-- A memory element that v.ldx sign-extends (R35). -/
def Elem.signed : Elem → Bool
  | .s16 | .s8 => true
  | .e32 | .n16 | .n8 => false

end Sys2Proof

namespace Sys2Proof.Machine

/-- The checked pieces of the accesses of lanes i and above; the lowest faulting lane is recorded (R181, R290). -/
def State.checkLanes (s : State) (b : Word) (esize : Nat) (a : Acc) (i : Nat) :
    List W32 → Res (List (Word × List (Nat × Nat)) × State)
  | [] => .ok ([], s)
  | w :: ws =>
    let p := b + w.setWidth 64 * BitVec.ofNat 64 esize
    match s.rangeV p esize esize a with
    | .error (.fault f) => .error (.fault { f with info := BitVec.ofNat 64 i })
    | .error e => .error e
    | .ok (ps, s) => do
      let (rest, s) ← s.checkLanes b esize a (i + 1) ws
      .ok ((p, ps) :: rest, s)

/-- The lanes loaded from checked accesses. -/
def State.loadLanes (s : State) (signed : Bool) : List (Word × List (Nat × Nat)) → Except Flt (List W32)
  | [] => .ok []
  | (p, ps) :: rest => do
    let bs ← s.readBy .V p ps
    let more ← s.loadLanes signed rest
    .ok (elemLane signed bs :: more)

/-- The lanes stored at checked accesses, in ascending order. -/
def State.storeLanes (s : State) (seq esize : Nat) : List ((Word × List (Nat × Nat)) × W32) → State
  | [] => s
  | ((p, ps), w) :: rest => (s.storeBy .V seq p (leBytes esize w.toNat) ps).storeLanes seq esize rest

/-- v.ldx (R181). -/
def execVLdx (t : Tok) (d a : Fin 16) (q : Fin 16) (e : Elem) (s : State) : Host.Outcome State Fault Refusal :=
  s.issue .V t 11 [(q, false)] fun s => do
    let (b, s) ← s.pop .V q
    s.tileOk .V a false
    s.tileOk .V d true
    if b.toNat % e.size != 0 then .error (.fault (accFlt .alignment 0 b .load)) else .ok ()
    let (ps, s) ← s.checkLanes b e.size .load 0 (s.tile a).toList
    s.memRoom .V 16
    let ws ← liftFlt (s.loadLanes e.signed ps)
    .ok ((ps.foldl (fun s x => s.answers .V x.2) s).setTile d (Tile.ofList ws))

/-- v.stx (R181). -/
def execVStx (t : Tok) (d a : Fin 16) (q : Fin 16) (e : Elem) (s : State) : Host.Outcome State Fault Refusal :=
  s.issue .V t 11 [(q, false)] fun s => do
    let (b, s) ← s.pop .V q
    s.tileOk .V a false
    s.tileOk .V d false
    if b.toNat % e.size != 0 then .error (.fault (accFlt .alignment 0 b .store)) else .ok ()
    let (ps, s) ← s.checkLanes b e.size .store 0 (s.tile a).toList
    s.memRoom .V 16
    let s := s.countStore .V
    .ok (s.storeLanes (s.run .V).issued e.size (ps.zip (s.tile d).toList))

end Sys2Proof.Machine
end

