-- ==== Sys2Proof/Machine/Func.lean ====
section
/-! DEFINITION. The function engine: the coefficient pool, its instructions, and the last step of those that run in flight
(R216-R240). -/

namespace Sys2Proof.Machine

/-! ## Registers and the pool (R217, R218) -/

/-- A function register. -/
def State.freg (s : State) (f : Fin 16) : FReg := s.roll.f[f]

/-- A function register replaced. -/
def State.setFreg (s : State) (f : Fin 16) (r : FReg) : State := s.setRoll { s.roll with f := s.roll.f.set f r }

/-- The chunks of a register (R218). -/
def FReg.chunks (r : FReg) : Nat := (r.coef.length + 15) / 16

/-- Free chunks of the pool. -/
def State.poolFree (s : State) : Nat := 256 - (s.roll.f.toList.map FReg.chunks).sum

/-- A source register, which must not be empty (R217). -/
def State.fsrc (s : State) (f : Fin 16) : Res FReg := do
  require (!(s.freg f).coef.isEmpty) .shape (0x400 + f.val)
  .ok (s.freg f)

/-- alloc and the register write (R218) under FPOLICY.FIT: a result that does not fit faults or is cut. -/
def State.allocBy (s : State) (fit : Bool) (d : Fin 16) (r : FReg) : Res State := do
  let avail := s.poolFree + (s.freg d).chunks
  if r.chunks ≤ avail then .ok (s.setFreg d r)
  else
    require (fit && avail != 0) .pool d.val
    .ok ((s.flagF true false).setFreg d { r with coef := r.coef.take (16 * avail) })

/-- alloc and the register write under FPOLICY as it stands. -/
def State.alloc (s : State) (d : Fin 16) (r : FReg) : Res State := s.allocBy s.misc.fpolicy d r

/-- trunc with FTOL and FMAXLEN (R223): the coefficients that are left, whether FMAXLEN cut them, and whether one is a NaN or
infinite. -/
def State.truncF (s : State) (c : List Word) : List Word × Bool × Bool :=
  let (short, wild) := truncTol (f64Val s.misc.ftol) (c.map f64Val)
  ((c.take short.length).take s.misc.fmaxlen.toNat, s.misc.fmaxlen.toNat < short.length, wild)

/-- trunc, then alloc, of a working result on a domain (R223). -/
def State.produce (s : State) (d : Fin 16) (lo hi : Word) (c : List Word) : Res State :=
  let (c, cut, wild) := s.truncF c
  (s.flagF cut wild).alloc d { lo := lo, hi := hi, coef := c }

/-- trunc and alloc of a working result given as values. -/
def State.produceVals (s : State) (d : Fin 16) (lo hi : Word) (c : List Val) : Res State := s.produce d lo hi (c.map f64Word)

/-- The coefficients of a register as values. -/
def FReg.vals (r : FReg) : List Val := r.coef.map f64Val

/-! ## Issuing an F instruction -/

/-- F is free: no instruction of it is in flight. -/
def State.fIdle (s : State) : Res Unit := if s.flight.fop.isNone then .ok () else .error (.wait .unit none)

/-- An instruction of F that completes at its issue; the body gives the units charged. -/
def State.issueF (s : State) (t : Tok) (cls : Fin 16) (uses : List (Fin 16 × Bool)) (body : State → Res (State × Nat)) :
    Host.Outcome State Fault Refusal :=
  s.settleIssue .F do
    s.bindAll .F uses
    let (_, s) ← s.takeTokens .F t
    s.fIdle
    let (s, units) ← body s
    .ok (s.retire .F t cls units)

/-- A pop or peek that is stalled on a queue when F's lease of it begins takes the lease fault (R236). -/
def State.leaseBegins (s : State) (step : FStep) : State :=
  match step with
  | .push q _ _ _ =>
    let waits (e : Eng) : Bool := match (s.run e).stall with
      | some st => st.why == .qEmpty q || st.why == .slot q
      | none => false
    match [Eng.A, .C, .M, .V].find? waits with
    | some e => s.takeFault e (Flt.mk' .lease (16 + q.val))
    | none => s
  | _ => s

/-- An instruction of F that stays in flight with a lease until its last step (R128, R240): its inputs are read at issue. -/
def State.leaseF (s : State) (t : Tok) (cls : Fin 16) (uses : List (Fin 16 × Bool))
    (body : State → Res (FStep × List (Fin 16 × QEntry) × Nat × State)) : Host.Outcome State Fault Refusal :=
  s.settleIssue .F do
    s.bindAll .F uses
    let path := s.path .F
    let (taken, s) ← s.takeTokens .F t
    s.fIdle
    let (step, popped, units, s) ← body s
    let o : FOp :=
      { step := step, path := path, popped := popped, taken := taken, eaten := [], posts := t, since := s.now,
        undo := s.cur.undo, cls := cls, units := units, paid := 0, full := none }
    .ok (((s.setFlight { s.flight with fop := some o }).walkOn .F (s.nextPc .F)).leaseBegins step)

/-- n rounded up to groups of k. -/
def groups (n k : Nat) : Nat := (n + k - 1) / k

/-- Cycles of the short coefficient instructions (R239). -/
def shortCycles (n : Nat) : Nat := 8 + groups n 16

/-- Two registers' domains are the same, bit for bit (R217). -/
def sameDomain (a b : FReg) : Res Unit := require (a.lo == b.lo && a.hi == b.hi) .domainMismatch 1

/-! ## Moving and making functions (R225, R226) -/

/-- f.ld (R225). -/
def execFLd (t : Tok) (d q : Fin 16) (s : State) : Host.Outcome State Fault Refusal :=
  s.issueF t 13 [(q, false)] fun s => do
    let (p, s) ← s.pop .F q
    let (ps, s) ← s.rangeV p 32 64 .load
    s.memRoom .F 8
    let hd ← liftFlt (s.readBy .F p ps)
    let h : BitVec 256 := BitVec.ofNat 256 (leNat hd)
    requireAt (h.extractLsb' 139 53 == 0 && h.extractLsb' 192 64 == 0) .shape 0x413 p
    let n := (h.extractLsb' 128 11).toNat
    requireAt (n != 0 && n ≤ 1024) .shape 0x411 p
    let lo : Word := h.extractLsb' 0 64
    let hi : Word := h.extractLsb' 64 64
    requireAt (domainOk (f64Val lo) (f64Val hi)) .shape 0x410 p
    let (qs, s) ← s.rangeV (plus p 32) (8 * n) 1 .load
    let bs ← liftFlt (s.readBy .F (plus p 32) qs)
    let s ← (s.answers .F (ps ++ qs)).alloc d { lo := lo, hi := hi, coef := (chunksOf 8 1024 bs).map leWord }
    .ok (s, 1)

/-- f.st (R225). -/
def execFSt (t : Tok) (d q : Fin 16) (s : State) : Host.Outcome State Fault Refusal :=
  s.issueF t 13 [(q, false)] fun s => do
    let (p, s) ← s.pop .F q
    let r ← s.fsrc d
    let n := r.coef.length
    let bs := leBytes 8 r.lo.toNat ++ leBytes 8 r.hi.toNat ++ leBytes 8 n ++ leBytes 8 0
      ++ r.coef.flatMap fun c => leBytes 8 c.toNat
    let (ps, s) ← s.rangeV p bs.length 64 .store
    s.memRoom .F 8
    let s := s.countStore .F
    .ok (s.storeBy .F (s.run .F).issued p bs ps, 1)

/-- f.mov (R226). -/
def execFMov (t : Tok) (d a : Fin 16) (s : State) : Host.Outcome State Fault Refusal :=
  s.issueF t 13 [] fun s => do
    let r ← s.fsrc a
    .ok (← s.alloc d r, 1)

/-- f.const (R226). -/
def execFConst (t : Tok) (d q : Fin 16) (s : State) : Host.Outcome State Fault Refusal :=
  s.issueF t 12 [(q, false)] fun s => do
    let (v, s) ← s.pop .F q
    let (lo, s) ← s.pop .F q
    let (hi, s) ← s.pop .F q
    require (domainOk (f64Val lo) (f64Val hi)) .shape 0x410
    .ok (← s.produce d lo hi [v], shortCycles 1)

/-- f.trunc (R226). -/
def execFTrunc (t : Tok) (d a q : Fin 16) (s : State) : Host.Outcome State Fault Refusal :=
  s.issueF t 13 [(q, false)] fun s => do
    let (n, s) ← s.pop .F q
    if n == 0 then .ok (s.setFreg d FReg.empty, 1)
    else
      let r ← s.fsrc a
      require (n.toNat ≤ 1024) .shape 0x412
      .ok (← s.alloc d { r with coef := r.coef.take n.toNat }, 1)

/-- f.len (R226, R236). -/
def execFLen (t : Tok) (a q : Fin 16) (s : State) : Host.Outcome State Fault Refusal :=
  s.leaseF t 13 [(q, true)] fun s =>
    .ok (.push q [BitVec.ofNat 64 (s.freg a).coef.length] none false, [], 1, s)

/-- f.fit (R227). -/
def execFFit (t : Tok) (d a q : Fin 16) (s : State) : Host.Outcome State Fault Refusal :=
  s.leaseF t 12 [(q, false)] fun s => do
    let (lo, s) ← s.popE .F q
    let (hi, s) ← s.popE .F q
    let (len, s) ← s.popE .F q
    let n := len.value.toNat
    require (domainOk (f64Val lo.value) (f64Val hi.value)) .shape 0x410
    require (n != 0 && n ≤ 1024) .shape 0x411
    let x := (s.tile a).toList.map f32Val
    let c := (List.range n).map fun k =>
      let sum := (List.range n).foldl (fun (acc : Val) j => r64 (acc.add false ((coef x j).mul (chebAt n k j)))) .zero
      r64 ((if k = 0 then sum else two.mul sum).div (Val.ofInt n))
    let (c, cut, wild) := s.truncF (c.map f64Word)
    .ok (.reg d a lo.value hi.value c cut wild s.misc.fpolicy, [(q, len), (q, hi), (q, lo)], 16 + groups (n * n) 16, s)

/-! ## Coefficient arithmetic (R228-R231) -/

/-- f.add and f.sub (R228). -/
def State.fAddSub (s : State) (minus : Bool) (t : Tok) (d a b : Fin 16) : Host.Outcome State Fault Refusal :=
  s.issueF t 12 [] fun s => do
    let x ← s.fsrc a
    let y ← s.fsrc b
    sameDomain x y
    .ok (← s.produceVals d x.lo x.hi (addSeries minus x.vals y.vals), shortCycles (Nat.max x.coef.length y.coef.length))

/-- f.add (R228). -/
def execFAdd (t : Tok) (d a b : Fin 16) (s : State) : Host.Outcome State Fault Refusal := s.fAddSub false t d a b

/-- f.sub (R228). -/
def execFSub (t : Tok) (d a b : Fin 16) (s : State) : Host.Outcome State Fault Refusal := s.fAddSub true t d a b

/-- f.scal (R228). -/
def execFScal (t : Tok) (d a q : Fin 16) (s : State) : Host.Outcome State Fault Refusal :=
  s.issueF t 12 [(q, false)] fun s => do
    let (v, s) ← s.pop .F q
    let x ← s.fsrc a
    .ok (← s.produceVals d x.lo x.hi (x.vals.map fun c => r64 ((f64Val v).mul c)), shortCycles x.coef.length)

/-- f.mul (R229). -/
def execFMul (t : Tok) (d a b : Fin 16) (s : State) : Host.Outcome State Fault Refusal :=
  s.issueF t 12 [] fun s => do
    let x ← s.fsrc a
    let y ← s.fsrc b
    sameDomain x y
    .ok (← s.produceVals d x.lo x.hi (mulSeries x.vals y.vals 2047), 16 + groups (x.coef.length * y.coef.length) 16)

/-- f.int (R230). -/
def execFInt (t : Tok) (d a : Fin 16) (s : State) : Host.Outcome State Fault Refusal :=
  s.issueF t 12 [] fun s => do
    let x ← s.fsrc a
    .ok (← s.produceVals d x.lo x.hi (intSeries (f64Val x.lo) (f64Val x.hi) x.vals), 12 + groups x.coef.length 8)

/-- f.der (R231). -/
def execFDer (t : Tok) (d a : Fin 16) (s : State) : Host.Outcome State Fault Refusal :=
  s.issueF t 12 [] fun s => do
    let x ← s.fsrc a
    .ok (← s.produceVals d x.lo x.hi (derSeries (f64Val x.lo) (f64Val x.hi) x.vals), 12 + groups x.coef.length 8)

/-! ## Domains and composition (R232, R233) -/

/-- Cycles of f.comp and f.dom.restrict (R239). -/
def compCycles (na nb : Nat) : Nat := 16 + na * (16 + groups (2048 * nb) 16)

/-- f.comp (R232). -/
def execFComp (t : Tok) (d a b : Fin 16) (s : State) : Host.Outcome State Fault Refusal :=
  s.issueF t 12 [] fun s => do
    let x ← s.fsrc a
    let y ← s.fsrc b
    let p := f64Val x.lo
    let q := f64Val x.hi
    let (lo, hi) := boundsOf y.vals
    require (!(lo.lt p || q.lt hi)) .domainMismatch 2
    let c := compose (f64Val s.misc.ftol) x.vals (innerSeries p q y.vals)
    .ok (← s.produceVals d y.lo y.hi c, compCycles x.coef.length y.coef.length)

/-- f.dom.restrict (R233). -/
def execFDomRestrict (t : Tok) (d a q : Fin 16) (s : State) : Host.Outcome State Fault Refusal :=
  s.issueF t 12 [(q, false)] fun s => do
    let (lo, s) ← s.pop .F q
    let (hi, s) ← s.pop .F q
    let x ← s.fsrc a
    let a2 := f64Val lo
    let b2 := f64Val hi
    require (domainOk a2 b2) .shape 0x410
    let a1 := f64Val x.lo
    let b1 := f64Val x.hi
    require (a1.le a2 && b2.le b1) .domainMismatch 3
    let c := compose (f64Val s.misc.ftol) x.vals (restrictInner a1 b1 a2 b2)
    .ok (← s.produceVals d lo hi c, compCycles x.coef.length 2)

/-- f.dom.rescale (R233). -/
def execFDomRescale (t : Tok) (d a q : Fin 16) (s : State) : Host.Outcome State Fault Refusal :=
  s.issueF t 12 [(q, false)] fun s => do
    let (lo, s) ← s.pop .F q
    let (hi, s) ← s.pop .F q
    let x ← s.fsrc a
    require (domainOk (f64Val lo) (f64Val hi)) .shape 0x410
    .ok (← s.alloc d { lo := lo, hi := hi, coef := x.coef }, shortCycles x.coef.length)

/-! ## Evaluation, roots and extremes (R235-R238) -/

/-- f.eval (R235). -/
def execFEval (t : Tok) (d a b : Fin 16) (s : State) : Host.Outcome State Fault Refusal :=
  s.leaseF t 12 [] fun s => do
    let x ← s.fsrc a
    let c := x.vals
    let l := (s.tile b).toList.map (evalLane (f64Val x.lo) (f64Val x.hi) c)
    .ok (.tile d (Tile.ofList (l.map (·.1))) (l.filter (·.2)).length, [], 16 + 64 * c.length, s)

/-- Cycles of f.root and f.ext (R239). -/
def rootCycles (n : Nat) : Nat := 64 + 64 * 33 * 49 * (16 + groups n 16)

/-- The header and roots that f.root pushes from START (R237). -/
def rootValues (start : Nat) (rs : List Val) : List Word :=
  let k := Nat.min 16 rs.length
  let ovf := if 16 < rs.length then 1 else 0
  BitVec.ofNat 64 (start * 256 + ovf * 32 + k) :: (((rs.take 16).drop start).take 3).map f64Word

/-- f.root (R237). -/
def execFRoot (t : Tok) (a q : Fin 16) (s : State) : Host.Outcome State Fault Refusal :=
  s.leaseF t 12 [(q, true)] fun s => do
    let x ← s.fsrc a
    let rs := rootsOf (f64Val s.misc.ftol) (f64Val x.lo) (f64Val x.hi) x.vals
    .ok (.push q (rootValues s.misc.rootStart.toNat rs) (some (BitVec.ofNat 5 (Nat.min 16 rs.length)))
      (16 < rs.length), [], rootCycles x.coef.length, s)

/-- f.ext (R238). -/
def execFExt (t : Tok) (a q : Fin 16) (s : State) : Host.Outcome State Fault Refusal :=
  s.leaseF t 12 [(q, true)] fun s => do
    let x ← s.fsrc a
    let (vs, ovf) := extremesOf (f64Val s.misc.ftol) (f64Val x.lo) (f64Val x.hi) x.vals
    .ok (.push q (vs.map f64Word) none ovf, [], rootCycles x.coef.length, s)

/-! ## The last step (R236, R240) -/

/-- Values pushed at once (R236). -/
def State.pushAll (s : State) (q : Fin 16) : List Word → State
  | [] => s
  | v :: vs => (s.appendQ .F q v true).pushAll q vs

/-- The instruction in flight ends and retires: what is left of its charge is made (R312, R330), and its tokens are posted. -/
def State.finishF (s : State) (o : FOp) : State :=
  let s := (s.charge o.cls (o.units - o.paid)).setFlight { s.flight with fop := none }
  let s := s.setRun .F { s.run .F with stepped := true }
  let s := s.setCell { s.cell with progress := s.now }
  s.makePosts .F (postsOf .F o.posts)

/-- The last step of an instruction of F in flight; none while the destination queue has no room. A push makes F's earlier accesses
performed at cell scope first (R127). One that faults ends its lease
with it, where another fault is taken already as well (R129, R284). -/
def State.lastStep (s : State) (o : FOp) : Option State :=
  match o.step with
  | .tile d x ood => some (((s.setTile d x).countFood ood).finishF o)
  | .reg d _ lo hi c cut wild fit =>
    match (s.flagF cut wild).allocBy fit d { lo := lo, hi := hi, coef := c } with
    | .ok s => some (s.finishF o)
    | .error (.fault f) => some (s.abandonF.takeFault .F f)
    | .error _ => none
  | .push q vals last ovf =>
    if 4 < s.roll.q[q].length + vals.length then none
    else
      let s := ((s.drain .F).toOption.getD s).pushAll q vals
      let s := s.setRoll { s.roll with rootLast := last.getD s.roll.rootLast, rootOvf := s.roll.rootOvf || ovf }
      some (s.finishF o)

/-- The first last step that finds its queue full begins a stall (R123, R236). -/
def State.fullSince (s : State) (o : FOp) : State :=
  match o.full with
  | some _ => s
  | none => s.setFlight { s.flight with fop := some { o with full := some (s.now, s.qlimit) } }

/-- F_LAST_STEP (R240). -/
def execFLastStep (core : CoreId) (s : State) : Host.Outcome State Fault Refusal :=
  let t := s.on core
  match t.flight.fop with
  | none => .next s
  | some o => .next (if t.working then (t.lastStep o).getD (t.fullSince o) else s)

end Sys2Proof.Machine
end

