-- ==== Sys2Proof/Machine/Switch.lean ====
section
/-! DEFINITION. The switch image of a cell (R321-R323): choosing a slot, saving and restoring it; the layer rollback
(R273, R274) and the retirement of a core (R296). -/

namespace Sys2Proof.Machine

/-! ## Image slots (R323) -/

/-- The agent that saves and restores images: domain 0, without region checks. -/
def imageAgent (k : CoreId) : Agent := { core := k, domain := 0, supv := true, text := false, who := none }

/-- The address of an image slot of a die. -/
def State.slotAddr (s : State) (d : DieId) (i : Nat) : Word := plus (s.die d).imgbase (i * 2 ^ 21)

/-- The pages of a slot as they translate in domain 0 for reading and writing, where every one does: locations and lengths. -/
def State.slotPieces (s : State) (k : CoreId) (i : Nat) : Option (List (Nat × Nat)) :=
  let p := s.slotAddr (dieOf k) i
  match s.range (imageAgent k) p (2 ^ 21) .load, s.range (imageAgent k) p (2 ^ 21) .store with
  | .ok (ps, _), .ok _ => some ps
  | _, _ => none

/-- A slot of a die that an image holds or that a request has chosen. -/
def State.slotTaken (s : State) (d : DieId) (i : Nat) : Bool :=
  (s.die d).images.any (·.slot == i)
    || (List.finRange 392).any fun k => dieOf k == d && s.cores[k].leave == some (some i)

/-- The slot for a pre-emption of a core's cell: the lowest free one from 196, where its pages translate; and those pages. -/
def State.chooseSlot (s : State) (k : CoreId) : Option (Nat × List (Nat × Nat)) :=
  let d := dieOf k
  match (List.range (s.die d).imgcount.toNat).find? fun i => 196 ≤ i && !s.slotTaken d i with
  | none => none
  | some i => (s.slotPieces k i).map fun ps => (i, ps)

/-- The cell of a core is asked to leave it, to a slot and its pages where one has been chosen. -/
def State.askLeave (s : State) (k : CoreId) (slot : Option (Nat × List (Nat × Nat))) : State :=
  { s with cores := s.cores.set k { s.cores[k] with
      leave := some (slot.map (·.1)), slotAt := match slot with
        | none => []
        | some x => x.2 } }

/-- The first n bytes of checked pieces. -/
def firstPieces (n : Nat) : List (Nat × Nat) → List (Nat × Nat)
  | [] => []
  | (x, k) :: rest => if n = 0 then [] else (x, Nat.min n k) :: firstPieces (n - k) rest

/-- The location of an offset in checked pieces. -/
def pieceLoc : List (Nat × Nat) → Nat → Option Nat
  | [], _ => none
  | (x, n) :: rest, o => if o < n then some (x + o) else pieceLoc rest (o - n)

/-! ## The bytes of an image (R219, R323) -/

/-- n free bytes of an image, by its draw, from an offset (log entry 14). -/
def freeBytes (draw off : Nat) : Nat → List Byte
  | 0 => []
  | n + 1 => Config.freeImageByte draw off :: freeBytes draw (off + 1) n

/-- The pool section: sixteen register headers and the live chunks (R219). -/
def poolBytes (f : Vector FReg 16) : List Byte :=
  (f.toList.flatMap fun r =>
      leBytes 8 r.lo.toNat ++ leBytes 8 r.hi.toNat ++ leBytes 8 r.coef.length ++ leBytes 8 0)
    ++ f.toList.flatMap fun r =>
      (r.coef.flatMap fun c => leBytes 8 c.toNat) ++ List.replicate (8 * (16 * r.chunks - r.coef.length)) 0

/-- The bytes of a tile. -/
def tileImage (t : Tile) : List Byte := t.toList.flatMap fun w => leBytes 4 w.toNat

/-- The bytes of an engine's templates; an empty one is zero. -/
def templateBytes (t : Vector (Option (BitVec 256)) 64) : List Byte :=
  t.toList.flatMap fun x => leBytes 32 (match x with | none => 0 | some b => b.toNat)

/-- The bitmap section of a buffer slot: 8,192 bytes, bit j for block j (R323). -/
def writtenBytes (p : Option Pub) : List Byte :=
  let w := match p with
    | none => []
    | some p => p.written
  leBytes 8192 (w.foldl (fun n j => n ||| 2 ^ j) 0)

/-- Every byte of an image after its header: the small state is free (R323). -/
def State.imageBody (s : State) (draw : Nat) (pad : List Byte) : List Byte :=
  let c := s.cell
  let pool := poolBytes c.roll.f
  freeBytes draw 64 4032
    ++ (Eng.all.flatMap fun e => templateBytes (c.tmpl.get e)) ++ freeBytes draw 0x3800 0x800
    ++ (c.roll.v.toList.flatMap tileImage) ++ (c.acc.toList.flatMap tileImage) ++ pad
    ++ pool ++ freeBytes draw (0x1D4000 + pool.length) (0x9000 - pool.length)
    ++ ((List.finRange 8).flatMap fun k => writtenBytes (s.pubOf k)) ++ c.ckBytes

/-- The header of an image (R323). -/
def State.imageHead (s : State) (body : List Byte) : BitVec 512 :=
  let c := s.cell
  let w := s.account s.domain
  let held : Bool := match c.status with
    | .held _ => true
    | _ => false
  let pool := (poolBytes c.roll.f).length
  let ckb := c.ckBytes.length
  c.ident.handle ++ c.ident.cellno ++ c.ident.domain ++ 0#16 ++ BitVec.ofNat 32 pool ++ BitVec.ofNat 32 ckb
    ++ BitVec.ofBool held ++ BitVec.ofBool c.traps.active ++ BitVec.ofBool c.ctx.active ++ BitVec.ofBool c.frozen ++ 0#12
    ++ BitVec.ofNat 48 w ++ BitVec.ofNat 1 (w / 2 ^ 63) ++ 0#159 ++ crc32c body ++ 0x7E53#16 ++ 1#16
    ++ BitVec.ofNat 32 (0x1ED000 + ckb)

/-! ## Saving -/

/-- The action of a hack request (R355). -/
def hackAction (w : Word) : Nat := w.toNat / 2 ^ 60

/-- The location of a core's dump area (R356); 0 at HACKBASE means none. -/
def State.hackArea (s : State) (k : CoreId) : Nat := locShared ((s.die (dieOf k)).hackbase.toNat + 4096 * siteOf k)

/-- The dump area of a core that runs no cell is marked: STATE 0 and nothing more (R356). -/
def State.markEmpty (s : State) (k : CoreId) : State := s.pokeHome .device (s.hackArea k) (leBytes 8 0)

/-- A core runs no cell; a stop that was asked of its cell finds none (R356). -/
def State.vacate (s : State) : State :=
  let s := if s.core.hackReq.isSome then s.markEmpty s.cur.core else s
  s.setCore { s.core with cell := Cell.start .idle Ident.none s.now, leave := none, slotAt := [], hackReq := none }

/-- F's instruction in flight is abandoned at a stop, and EPCF records it, but inside the trap handler (R240, R286). -/
def State.stopF (s : State) : State :=
  if s.flight.fop.isNone then s
  else
    let s := s.abandonF
    if s.cell.traps.active then s
    else s.setCell { s.cell with traps := { s.cell.traps with epc := { s.cell.traps.epc with f := epcOf (s.path .F).pc } } }

/-- A direct m.mma or m.mmas that a stop leaves at its unit is recorded at EPCM, but inside the trap handler (R210, R286). -/
def State.stopM (s : State) : State :=
  match s.flight.mcmd with
  | none => s
  | some c =>
    if c.ofNest || s.cell.traps.active then s
    else s.setCell { s.cell with traps := { s.cell.traps with epc := { s.cell.traps.epc with m := epcOf c.pc } } }

/-- What a cell's engines stop with at an instruction boundary, with nothing faulting (R321): C keeps its progress, M drops its partial
unit, F's instruction is abandoned, waits are abandoned. No other EPC register is written than those by which R210 and R240 record a
command of M and an instruction of F (R171). -/
def State.stopCell (s : State) : State :=
  let s := (s.stopC.stopF.stopM.rewind).clearStalls
  if s.working then s.allHeads 0x02 else s

/-- Every cell of a gang has ended or been pre-empted: its cores are held no longer (R87). Cells that have not started leave with those
that are pre-empted. -/
def State.gangOver (s : State) (handle : Word) : State :=
  let mine (d : DieId) : List Launch := (s.die d).board.filter (·.handle == handle)
  let runs := (List.finRange 392).any fun k =>
    s.cores[k].cell.status != .idle && s.cores[k].cell.ident.handle == handle
  let out := [0, 1].any fun (d : DieId) => (s.die d).images.any fun i => i.cell.ident.handle == handle
  let wait := (mine 0 ++ mine 1).any fun l => !l.waiting.isEmpty
  if runs || (wait && !out) then s
  else { s with dies := s.dies.map fun d => { d with board := d.board.map fun l =>
      if l.handle == handle then { l with gang := [], left := [] } else l } }

/-- A cell of a launch has left a core by a pre-emption, or has come back to it: its gang holds the core for nobody meanwhile (R331). -/
def State.setLeft (s : State) (handle : Word) (k : CoreId) (out : Bool) : State :=
  { s with dies := s.dies.map fun d => { d with board := d.board.map fun l =>
      if l.handle == handle then
        { l with left := (if out then [k] else []) ++ l.left.filter (· != k) }
      else l } }

/-- The locations of granules of an image in its pages, by their offsets. -/
def State.imageLocs (s : State) (ps : List (Nat × Nat)) (offs : List Nat) : List (Nat × Nat) :=
  offs.filterMap fun o => (pieceLoc ps o).map fun x => (o, s.land none x)

/-- The offsets in the image of a cell of the granules that are saved poisoned: of its scratchpad, and of its checkpoint copy (R323). -/
def State.imageBad (s : State) : List Nat :=
  let base := locPad s.cur.core 0
  ((s.poison.filter fun g => base ≤ g && g < base + 0x180000).map fun g => 0x54000 + (g - base))
    ++ s.cell.ckBad.map (0x1ED000 + ·)

/-- The accesses of the cell under the cursor are performed at device scope, those to its scratchpad at every scope, and its charges
are added (R322). -/
def State.settleCell (s : State) : State :=
  let base := locPad s.cur.core 0
  let s := s.perform (fun p => p.serial == s.cell.ident.serial) 3
  (s.perform (fun p => base ≤ p.loc && p.loc < base + 0x200000) 5).flushCharges s.cur.core

/-- The bytes of the image of the cell under the cursor (R323). -/
def State.imageOf (s : State) (draw : Nat) : List Byte :=
  let body := s.imageBody draw (s.peek .device (locPad s.cur.core 0) 0x180000)
  recordBytes (s.imageHead body) ++ body

/-- A stopped cell is saved in an image slot, whose pages were translated when it was chosen, and leaves its core (R321-R323): the save
meets no translation or protection fault. -/
def State.saveImage (s : State) (slot : Nat × List (Nat × Nat)) (only : Option CoreId) : State :=
  let k := s.cur.core
  let s := (s.autoTrace 4 .A (s.path .A).pc 0).settleCell
  let bytes := s.imageOf s.freeCtr
  let bad := s.imageBad
  let s : State := { s with freeCtr := s.freeCtr + 1 }
  let s := s.writePieces (imageAgent k) (s.slotAddr s.dieId slot.1) bytes (firstPieces bytes.length slot.2)
  let s := (s.imageLocs slot.2 bad).foldl (fun (t : State) x => t.addPoison x.2) s
  let d := s.die s.dieId
  let img : Image := { slot := slot.1, die := s.dieId, cell := s.cell, only := only, bad := bad }
  let handle := s.cell.ident.handle
  (((s.setDie s.dieId { d with images := d.images ++ [img] }).vacate).setLeft handle k true).gangOver handle

/-! ## Restoring -/

/-- 32-bit words of bytes as a tile. -/
def tileOfBytes (bs : List Byte) : Tile :=
  let ws := f32List bs 1024
  Tile.of fun i => ws.getD i 0

/-- The bytes of an image as they stand; poison in them is an uncorrectable error, but for granules that were saved poisoned. -/
def State.imageBytes (s : State) (k : CoreId) (i : Image) (ps : List (Nat × Nat)) : Except Flt (List Byte) :=
  let known := (s.imageLocs ps i.bad).map fun x => x.2 / 8 * 8
  ({ s with poison := s.poison.filter fun g => !known.contains g } : State).readPieces (imageAgent k) (s.slotAddr (dieOf k) i.slot) ps

/-- The header of a saved image fits its bytes (R323). -/
def imageGood (bs : List Byte) : Bool :=
  let h : BitVec 512 := BitVec.ofNat 512 (leNat (bs.take 64))
  h.extractLsb' 48 16 == 0x7E53 && h.extractLsb' 32 16 == 1 && h.extractLsb' 64 32 == crc32c (bs.drop 64)

/-- n function registers as the pool section holds them: their headers, from register r on, and their chunks, from a byte on
(R219). -/
def poolRegs (bs : List Byte) (r off : Nat) : Nat → List FReg
  | 0 => []
  | n + 1 =>
    let word (o : Nat) : Word := leWord ((bs.drop o).take 8)
    let len := (word (32 * r + 16)).toNat
    { lo := word (32 * r), hi := word (32 * r + 8), coef := (List.range len).map fun i => word (off + 8 * i) }
      :: poolRegs bs (r + 1) (off + 128 * ((len + 15) / 16)) n

/-- The blocks that a buffer slot's bitmap names (R323). -/
def writtenOf (bs : List Byte) : List Nat :=
  let v := leNat bs
  (List.range 65536).filter fun j => v.testBit j

/-- An outstanding load, whose location in a scratchpad is that of the core that its cell is on. -/
def Load.onCore (l : Load) (k : CoreId) : Load := if spaceOf l.addr = 0x8 then { l with loc := locPad k (offOf l.addr) } else l

/-- Templates, tiles, accumulator memory, function registers and the checkpoint copy as an image's bytes hold them (R323). -/
def cellFromImage (c : Cell) (bs : List Byte) (ckBad : List Nat) : Cell :=
  let at_ (off i : Nat) : List Byte := (bs.drop (off + 4096 * i)).take 4096
  let v : Vector Tile 16 := Vector.ofFn fun i => tileOfBytes (at_ 0x4000 i.val)
  let acc : Vector Tile 64 := Vector.ofFn fun i => tileOfBytes (at_ 0x14000 i.val)
  let tmpl (e : Eng) : Vector (Option (BitVec 256)) 64 := Vector.ofFn fun n =>
    ((c.tmpl.get e)[n]).map fun _ => BitVec.ofNat 256 (leNat ((bs.drop (0x1000 + 2048 * e.code + 32 * n.val)).take 32))
  let fs := poolRegs ((bs.drop 0x1D4000).take 0x9000) 0 512 16
  { c with
    roll := { c.roll with v := v, f := Vector.ofFn fun i => fs.getD i.val FReg.empty }, acc := acc,
    tmpl := ⟨tmpl .A, tmpl .C, tmpl .M, tmpl .V, tmpl .F⟩,
    ckBytes := (bs.drop 0x1ED000).take c.ckBytes.length, ckBad := ckBad }

/-- The buffers of a cell whose image is restored on a core: their bitmaps, and the core through which its addresses are read. -/
def State.restorePubs (s : State) (serial : Nat) (k : CoreId) (bs : List Byte) : State :=
  { s with pubs := s.pubs.map fun p =>
      if p.owner == serial then
        { p with core := k, written := writtenOf ((bs.drop (0x1DD000 + 8192 * p.slot.val)).take 8192) }
      else p }

/-- A core's scratchpad replaced by bytes from an image, poisoned granules included. -/
def State.fillPad (s : State) (k : CoreId) (bytes : List Byte) (bad : List Nat) : State :=
  let base := locPad k 0
  let s : State := { s with mem := Memory.clear s.mem base (base + 0x180000),
                            poison := s.poison.filter fun g => !(base ≤ g && g < base + 0x180000) }
  let s := s.pour base bytes
  bad.foldl (fun s o => s.addPoison (base + o)) s

/-- Word 0 of the account that an image's header holds (R313, R323). -/
def imageAccount (bs : List Byte) : Word :=
  let h : BitVec 512 := BitVec.ofNat 512 (leNat (bs.take 64))
  h.extractLsb' 255 1 ++ 0#15 ++ h.extractLsb' 256 48

/-- A cell takes a core again from its image (R319, R323): an image that is not what was saved is fatal (R297). -/
def State.restoreImage (s : State) (i : Image) : State :=
  let k := s.cur.core
  let p := s.slotAddr s.dieId i.slot
  let d := s.die s.dieId
  let s := (s.setDie s.dieId { d with images := d.images.filter (· != i) }).setLeft i.cell.ident.handle k false
  let lost (f : Flt) : State := let t := s.setCell i.cell; t.fatal f .A (t.path .A).pc
  let found := do
    let (ps, s) ← s.range (imageAgent k) p (0x1ED000 + i.cell.ckBytes.length) .load
    let bs ← s.imageBytes k i ps
    .ok (ps, bs, s.touchPieces (imageAgent k) ps)
  match found with
  | .error f => lost f
  | .ok (ps, bs, s) =>
    if !imageGood bs then lost (poisonFlt p 0 (pieceLoc ps 0 |>.getD 0) 6)
    else
      let bad := (s.imageLocs ps i.bad).filterMap fun x => if s.poison.contains (x.2 / 8 * 8) then some x.1 else none
      let c := cellFromImage i.cell bs ((bad.filter (0x1ED000 ≤ ·)).map (· - 0x1ED000))
      let c : Cell := { c with
        ident := { c.ident with since := s.now }, progress := s.now, frozenAt := s.now,
        flight := { c.flight with loads := c.flight.loads.map (·.onCore k) } }
      let s := s.setCore { s.core with
        cell := c, leave := none, hackReq := none, keep := none, view := some (imageAccount bs) }
      let s := s.restorePubs c.ident.serial k bs
      let s : State := { s with peerStores := s.peerStores.map fun p =>
          if p.serial == c.ident.serial then { p with core := k } else p }
      let pad := (bad.filter (· < 0x1D4000)).map (· - 0x54000)
      let s := (s.fillPad k ((bs.drop 0x54000).take 0x180000) pad).restartHeads
      s.autoTrace 5 .A (s.path .A).pc 0

/-! ## The layer rollback (R273, R274, R296) -/

/-- The slot for the cell of a core that is retired, and its pages: one for a pre-emption, else the one kept for the suspend of its site
(log entry 22). -/
def State.retireSlot (s : State) (k : CoreId) : Option (Nat × List (Nat × Nat)) :=
  let own := siteOf k
  (s.chooseSlot k).or (if own < (s.die (dieOf k)).imgcount.toNat && !s.slotTaken (dieOf k) own
    then (s.slotPieces k own).map fun ps => (own, ps) else none)

/-- A core that has taken two datapath-check faults is retired (R296): its cell is saved with its checkpoint as its image,
a spare takes the site's numbers where there is one, on which the cell resumes, and an event is posted. -/
def State.retire_ (s : State) (f : Flt) (eng : Eng) (pc : Word) : State :=
  let k := s.cur.core
  let r := trapRecord f eng pc (s.run eng).beat s.supv
  let s := s.writeFaultPage 0x200 r
  let s := s.queueEvent s.dieId { head := s.eventHead 6 (BitVec.ofNat 64 (siteOf k)), record := r }
  let spare := 0 < (s.die s.dieId).spares
  match s.retireSlot k with
  | none => s.setCore { s.core with enabled := false }
  | some i =>
    let s := s.saveImage i (if spare then some k else none)
    let d := s.die s.dieId
    if spare then (s.setDie s.dieId { d with spares := d.spares - 1 }).setCore { s.core with dperr := 0 }
    else s.setCore { s.core with enabled := false }

/-- After the rollback for a datapath-check or trailer-check fault (R273, R286, R296): the cell resumes, or is held where its trap
handler was running, and its core may be retired. -/
def State.afterReplay (s : State) (f : Flt) (eng : Eng) (pc : Word) : State :=
  let s := if s.cell.traps.active then s.holdCell f eng pc 2 true else s.replay
  if 2 ≤ s.core.dperr.toNat then s.retire_ f eng pc else s

/-- LAYER_ROLLBACK (R273, R297). -/
def execLayerRollback (core : CoreId) (s : State) : Host.Outcome State Fault Refusal :=
  let t := s.on core
  match t.cell.status with
  | .rolling next =>
    if !t.workOut then .next s
    else
      match t.ckFlt with
      | some f => .next (t.endLoads.fatal f .A (t.path .A).pc)
      | none =>
        let t := t.restore true
        match next with
        | .context f pc beat => .next (if t.cell.traps.active then t.holdCell f .V pc 2 true else t.enterContext f pc beat)
        | .settle =>
          let c := t.cell
          let t := t.setCell { c with
            ctx := { c.ctx with active := false },
            traps := { c.traps with cause := c.traps.cause &&& 0x7FFFFFFFFFFFFFFF, aside := none } }
          .next t.leaveHold
        | .replay f eng pc => .next (t.afterReplay f eng pc)
  | _ => .next s

end Sys2Proof.Machine
end

