-- ==== Sys2Proof/Machine/Launch.lean ====
section
/-! DEFINITION. Launches (R80-R92, R298, R317-R320): lnch, the scoreboards, the order of issue, the starts, iterations and
ends of cells. -/

namespace Sys2Proof.Machine

/-! ## Launch records (R80-R82) -/

/-- Loop level k of a record: MARK and COUNT (R81). -/
def recLevel (r : BitVec 512) (k : Nat) : Nat × Nat :=
  ((r.extractLsb' (176 + 24 * k + 22) 2).toNat, (r.extractLsb' (176 + 24 * k) 22).toNat)

/-- The six levels of a record. -/
def recLevels (r : BitVec 512) : List (Nat × Nat) := (List.range 6).map (recLevel r)

/-- SUPV, PREEMPT, PIN and GANG of a record. -/
def recSupv (r : BitVec 512) : Bool := r.getLsbD 139
/-- PREEMPT of a record. -/
def recPreempt (r : BitVec 512) : Bool := r.getLsbD 140
/-- PIN of a record. -/
def recPin (r : BitVec 512) : Bool := r.getLsbD 141
/-- GANG of a record. -/
def recGang (r : BitVec 512) : Bool := r.getLsbD 142
/-- PRIO of a record. -/
def recPrio (r : BitVec 512) : Nat := (r.extractLsb' 143 3).toNat
/-- NWIN of a record. -/
def recNwin (r : BitVec 512) : Nat := (r.extractLsb' 146 4).toNat
/-- SLOTS of a record. -/
def recSlots (r : BitVec 512) : Nat := (r.extractLsb' 150 10).toNat
/-- TEXT of a record. -/
def recText (r : BitVec 512) : Word := r.extractLsb' 0 64
/-- The dependence entries of a record. -/
def recDeps (r : BitVec 512) : List W32 := (List.range 4).map fun i => r.extractLsb' (320 + 32 * i) 32

/-- The counts of the spatial levels, in ascending level number. -/
def spatialCounts (r : BitVec 512) : List Nat := ((recLevels r).filter fun l => 2 ≤ l.1).map (·.2)

/-- The number of cells (R81). -/
def recCells (r : BitVec 512) : Nat := (spatialCounts r).foldl (· * ·) 1

/-- The D level's COUNT, where there is a D level. -/
def recDies (r : BitVec 512) : Option Nat := ((recLevels r).find? fun l => l.1 == 3).map (·.2)

/-- The digits of a cell number over the levels from the last: (remaining number, digits). Temporal and unused levels
start at 0 (R86). -/
def cellDigits (r : BitVec 512) (n : Nat) : List Nat :=
  ((recLevels r).foldr (fun l (acc : List Nat × Nat) =>
    if 2 ≤ l.1 then (acc.2 % l.2 :: acc.1, acc.2 / l.2) else (0 :: acc.1, acc.2)) ([], n)).1

/-- The indices of a cell at its start. -/
def cellIndex (r : BitVec 512) (n : Nat) : Vector Nat 6 := Vector.ofFn fun k => (cellDigits r n).getD k.val 0

/-- The die a cell runs on, for a launch made on a die (R81). -/
def cellDie (r : BitVec 512) (own : DieId) (n : Nat) : DieId :=
  match (List.range 6).find? fun k => (recLevel r k).1 == 3 with
  | none => own
  | some k => if (cellDigits r n).getD k 0 = 1 then 1 else 0

/-- The dies a launch uses (R84). -/
def launchDies (r : BitVec 512) (own : DieId) : List DieId :=
  match recDies r with
  | none => [own]
  | some 2 => [0, 1]
  | some _ => [0]

/-- The cells of a launch on a die, in ascending number. -/
def cellsOn (r : BitVec 512) (own d : DieId) : List Nat := (List.range (recCells r)).filter fun n => cellDie r own n == d

/-- The first of checks 2 to 9 of R85 that a record fails. -/
def recordBad (r : BitVec 512) (own : DieId) : Option Nat :=
  let ls := recLevels r
  let text := recText r
  let wl := recWlist r
  let dcount := (ls.filter fun l => l.1 == 3)
  if r.extractLsb' 128 11 != 0 || r.extractLsb' 64 32 != 0 then some 2
  else if !inSpaces text [0] 64 || !inSpaces wl [0] 64 || (wl != 0 && recNwin r == 0) then some 3
  else if ls.any fun l => (l.1 == 0) != (l.2 == 0) then some 4
  else if 1 < dcount.length || dcount.any fun l => 2 < l.2 then some 5
  else if 2 ^ 24 < recCells r then some 6
  else if recGang r && [0, 1].any fun d => 192 < (cellsOn r own d).length then some 7
  else if 8 < recNwin r || 480 < recSlots r then some 8
  else if (recDeps r).any (fun e => entryBad e false) || entryBad (r.extractLsb' 96 32) true then some 9
  else none

/-- A queue entry of a text header that breaks check 11 of R85. -/
def bindBad (b : BitVec 8) : Bool :=
  if b.getLsbD 7 then
    4 < (b.extractLsb' 4 3).toNat || 4 < (b.extractLsb' 1 3).toNat || b.extractLsb' 4 3 == b.extractLsb' 1 3
      || b.getLsbD 0
  else b != 0

/-- The first of checks 10 to 12 of R85 that a text header fails. -/
def headerBad (h : BitVec 512) : Option Nat :=
  let len := h.extractLsb' 288 32
  let off (lo : Nat) : Bool := let v : W32 := h.extractLsb' lo 32; v != 0xFFFFFFFF && len ≤ v
  if h.extractLsb' 16 16 != 0x7E47 || h.extractLsb' 0 16 != 1 || h.extractLsb' 32 256 != 0 || len == 0 then some 10
  else if (List.range 16).any fun k => bindBad (h.extractLsb' (384 + 8 * k) 8) then some 11
  else if off 352 || off 320 then some 12
  else none

/-! ## The scoreboard (R84, R317) -/

/-- The lowest free scoreboard slot of a die (log entry 31). -/
def State.freeEntry (s : State) (d : DieId) : Nat :=
  ((List.range 512).find? fun i => !((s.die d).board.any (·.slot == i))).getD 0

/-- Scoreboard entries in use on a die. -/
def State.entriesOn (s : State) (d : DieId) : Nat := ((s.die d).board.filter (·.slot < 512)).length

/-- The acceptance sequence number after one; 0 is skipped (R84). -/
def nextSeqOf (q : W32) : W32 := if q + 1 = 0 then 1 else q + 1

/-- The handle of an entry (R84). -/
def handleOf (seq : W32) (d : DieId) (slot : Nat) : Word := seq ++ 0#22 ++ BitVec.ofNat 1 d.val ++ BitVec.ofNat 9 slot

/-- A launch entered in the scoreboard of a die. -/
def State.enterBoard (s : State) (d : DieId) (own : DieId) (handle : Word) (r h : BitVec 512) (lrec : Word) : State :=
  let die := s.die d
  let l : Launch :=
    { slot := s.freeEntry d, handle := handle, record := r, lrec := lrec, header := h, waiting := cellsOn r own d, live := 0,
      issued := false, prepared := false, multiWave := false, gang := [], resuming := [], left := [], seq := die.nextSeq.toNat, accepted := s.now,
      granted := 0, mayStart := 0, askedAt := none }
  s.setDie d { die with board := die.board ++ [l], nextSeq := nextSeqOf die.nextSeq }

/-- Enabled cores of a die. -/
def State.enabledOn (s : State) (d : DieId) : Nat :=
  ((List.finRange 392).filter fun k => dieOf k == d && s.cores[k].enabled).length

/-- lnch (R84, R85, R298). -/
def execLnch (t : Tok) (d : Dst) (a : Src) (s : State) : Host.Outcome State Fault Refusal :=
  let found := s
  s.issue .A t 2 (Src.uses a ++ Dst.uses d) fun s => do
    let (adr, s) ← s.src a
    requireAt (adr.toNat % 64 == 0) .alignment 0 adr
    requireAt (spaceOf adr == 0 || spaceOf adr == 8) .launchShape 1 adr
    let s ← liftFlt (s.performLoads s.flight.loads.length)
    let s := s.perform (fun p => p.serial == s.cell.ident.serial && p.eng == .A) 3
    s.peersAcked found fun p => p.eng == .A
    let (bs, s) ← s.readRecord adr 64
    let r : BitVec 512 := BitVec.ofNat 512 (leNat bs)
    let own := s.dieId
    match recordBad r own with
    | some c => raiseAt .launchShape c adr
    | none =>
      let (hb, s) ← s.readRecord (recText r) 64
      let h : BitVec 512 := BitVec.ofNat 512 (leNat hb)
      match headerBad h with
      | some c => raiseAt .launchShape c adr
      | none =>
        require (s.supv || !(recSupv r || recPrio r == 7 || recDomain r != s.domain)) .privilege 0
        let dies := launchDies r own
        requireAt (!(recGang r && dies.any fun x => s.enabledOn x < (cellsOn r own x).length)) .launchShape 17 adr
        if dies.any fun x => 512 ≤ s.entriesOn x then s.dst d 0
        else
          let home := dies.headD own
          let handle := handleOf (s.die home).nextSeq home (s.freeEntry home)
          let s := dies.foldl (fun s x => s.enterBoard x own handle r h adr) s
          s.dst d handle

/-! ## Readiness and order (R82, R318, R319) -/

/-- A dependence is met (R82); one whose object is uncorrectable is not (log entry 30). -/
def State.depMet (s : State) (e : W32) : Bool :=
  !entryValid e
    || (s.poisoned .device (s.land none (entryLoc e)) 32).isNone && ((s.barObj .device (s.land none (entryLoc e))).gen.toNat % 256 + 256 - e.toNat / 2 ^ 24) % 256 < 128

/-- Every dependence of a launch is met. -/
def State.depsMet (s : State) (l : Launch) : Bool := (recDeps l.record).all s.depMet

/-- A launch is ready (R318). -/
def State.ready (s : State) (l : Launch) : Bool := s.depsMet l && l.prepared

/-- The escapements issue launches: the device is not suspended, and no suspend is under way (R326). -/
def State.issuing (s : State) : Bool := s.awake && !s.aedty.suspending

/-- The entry of the same launch on the other die. -/
def State.twin (s : State) (d : DieId) (l : Launch) : Option Launch :=
  (s.die (1 - d)).board.find? fun m => m.handle == l.handle && recDies l.record == some 2

/-- The images of a launch's pre-empted cells on a die. -/
def State.imagesOf (s : State) (d : DieId) (l : Launch) : List Image :=
  (s.die d).images.filter fun i => i.cell.ident.handle == l.handle

/-- Cells of a launch that do not run on a die. -/
def State.notRunning (s : State) (d : DieId) (l : Launch) : Nat := l.waiting.length + (s.imagesOf d l).length

/-- A core is kept for another launch than l: pre-emptions freed it for a ready launch that still has cells to run (R320).
DEDUCED from the worked schedule of chapter 19 (log 17). -/
def State.keptFrom (s : State) (k : CoreId) (l : Launch) : Bool :=
  match s.cores[k].keep with
  | none => false
  | some h =>
    h != l.handle && (s.die (dieOf k)).board.any fun m => m.handle == h && s.ready m && 0 < s.notRunning (dieOf k) m

/-- A gang holds a core, or has taken it for a cell that resumes (R87, R319). -/
def State.gangHeld (s : State) (k : CoreId) : Bool :=
  ((s.die 0).board ++ (s.die 1).board).any fun l => l.gang.contains k || l.resuming.contains k

/-- A core is the spare on which the cell of a retired core resumes (R296). -/
def State.spareFor (s : State) (k : CoreId) : Bool := (s.die (dieOf k)).images.any fun i => i.only == some k

/-- A core that a cell of a launch may be given: enabled, without a cell, held for no gang, kept for no other launch. -/
def State.free (s : State) (l : Launch) (k : CoreId) : Bool :=
  s.cores[k].enabled && s.cores[k].cell.status == .idle && !s.gangHeld k && !s.spareFor k && !s.keptFrom k l

/-- The free cores of a die for a launch, in ascending site. -/
def State.freeOn (s : State) (d : DieId) (l : Launch) : List CoreId :=
  (List.finRange 392).filter fun k => dieOf k == d && s.free l k

/-- A ready launch has the cores that it must find free on a die (R318). -/
def State.coresFor (s : State) (d : DieId) (l : Launch) : Bool :=
  if recGang l.record then l.waiting.length ≤ (s.freeOn d l).length else !(s.freeOn d l).isEmpty

/-- An unissued launch is placeable (R318): a gang needs its cores on every die it uses. No pre-emption that frees cores
for it is under way (log 17). -/
def State.placeable (s : State) (d : DieId) (l : Launch) : Bool :=
  !l.issued && s.issuing && s.ready l && s.coresFor d l
    && (match recGang l.record, s.twin d l with
      | true, some m => s.ready m && s.coresFor (1 - d) m
      | _, _ => true)
    && !(List.finRange 392).any fun k => dieOf k == d && s.cores[k].leave.isSome && s.cores[k].keep == some l.handle

/-- Microseconds since a time. -/
def State.usSince (s : State) (t : Nat) : Nat := (s.now - t) / Config.cyclesPerUs

/-- The effective priority of a launch (R319). -/
def State.prio (s : State) (d : DieId) (l : Launch) : Nat :=
  let p := recPrio l.record
  if p = 7 then 7 else Nat.min (p + s.usSince l.accepted / (s.die d).agestep.toNat) 6

/-- The older acceptance on a die; sequence numbers wrap. -/
def Launch.older (a b : Launch) : Bool := a.accepted < b.accepted || (a.accepted == b.accepted && a.seq < b.seq)

/-- A launch comes before another in the order of issue (R319). -/
def State.before (s : State) (d : DieId) (a b : Launch) : Bool :=
  s.prio d b < s.prio d a || (s.prio d a == s.prio d b && a.older b)

/-- The first of some launches in the order of issue. -/
def State.firstOf (s : State) (d : DieId) : List Launch → Option Launch
  | [] => none
  | l :: ls =>
    match s.firstOf d ls with
    | none => some l
    | some m => if s.before d m l then some m else some l

/-- The entry of a launch on a die changed. -/
def State.setLaunch (s : State) (d : DieId) (h : Word) (f : Launch → Launch) : State :=
  s.setDie d { s.die d with board := (s.die d).board.map fun l => if l.handle == h then f l else l }

/-! ## Slots (R305, R306) -/

/-- The die on which a launch with no D level was made: the die of its entry. -/
def cellsOfEntry (d : DieId) (l : Launch) : List Nat := cellsOn l.record d d

/-- The share of a launch's slots on a die (R305): die 0 takes the rounded-up part. -/
def shareOn (d : DieId) (l : Launch) : Nat :=
  let n := recCells l.record
  let n0 := if (recDies l.record).isSome then (cellsOn l.record 0 0).length else if d = 0 then n else 0
  let s0 := (recSlots l.record * n0 + n - 1) / n
  if d = 0 then s0 else recSlots l.record - s0

/-- Slots that k of the m cells of a share S need (R306). -/
def slotsFor (S m k : Nat) : Nat := if m = 0 then 0 else (S * k + m - 1) / m

/-- How many of the m cells of a share S may start with g slots. -/
def startable (S m g : Nat) : Nat := ((List.range m).takeWhile fun k => slotsFor S m (k + 1) ≤ g).length

/-! ## Issue (R318) -/

/-- n pages from an address translated into a die's cache where they can be. -/
def State.prefetchPages (s : State) (d : DieId) (dom : BitVec 16) (p : Word) : Nat → State
  | 0 => s
  | n + 1 => (s.prefetchOn none d dom p).prefetchPages d dom (p + 65536) n

/-- The pages of n tensor rows of a shape from row i translated into a die's cache. -/
def State.prefetchRows (s : State) (d : DieId) (dom : BitVec 16) (sh : Shape) (i : Nat) : Nat → State
  | 0 => s
  | n + 1 =>
    if sh.rows ≤ i then s
    else
      let p := sh.rowAddr i
      (s.prefetchPages d dom p ((p.toNat % 65536 + sh.rowlen + 65535) / 65536)).prefetchRows d dom sh (i + 1) n

/-- The pages of the first rows of a launch's input windows translated for its domain (R318); a record that cannot be read now is left to
the cell's start. -/
def State.prefetchWindows (s : State) (d : DieId) (r : BitVec 512) : State :=
  (List.range (recNwin r)).foldl (fun s i =>
    match s.translate none d (recDomain r) (plus (recWlist r) (64 * i)) .load with
    | .error _ => s
    | .ok (x, s) =>
      if s.drains x || (s.poisoned (.die d) x 64).isSome then s
      else
      let sh := shapeOf (BitVec.ofNat 512 (leNat (s.peek (.die d) x 64)))
      s.prefetchRows d (recDomain r) sh 0 (Nat.min sh.ringrows 8192)) s

/-- The pages of the input windows of every launch of a die whose dependences are met are translated (R318). -/
def State.prepare (s : State) (d : DieId) : State :=
  (s.die d).board.foldl (fun s l =>
    if l.prepared || !s.depsMet l then s
    else (s.prefetchWindows d l.record).setLaunch d l.handle fun l => { l with prepared := true }) s

/-! ## Who takes a core (R306, R319) -/

/-- The grants of a request that some cells resume together allow a cell of their list (R306). -/
def RampReq.allows (q : RampReq) (S m n : Nat) : Bool :=
  match q.resume.findIdx? (· == n) with
  | none => false
  | some i => slotsFor S m (i + 1) ≤ q.got

/-- A pre-empted cell's slots have been granted; a launch with none needs none (R306). -/
def State.resumeGranted (s : State) (d : DieId) (l : Launch) (n : Nat) : Bool :=
  let S := shareOn d l
  S == 0 || (s.die d).ramp.any fun q => q.launch == l.handle && q.allows S (cellsOfEntry d l).length n

/-- Cores that the cells of a pre-empted gang need on a die, those that had not started included, and do not have (R319). -/
def State.gangNeed (s : State) (d : DieId) (l : Launch) : Nat :=
  s.notRunning d l - l.resuming.length - (l.gang.filter fun k => s.cores[k].cell.status == .idle).length

/-- A pre-empted gang can hold cores for all its cells at once on a die. -/
def State.gangFits (s : State) (d : DieId) (l : Launch) : Bool := s.gangNeed d l ≤ (s.freeOn d l).length

/-- A launch wants a free core now (R318, R319): it may start its next cell, or resume a pre-empted one, or be issued at once; a gang
does when it can hold all its cores. -/
def State.wants (s : State) (d : DieId) (l : Launch) : Bool :=
  let imgs := s.imagesOf d l
  if recGang l.record then
    if l.issued then
      !imgs.isEmpty && 0 < s.gangNeed d l && s.gangFits d l && (match s.twin d l with
        | none => true
        | some m => s.gangFits (1 - d) m)
    else s.placeable d l
  else if l.issued then
    (!l.waiting.isEmpty && (cellsOfEntry d l).length - l.waiting.length < l.mayStart)
      || imgs.any fun i => s.resumeGranted d l i.cell.ident.cellno.toNat
  else shareOn d l == 0 && s.placeable d l

/-- No launch that comes earlier in the order and may be given a core wants it. -/
def State.firstClaim (s : State) (d : DieId) (l : Launch) (k : CoreId) : Bool :=
  !(s.die d).board.any fun m => m.handle != l.handle && s.wants d m && s.before d m l && s.free m k

/-- The cores of a die that a launch can be given: free, and wanted by no earlier launch. -/
def State.givenOn (s : State) (d : DieId) (l : Launch) : List CoreId := (s.freeOn d l).filter (s.firstClaim d l)

/-- A launch is issued on a die (R87, R318): a gang takes its cores; the launch is multi-wave where the cores that it can be given
are fewer than its cells (of this die: log entry 31). -/
def State.issueLaunch (s : State) (d : DieId) (l : Launch) : State :=
  let m := l.waiting.length
  let given := s.givenOn d l
  let gang := recGang l.record
  let S := shareOn d l
  let s := s.setLaunch d l.handle fun l =>
    { l with
      issued := true, multiWave := !gang && given.length < m, gang := if gang then given.take m else [],
      mayStart := if S = 0 then m else l.mayStart }
  if gang && S != 0 then
    s.setDie d { s.die d with ramp := (s.die d).ramp ++
      [{ launch := l.handle, core := none, resume := [], want := S - l.granted, got := 0, since := s.now }] }
  else s

/-- A launch can be issued now: cores that it may be given are wanted by no earlier launch, for a gang as many as it needs (R318, R319). -/
def State.mayIssue (s : State) (d : DieId) (l : Launch) : Bool :=
  s.placeable d l && !l.waiting.isEmpty
    && if recGang l.record then
        l.waiting.length ≤ (s.givenOn d l).length && (match s.twin d l with
          | none => true
          | some m => m.waiting.length ≤ (s.givenOn (1 - d) m).length)
      else shareOn d l == 0 && !(s.givenOn d l).isEmpty

/-- LAUNCH_ISSUE (R318, R319): the first launch of a die in the order of issue that waits for no slots to be issued; a gang is
issued on both its dies. -/
def execLaunchIssue (die : DieId) (s : State) : Host.Outcome State Fault Refusal :=
  let s := (s.prepare die).prepare (1 - die)
  match s.firstOf die ((s.die die).board.filter (s.mayIssue die)) with
  | none => .next s
  | some l =>
    let t := s.issueLaunch die l
    match recGang l.record, s.twin die l with
    | true, some m => .next (t.issueLaunch (1 - die) m)
    | _, _ => .next t

/-! ## Starting a cell (R88) -/

/-- The input windows of a cell mapped from their records (R88). DEDUCED: one whose record cannot be mapped is left to C's first word, where
C maps it or takes its fault, and the others are mapped (log entry 34). -/
def State.startWindows (s : State) (n : Nat) : State :=
  (List.finRange 8).foldl (fun (s : State) w =>
    let later : State := s.setCell { s.cell with startLeft := s.cell.startLeft ++ [w] }
    if n ≤ w.val then s
    else if s.inputDrains w then later
    else (s.mapInput w).toOption.getD later) s

/-- The identity of a launch's cell on a die. -/
def State.identOf (s : State) (l : Launch) (n : Nat) : Ident :=
  { handle := l.handle, record := l.record, lrec := l.lrec, cellno := BitVec.ofNat 32 n, domain := recDomain l.record,
    supv := recSupv l.record, multiWave := l.multiWave, index := cellIndex l.record n,
    entry := plus (recText l.record) 64, qbind := l.header.extractLsb' 384 128, hctx := l.header.extractLsb' 352 32,
    htrap := l.header.extractLsb' 320 32, textlen := (l.header.extractLsb' 288 32).toNat, serial := s.nextSerial,
    done := false, since := s.now, slot := l.slot }

/-- Cores kept for a launch on a die are kept no longer once every cell of it there runs (R320). -/
def State.dropKeeps (s : State) (d : DieId) (handle : Word) : State :=
  if (s.die d).board.any fun l => l.handle == handle && 0 < s.notRunning d l then s
  else { s with cores := s.cores.map fun c => if c.keep == some handle then { c with keep := none } else c }

/-- A cell of a launch that runs has been asked to leave its core. -/
def State.cellsLeaving (s : State) (handle : Word) : Bool :=
  (List.finRange 392).any fun k =>
    s.cores[k].leave.isSome && s.cores[k].cell.status != .idle && s.cores[k].cell.ident.handle == handle

/-- A gang's pre-emption is over on both dies: none of its cells is leaving its core or has to resume (R319, R320). -/
def State.gangWhole (s : State) (d : DieId) (l : Launch) : Bool :=
  !s.cellsLeaving l.handle && (s.imagesOf d l).isEmpty && (s.imagesOf (1 - d) l).isEmpty

/-- A cell takes a core (R88): its start state, a scratchpad of zeros, its windows. -/
def State.startCell (s : State) (k : CoreId) (l : Launch) (n : Nat) : State :=
  let s := s.on k
  let id := s.identOf l n
  let base := locPad k 0
  let s : State := { s with
    nextSerial := s.nextSerial + 1, mem := Memory.clear s.mem base (base + 0x180000),
    poison := s.poison.filter fun g => !(base ≤ g && g < base + 0x180000) }
  let s := s.setCore { s.core with cell := Cell.start .running id s.now, keep := none }
  let s := s.setLaunch (dieOf k) l.handle fun l => { l with waiting := l.waiting.tail, live := l.live + 1 }
  let s := s.dropKeeps (dieOf k) l.handle
  let s := s.startWindows (recNwin l.record)
  let s := s.restartHeads
  s.setCell { s.cell with ckpt := s.roll }

/-- CELL_START (R87, R88, R306, R319): the launch's next cell takes a core, when its slots reach its share and no lower cell of the
launch has to resume; a gang's while no cell of it leaves or has to resume. -/
def execCellStart (core : CoreId) (slot : Nat) (s : State) : Host.Outcome State Fault Refusal :=
  let d := dieOf core
  match (s.die d).board.find? (·.slot == slot) with
  | none => .next s
  | some l =>
    match l.waiting with
    | [] => .next s
    | n :: _ =>
      let started := (cellsOfEntry d l).length - l.waiting.length
      let place := if recGang l.record then l.gang.contains core && s.cores[core].cell.status == .idle && s.gangWhole d l
        else (s.imagesOf d l).isEmpty && s.free l core && s.firstClaim d l core
      .next (if l.issued && started < l.mayStart && place && s.issuing then s.startCell core l n else s)

/-! ## Iterations and ends (R89, R90) -/

/-- The indices after one more iteration of the T levels, the highest-numbered fastest; none when none remains. -/
def nextIteration (r : BitVec 512) (ix : Vector Nat 6) : Option (Vector Nat 6) :=
  (List.range 6).foldr (fun k (acc : Option (Vector Nat 6) × Vector Nat 6) =>
    match acc.1 with
    | some _ => acc
    | none =>
      if h : k < 6 then
        let l := recLevel r k
        if l.1 != 1 then acc
        else if acc.2[k] + 1 < l.2 then (some (acc.2.set k (acc.2[k] + 1)), acc.2)
        else (none, acc.2.set k 0)
      else acc) (none, ix) |>.1

/-- ITERATION_END (R89): the T indices advance; the PCs stand at the entry since the halt's commit. -/
def execIterationEnd (core : CoreId) (s : State) : Host.Outcome State Fault Refusal :=
  let t := s.on core
  let c := t.cell
  match nextIteration c.ident.record c.ident.index with
  | none => .next s
  | some ix =>
    if c.status == .halted && !c.frozen then
      let t := t.setCell { c with status := .running, ident := { c.ident with index := ix }, progress := t.now }
      .next t
    else .next s

/-- An entry whose cells have all ended leaves the scoreboard; cores that its gang still holds pass to its twin (R87). -/
def State.closeEntry (s : State) (d : DieId) (h : Word) : State :=
  match (s.die d).board.find? (·.handle == h) with
  | none => s
  | some l =>
    if l.live != 0 || !l.waiting.isEmpty then s
    else
      let s := match s.twin d l with
        | some m => s.setLaunch (1 - d) m.handle fun m => { m with gang := m.gang ++ l.gang }
        | none => s
      s.setDie d { s.die d with
        board := (s.die d).board.filter (·.handle != h), ramp := (s.die d).ramp.filter (·.launch != h) }

/-- A cell leaves the machine: its shadows are discarded, its charges added, its core given up. -/
def State.endCell (s : State) : State :=
  let k := s.cur.core
  let s := s.stopC.abandonF.discardShadows.settleCell
  let id := s.cell.ident
  let s : State := { s with
    pubs := s.pubs.filter (·.owner != id.serial), watch := s.watch.filter fun w => w.1 != id.serial }
  let s := s.dropRslot.vacate
  let s := s.setLaunch (dieOf k) id.handle fun l => { l with live := l.live - 1 }
  (s.closeEntry (dieOf k) id.handle).gangOver id.handle

/-- CELL_END (R89, R90): no T level remains; the DONE arrival is made and the core returns to the escapement. -/
def execCellEnd (core : CoreId) (s : State) : Host.Outcome State Fault Refusal :=
  let t := s.on core
  let c := t.cell
  .next (if c.status == .halted && !c.frozen && (nextIteration c.ident.record c.ident.index).isNone then
    t.doneArrival.endCell else s)

/-! ## Registers (R86, R95, R325) -/

/-- LOOPIDXk and LCOUNTk. -/
def State.loopReg (s : State) (count : Bool) (k : Nat) : Word :=
  let l := recLevel s.cell.ident.record k
  if count then BitVec.ofNat 64 (if l.1 = 0 then 1 else l.2)
  else BitVec.ofNat 64 (s.cell.ident.index.toList.getD k 0)

/-- LNKDEPTH (R95). -/
def State.linkDepths (s : State) : Word :=
  let p := s.roll.paths
  let n (q : Path) : BitVec 5 := BitVec.ofNat 5 q.links.length
  0#39 ++ n p.f ++ n p.v ++ n p.m ++ n p.c ++ n p.a

/-- SBSTAT (R325). -/
def State.sbstat (s : State) : Word :=
  let d := s.dieId
  let b := (s.die d).board
  0#16 ++ BitVec.ofNat 16 (s.die d).images.length ++ 0#6
    ++ BitVec.ofNat 10 (b.filter fun l => !l.issued && s.ready l).length ++ 0#6 ++ BitVec.ofNat 10 (s.entriesOn d)

end Sys2Proof.Machine
end

