-- ==== Sys2Proof/Machine/Preempt.lean ====
section
/-! DEFINITION. Pre-emption and resumption of cells (R319-R325). -/

namespace Sys2Proof.Machine

/-! ## Requests (R320, R325) -/

/-- Pre-emptions of the cells of some cores are requested, where an image slot can be chosen for each of them (R323). -/
def State.requestAll (s : State) : List CoreId → Option State
  | [] => some s
  | k :: ks =>
    match s.cores[k].leave, s.chooseSlot k with
    | some _, _ => s.requestAll ks
    | none, some x => (s.askLeave k (some x)).requestAll ks
    | none, none => none

/-- The entry of a core's cell on its die. -/
def State.entryOf (s : State) (k : CoreId) : Option Launch :=
  (s.die (dieOf k)).board.find? fun l => l.handle == s.cores[k].cell.ident.handle

/-- The cores that are pre-empted with a core: every core of its gang on both dies (R320). -/
def State.withGang (s : State) (k : CoreId) : List CoreId :=
  let id := s.cores[k].cell.ident
  if recGang id.record then
    (List.finRange 392).filter fun j => s.cores[j].cell.status != .idle && s.cores[j].cell.ident.handle == id.handle
  else [k]

/-- A cell is neither held nor hack-stopped (R320). -/
def Cell.goes (c : Cell) : Bool :=
  !c.frozen && match c.status with
    | .idle | .held _ => false
    | _ => true

/-- A core runs a cell that may be a victim (R320): its launch allows it, and it is neither held nor hack-stopped. -/
def State.mayLeave (s : State) (k : CoreId) : Bool :=
  let c := s.cores[k].cell
  c.goes && recPreempt c.ident.record && s.cores[k].leave.isNone

/-- One victim comes before another for a launch of higher priority (R320). -/
def State.victimPrio (s : State) (a b : CoreId) : Bool :=
  let x := s.cores[a].cell.ident
  let y := s.cores[b].cell.ident
  let px := recPrio x.record
  let py := recPrio y.record
  let age (k : CoreId) : Nat × Nat := match s.entryOf k with
    | some l => (l.accepted, l.seq)
    | none => (0, 0)
  let ax := age a
  let ay := age b
  if px != py then px < py
  else if ax != ay then ay.1 < ax.1 || (ax.1 == ay.1 && ay.2 < ax.2)
  else y.cellno < x.cellno

/-- One victim comes before another for a time slice (R320). -/
def State.victimSlice (s : State) (a b : CoreId) : Bool :=
  let x := s.cores[a].cell.ident
  let y := s.cores[b].cell.ident
  if x.since != y.since then x.since < y.since else y.cellno < x.cellno

/-- A core inserted in victim order. -/
def insertVictim (lt : CoreId → CoreId → Bool) (k : CoreId) : List CoreId → List CoreId
  | [] => [k]
  | x :: xs => if lt k x then k :: x :: xs else x :: insertVictim lt k xs

/-- Cores in victim order. -/
def sortVictims (lt : CoreId → CoreId → Bool) (ks : List CoreId) : List CoreId := ks.foldr (insertVictim lt) []

/-- A core that a launch has or will have to itself on a die: free for it, or about to be left by its cell (R320). -/
def State.coming (s : State) (l : Launch) (k : CoreId) : Bool :=
  s.free l k || (s.cores[k].leave.isSome && s.cores[k].enabled && !s.keptFrom k l)

/-- The cores of a die that a launch has or will have. -/
def State.comingOn (s : State) (d : DieId) (l : Launch) : List CoreId :=
  (List.finRange 392).filter fun k => dieOf k == d && s.coming l k

/-- Cores kept for a launch. -/
def State.keepCores (s : State) (handle : Word) (ks : List CoreId) : State :=
  ks.foldl (fun (s : State) (k : CoreId) => { s with cores := s.cores.set k { s.cores[k] with keep := some handle } }) s

/-- Victims pre-empted one after another, with their gangs, until a launch has or will have the cores that it needs on a die; a victim
for which the image slots do not suffice runs on (R320, R323). -/
def State.preemptUntil (s : State) (d : DieId) (l : Launch) (need : Nat) : List CoreId → State
  | [] => s
  | k :: ks =>
    if need ≤ (s.comingOn d l).length then s
    else ((s.requestAll (s.withGang k)).getD s).preemptUntil d l need ks

/-- The cells of a waiting launch that do not run on a die and have no core there; a gang's hold theirs while they wait for their slots
(R320). -/
def State.needsCores (s : State) (d : DieId) (l : Launch) : Nat := if recGang l.record then s.gangNeed d l else s.notRunning d l

/-- Victims pre-empted for a waiting launch, where they give it the cores that it needs, which are then kept for it (R320). -/
def State.preemptFor (s : State) (d : DieId) (l : Launch) (victims : List CoreId) : State :=
  let need := s.needsCores d l
  let have_ := (s.comingOn d l).length
  if need ≤ have_ || have_ + victims.length < need then s
  else
    let t := s.preemptUntil d l need victims
    let ks := t.comingOn d l
    if ks.length < need then s else t.keepCores l.handle (ks.take need)

/-- Pre-emptions for the ready launches of a die, in the order of issue, by which cells each may displace. -/
def State.preemptAll (s : State) (d : DieId) (lt : State → CoreId → CoreId → Bool)
    (mayTake : State → Launch → CoreId → Bool) : State :=
  let waiting := (s.die d).board.filter fun l => s.ready l && 0 < s.needsCores d l
  let sorted := waiting.foldr (fun l acc =>
    (acc.takeWhile fun m => s.before d m l) ++ l :: acc.dropWhile fun m => s.before d m l) []
  sorted.foldl (fun s l =>
    let vs := (List.finRange 392).filter fun k => dieOf k == d && s.mayLeave k && mayTake s l k
    s.preemptFor d l (sortVictims (lt s) vs)) s

/-- PRIORITY_PREEMPTION (R320). -/
def execPriorityPreemption (die : DieId) (s : State) : Host.Outcome State Fault Refusal :=
  let s := s.prepare die
  if !s.issuing then .next s
  else .next (s.preemptAll die State.victimPrio fun s l k =>
    recPrio s.cores[k].cell.ident.record < recPrio l.record)

/-- TIME_SLICE_PREEMPTION (R320): SLICE = 0 turns slicing off. -/
def execTimeSlicePreemption (die : DieId) (s : State) : Host.Outcome State Fault Refusal :=
  let s := s.prepare die
  let slice := (s.die die).slice.toNat
  if !s.issuing || slice = 0 then .next s
  else .next (s.preemptAll die State.victimSlice fun s l k =>
    let id := s.cores[k].cell.ident
    recPrio id.record == recPrio l.record && id.domain != recDomain l.record && slice ≤ s.usSince id.since)

/-- A core's cell is to leave at a supervisor's request, which waits for an image slot (R323, R325). -/
def State.requestWait (s : State) (k : CoreId) : State :=
  if s.cores[k].leave.isSome then s
  else s.askLeave k (s.chooseSlot k)

/-- The cells of some cores, with their gangs, are to leave at a supervisor's request, but for those that are held (R320). -/
def State.requestCells (s : State) (ks : List CoreId) : State :=
  let on (k : CoreId) : Bool := match s.cores[k].cell.status with
    | .idle | .held _ => false
    | _ => true
  ((ks.filter on).flatMap s.withGang).foldl State.requestWait s

/-- A supervisor's write of SCHEDCMD from a die (R325): one that names another die is ignored. The reserved bits of the register are
ignored (log entry 25). -/
def State.writeSchedcmd (s : State) (d : DieId) (v : Word) : State :=
  if v.getLsbD 40 != (d == 1) then s
  else
    match v.toNat / 2 ^ 60 with
    | 1 => s.requestCells (coreAt d (v.toNat / 2 ^ 32 % 256)).toList
    | 2 =>
      s.requestCells ((List.finRange 392).filter fun k =>
        dieOf k == d && s.cores[k].cell.ident.domain == v.extractLsb' 0 16)
    | _ => s

/-! ## The stop (R321, R322) -/

/-- A cell can be stopped now: no fault entry or rollback is in progress, and it is not hack-stopped. -/
def Cell.canStop (c : Cell) : Bool :=
  !c.frozen && c.raised.isNone && match c.status with
    | .running | .held _ => true
    | _ => false

/-- The cell under the cursor is stopped and saved in a slot; data that is uncorrectable is a fault of the cell first. -/
def State.stopAndSave (s : State) (slot : Nat × List (Nat × Nat)) : State :=
  match s.performLoads s.flight.loads.length with
  | .error f => s.fault .A f
  | .ok s => s.stopCell.saveImage slot none

/-- PREEMPTION_STOP (R321-R323). -/
def execPreemptionStop (core : CoreId) (s : State) : Host.Outcome State Fault Refusal :=
  let t := s.on core
  match t.core.leave with
  | none => .next s
  | some slot =>
    if t.cell.status == .idle then .next (t.setCore { t.core with leave := none })
    else if !t.cell.canStop then .next s
    else
      match (slot.map fun i => (i, t.core.slotAt)).or (t.chooseSlot core) with
      | none => .next s
      | some x => .next (t.stopAndSave x)

/-! ## Resumption (R306, R319) -/

/-- The cells of a pre-empted gang that have to run again are given their cores on a die: the idle ones that it still holds, then free
ones (R319). -/
def State.takeGang (s : State) (d : DieId) (l : Launch) : State :=
  let w := l.waiting.length
  let idle := l.gang.filter fun k => s.cores[k].cell.status == .idle
  let free := s.givenOn d l
  let more := w - idle.length
  let res := (idle.drop w ++ free.drop more).take ((s.imagesOf d l).length - l.resuming.length)
  s.setLaunch d l.handle fun l => { l with
    gang := (l.gang.filter fun k => !res.contains k) ++ free.take more, resuming := l.resuming ++ res }

/-- A gang's pre-empted cells take the cores that they need, together on both dies, once every cell that was to leave has left
(R319). -/
def State.gangCores (s : State) (d : DieId) (l : Launch) : Option State :=
  let fits (d : DieId) (l : Launch) : Bool := s.gangNeed d l ≤ (s.givenOn d l).length
  if s.cellsLeaving l.handle || !fits d l then none
  else
    match s.twin d l with
    | none => some (s.takeGang d l)
    | some m => if fits (1 - d) m then some ((s.takeGang d l).takeGang (1 - d) m) else none

/-- A core on which a cell of the gang resumes is from then on one that the gang holds for it. -/
def State.joinGang (s : State) (d : DieId) (l : Launch) (core : CoreId) : State :=
  s.setLaunch d l.handle fun l => { l with resuming := l.resuming.filter (· != core), gang := core :: l.gang }

/-- The core on which a pre-empted cell may resume is ready for it; a gang's cores are taken first. The cell of a retired core resumes
on the spare (R296). -/
def State.resumeCore (s : State) (d : DieId) (l : Launch) (i : Image) (core : CoreId) : Option State :=
  match i.only with
  | some k => if k == core && s.cores[core].cell.status == .idle then some s else none
  | none =>
    if recGang l.record then
      let has (s : State) : Option Launch := (s.die d).board.find? fun m => m.handle == l.handle && m.resuming.contains core
      match has s with
      | some _ => some (s.joinGang d l core)
      | none => match s.gangCores d l with
        | none => none
        | some t => (has t).map fun _ => t.joinGang d l core
    else if s.free l core && s.firstClaim d l core then some s
    else none

/-- CELL_RESUME (R306, R319, R323): the lowest-numbered pre-empted cell of a launch takes a core from its image. -/
def execCellResume (core : CoreId) (k : Nat) (s : State) : Host.Outcome State Fault Refusal :=
  let d := dieOf core
  match (s.die d).images[k]? with
  | none => .next s
  | some i =>
    let id := i.cell.ident
    match (s.die d).board.find? (·.handle == id.handle) with
    | none => .next s
    | some l =>
      let least := (s.imagesOf d l).all fun j => id.cellno ≤ j.cell.ident.cellno
      if !least || !s.issuing || !s.resumeGranted d l id.cellno.toNat then .next s
      else
        match s.resumeCore d l i core with
        | none => .next s
        | some t => .next (((t.on core).restoreImage i).dropKeeps d l.handle)

end Sys2Proof.Machine
end

