-- ==== Sys2Proof/Machine/Power.lean ====
section
/-! DEFINITION. The governor (R303-R310), ramp requests and rslot (R305, R306, R315), the throttle (R307). -/

namespace Sys2Proof.Machine

/-! ## Headroom (R305) -/

/-- The slots that the headroom H(t) allows (R305). -/
def State.headroom (s : State) : Nat := s.headTicks / (5 * ticksPerWatt)

/-! ## Ramp requests (R305, R306) -/

/-- A request is for cells of a launch that start. -/
def RampReq.starts (q : RampReq) (h : Word) : Bool := q.launch == h && q.core.isNone && q.resume.isEmpty

/-- Requests of cells of a launch that start, changed on a die. -/
def State.dropStarts (s : State) (d : DieId) (h : Word) : State :=
  s.setDie d { s.die d with ramp := (s.die d).ramp.filter fun q => !q.starts h }

/-- A request for slots of a launch joins the governor's order on a die: for cells that resume, or that start. -/
def State.askSlots (s : State) (d : DieId) (h : Word) (ns : List Nat) (want : Nat) : State :=
  s.setDie d { s.die d with
    ramp := (s.die d).ramp ++ [{ launch := h, core := none, resume := ns, want := want, got := 0, since := s.now }] }

/-- Requests of a launch's starting cells joined or withdrawn at a boundary (R306, R318): of a launch that became or ceased to be
placeable, of a wave of a pinned launch. A pinned gang's wait begins at its first boundary. -/
def State.joinStarts (s : State) (d : DieId) (l : Launch) : State :=
  let S := shareOn d l
  let m := (cellsOfEntry d l).length
  let asks := (s.die d).ramp.any fun q => q.starts l.handle
  let mark (s : State) : State := s.setLaunch d l.handle fun l => { l with askedAt := some s.now }
  if recGang l.record then (if recPin l.record && asks && l.askedAt.isNone then mark s else s)
  else if recPin l.record then
    if l.issued then
      let wave := Nat.min (s.freeOn d l).length l.waiting.length
      if 0 < wave && m - l.waiting.length == l.mayStart && !asks then mark (s.askSlots d l.handle [] (slotsFor S m wave)) else s
    else if s.placeable d l then (if asks then s else mark (s.askSlots d l.handle [] (S - l.granted)))
    else (s.dropStarts d l.handle).setLaunch d l.handle fun l => { l with askedAt := none }
  else if l.issued then s
  else if s.placeable d l then (if !asks && l.granted < S then s.askSlots d l.handle [] (S - l.granted) else s)
  else s.dropStarts d l.handle

/-- Cells of a launch that can resume together ask for their slots (R306). -/
def State.joinResumes (s : State) (d : DieId) (l : Launch) : State :=
  let m := (cellsOfEntry d l).length
  let gang := recGang l.record
  let free := (s.freeOn d l).length
  let imgs := (s.imagesOf d l).map fun i => i.cell.ident.cellno.toNat
  let sorted := imgs.foldr (fun n acc => (acc.takeWhile (· < n)) ++ n :: acc.dropWhile (· < n)) []
  let asked := (s.die d).ramp.any fun q => q.launch == l.handle && q.core.isNone && q.resume.any imgs.contains
  let can := if gang then (if s.gangFits d l then sorted.length else 0) else Nat.min free sorted.length
  if sorted.isEmpty || asked || can = 0 then s
  else
    let r := sorted.take can
    s.askSlots d l.handle r (slotsFor (shareOn d l) m r.length)

/-- Requests of a die joined or withdrawn at a boundary (R306, R318). -/
def State.joinRequests (s : State) (d : DieId) : State :=
  let s := s.prepare d
  (s.die d).board.foldl (fun s l => if shareOn d l = 0 then s else (s.joinStarts d l).joinResumes d l) s

/-- One request comes before another in the governor's order (R305). -/
def State.reqBefore (s : State) (a b : DieId × RampReq) : Bool :=
  let entry (x : DieId × RampReq) : Option Launch := (s.die x.1).board.find? (·.handle == x.2.launch)
  match entry a, entry b with
  | some l, some m =>
    let p := s.prio a.1 l
    let q := s.prio b.1 m
    if p != q then q < p
    else if l.handle == m.handle then a.2.since < b.2.since
    else l.older m
  | some _, none => true
  | _, _ => false

/-- The time for which a pinned launch, or a wave of it, may wait has passed, in cycles (R306). -/
def State.pinPast (s : State) (d : DieId) (l : Launch) : Nat :=
  match l.askedAt with
  | none => 0
  | some t0 => s.now - t0 - (s.die d).pinUse.toNat * Config.cyclesPerUs

/-- A request still takes grants: that of a pinned launch does for PINWAIT (R306). -/
def State.takesGrants (s : State) (x : DieId × RampReq) : Bool :=
  match (s.die x.1).board.find? (fun l => x.2.starts l.handle) with
  | none => true
  | some l => !recPin l.record || s.pinPast x.1 l = 0

/-- Every ramp request of the device that takes grants, in the governor's order. -/
def State.requests (s : State) : List (DieId × RampReq) :=
  let all := (s.die 0).ramp.map (fun q => ((0 : DieId), q)) ++ (s.die 1).ramp.map fun q => ((1 : DieId), q)
  (all.filter s.takesGrants).foldr
    (fun x acc => (acc.takeWhile fun y => s.reqBefore y x) ++ x :: acc.dropWhile fun y => s.reqBefore y x) []

/-- Slots given to a request of a die; a launch's grants let its cells start, and its first grant issues it (R306, R318). -/
def State.giveSlots (s : State) (d : DieId) (q : RampReq) (n : Nat) : State :=
  let got := q.got + n
  let s := s.setDie d { s.die d with ramp := (s.die d).ramp.map fun r => if r == q then { r with got := got } else r }
  if q.core.isSome || !q.resume.isEmpty || n = 0 then s
  else
    match (s.die d).board.find? (·.handle == q.launch) with
    | none => s
    | some l =>
      let m := (cellsOfEntry d l).length
      let started := m - l.waiting.length
      let may :=
        if recPin l.record then
          (if got < q.want then l.mayStart
           else if recGang l.record then m
           else started + Nat.min (startable (shareOn d l) m q.want) (Nat.min (s.freeOn d l).length l.waiting.length))
        else startable (shareOn d l) m (l.granted + n)
      let s := if !l.issued && !recGang l.record then s.issueLaunch d l else s
      let s := s.setLaunch d l.handle fun l =>
        { l with granted := l.granted + n, mayStart := may, askedAt := if q.want ≤ got then none else l.askedAt }
      if got < q.want then s else s.dropStarts d q.launch

/-- Slots granted in order: a request met in part ends the boundary's grants (R305). Also the slots granted. -/
def State.grantAll (s : State) (budget : Nat) : List (DieId × RampReq) → State × Nat
  | [] => (s, 0)
  | (d, q) :: qs =>
    let n := Nat.min (q.want - q.got) budget
    let s := s.giveSlots d q n
    if n < q.want - q.got then (s, n)
    else
      let (s, k) := s.grantAll (budget - n) qs
      (s, n + k)

/-- Requests of cells that have all resumed are dropped. -/
def State.dropResumed (s : State) (d : DieId) : State :=
  let live := (s.die d).images.map fun i => (i.cell.ident.handle, i.cell.ident.cellno.toNat)
  s.setDie d { s.die d with ramp := (s.die d).ramp.filter fun q =>
    q.resume.isEmpty || q.resume.any fun n => live.contains (q.launch, n) }

/-! ## Ballast (R308-R310) -/

/-- The idle M engines, in ascending die and site. -/
def State.idleM (s : State) : List CoreId := (List.finRange 392).filter s.ballastOk

/-- The sixteenths of ballast whose metered power is not below a number of ticks: a core's d sixteenths issue in 330 d / 16 cycles of a
sample, rounded up (R309). Where no number of them reaches it, one more than the cores have. -/
def State.sixteenths (s : State) (ticks cap : Nat) : Nat :=
  let w := s.weight 5
  if ticks = 0 then 0
  else if w = 0 then cap + 1
  else ((ticks + w - 1) / w - 1) * 16 / Config.cyclesPerSample + 1

/-- Sixteenths given to cores in order, each filled before the next (R309). -/
def fillDuty (n : Nat) : List CoreId → List (CoreId × Nat)
  | [] => []
  | k :: ks => if n = 0 then [] else (k, Nat.min n 16) :: fillDuty (n - 16) ks

/-! ## SAMPLE_BOUNDARY -/

/-- The queue occupancies that chronographs of source 7 sample on a die (R354). -/
def State.sampleQueues (s : State) (d : DieId) : State :=
  (List.finRange 16).foldl (fun (s : State) n =>
    let p := s.chronoCtl d n % 2 ^ 32
    match coreAt d (p / 16 % 256) with
    | none => s
    | some k =>
      let c := s.cores[k].cell
      if c.status == .idle then s
      else s.gather d 7 c.ident.domain (c.roll.q[Fin.ofNat 16 p]).length n) s

/-- The sample that ends is metered (R303): dynamic charges with the cycles that F has run, ballast, static power, and the refresh, patrol
and idle traffic, which falls to domain 0 (R312; log entry 13). -/
def State.meterSample (s : State) : State :=
  let s := (List.finRange 392).foldl State.payF s
  let s := s.addTicks 0 s.gov.idle
  { s with gov := { s.gov with ticks := s.gov.ticks + s.gov.idle, idle := 0 } }

/-- The sample that ends is closed: its power goes to the history, the rail power that the Aedty core reads is free below the module's
maximum (R6, R9; log entry 13), and the idle traffic and the ballast of the next sample are chosen (R309). -/
def State.closeSample (s : State) : State :=
  let s := s.meterSample
  let g := s.gov
  let ballast := g.ballastSum
  let k := g.ticks + ballast + s.staticTicks Config.cyclesPerSample
  let meas := BitVec.ofNat 24 ((Config.freeWord s.freeCtr).toNat % 2401)
  let s : State := { s with
    freeCtr := s.freeCtr + 1
    gov := { g with
      ticks := 0, meas := meas, history := (k :: g.history).take 10000001, power := BitVec.ofNat 12 (Nat.min 4095 (k / ticksPerWatt)),
      sampleAt := g.sampleAt + Config.cyclesPerSample, heldBefore := g.hold, hold := false, ballastOn := [], ballastSum := 0,
      acts := 0, actsBefore := (g.acts :: g.actsBefore).take 9, use := g.set } }
  let (idle, s) := s.drawIdle
  let s : State := { s with gov := { s.gov with idle := idle } }
  let s := [0, 1].foldl (fun (s : State) d =>
    let s := s.setDie d { s.die d with pinUse := (s.die d).pinwait }
    (s.sample d 6 0xFFFF (k / (5 * ticksPerWatt))).sampleQueues d) s
  let cap := 16 * s.idleM.length
  let need := s.sixteenths (s.loTicks - (k - ballast)) cap
  let s := if cap < need then { s with gov := { s.gov with breach := holdSucc s.gov.breach } } else s
  { s with gov := { s.gov with ballastOn := fillDuty (Nat.min need cap) s.idleM } }

/-- SAMPLE_BOUNDARY (R303-R309). -/
def execSampleBoundary (s : State) : Host.Outcome State Fault Refusal :=
  if s.aedty.suspended == 2 || s.now < s.gov.sampleAt + Config.cyclesPerSample then .next s
  else
    let s := s.closeSample
    let s := if s.issuing then ((s.dropResumed 0).dropResumed 1).joinRequests 0 |>.joinRequests 1 else s
    let (s, n) := s.grantAll (if s.issuing then s.headroom else 0) s.requests
    .next { s with gov := { s.gov with grants := (n :: s.gov.grants).take 10000001 } }

/-- The sample's ticks have reached its ceiling; in the sample after a hold, not before the sixteenth part of the sample in which
engines may issue (R307). -/
def State.ceilingMet (s : State) : Bool :=
  let g := s.gov
  let early := g.heldBefore && s.now < g.sampleAt + Config.cyclesPerSample / 16 + 1
  !g.hold && !early && match s.hiTicks with
    | none => false
    | some hi => hi ≤ s.metered

/-- THROTTLE_HOLD (R307). -/
def execThrottleHold (s : State) : Host.Outcome State Fault Refusal :=
  .next (if s.ceilingMet then { s with gov := { s.gov with hold := true } } else s)

/-- A pinned launch, or a wave of it, is removed from its scoreboard with none of its waiting cells started; cells that have started
run on (R306, R317). -/
def State.removePinned (s : State) (d : DieId) (l : Launch) : State :=
  let s := s.dropStarts d l.handle
  let s := s.setLaunch d l.handle fun l => { l with waiting := [], askedAt := none, slot := 512 + s.nextSerial }
  let s : State := { s with nextSerial := s.nextSerial + 1 }
  (s.closeEntry d l.handle).gangOver l.handle

/-- RAMP_VIOLATION (R306): a pinned launch, or a wave of it, not granted in full within PINWAIT; its waiting cells never
start, and an event carries its handle. -/
def execRampViolation (die : DieId) (slot : Nat) (s : State) : Host.Outcome State Fault Refusal :=
  match (s.die die).board.find? (·.slot == slot) with
  | none => .next s
  | some l =>
    let open_ := (s.die die).ramp.any fun q => q.starts l.handle && q.got < q.want
    match l.askedAt with
    | none => .next s
    | some t0 =>
      if !recPin l.record || !open_ || s.usSince t0 < (s.die die).pinUse.toNat then .next s
      else
        let f : Flt := Flt.mk' .rampViolation 0
        let head : BitVec 512 :=
          l.handle ++ 0#32 ++ recDomain l.record ++ 0#8 ++ BitVec.ofNat 1 die.val ++ 0#383 ++ 5#8
        let s := s.queueEvent die
          { head := head, record := trapRecord f .A 0 0 (recSupv l.record) }
        .next (s.removePinned die l)

/-! ## rslot (R315) -/

/-- The ramp request of the core's rslot. -/
def State.rslotReq (s : State) : Option RampReq := (s.die s.dieId).ramp.find? fun q => q.core == some s.cur.core

/-- rslot returns with g of k slots. -/
def State.rslotDone (s : State) (d : Dst) (k g : Nat) : Res State :=
  let s := s.dropRslot
  let s := s.setMisc { s.misc with rreq := BitVec.ofNat 10 k, rgrant := BitVec.ofNat 10 g }
  s.dst d (BitVec.ofNat 64 g)

/-- The wait of an rslot is over: all is granted, or PINWAIT has passed. -/
def State.rslotOver (s : State) (q : RampReq) : Bool :=
  q.want ≤ q.got || (s.die s.dieId).pinUse.toNat ≤ s.usSince q.since

/-- rslot (R315): the first attempt queues a request; later ones look at its grants. -/
def execRslot (t : Tok) (d : Dst) (a : Src) (s : State) : Host.Outcome State Fault Refusal :=
  let uses := Src.uses a ++ Dst.uses d
  let look : Res (Nat × State) := do
    s.bindAll .A uses
    let (_, s) ← s.takeTokens .A t
    let (v, s) ← s.src a
    s.dstReady d
    require (v.toNat ≤ 480) .shape 0x700
    .ok (v.toNat, s)
  match look, s.rslotReq with
  | .ok (k, _), none =>
    if k != 0 && (s.die s.dieId).pinUse != 0 then
      let q : RampReq :=
        { launch := s.cell.ident.handle, core := some s.cur.core, resume := [], want := k, got := 0, since := s.now }
      .next ((s.setDie s.dieId { s.die s.dieId with ramp := (s.die s.dieId).ramp ++ [q] }).stallAt .A .rslot none)
    else s.issue .A t 0 uses fun s => do
      let (_, s) ← s.src a
      s.rslotDone d k 0
  | _, _ =>
    s.issue .A t 0 uses fun s => do
      let (v, s) ← s.src a
      require (v.toNat ≤ 480) .shape 0x700
      match s.rslotReq with
      | none => s.rslotDone d 0 0
      | some q => if s.rslotOver q then s.rslotDone d q.want q.got else .error (.wait .rslot none)

/-! ## Registers (R314) -/

/-- A limit register as it stores a value: RISE and FALL below 5 are stored as 5. -/
def storeLimit (v : Word) : Word := BitVec.ofNat 64 (Nat.max 5 (fallOf v) * 65536 + Nat.max 5 (riseOf v))

/-- RAMPGRANT. -/
def State.rampgrant (s : State) : Word :=
  0#34 ++ BitVec.ofNat 10 (recSlots s.cell.ident.record) ++ s.misc.rreq ++ s.misc.rgrant

/-- RSTAT. -/
def State.rstat (s : State) : Word := s.gov.breach ++ s.gov.meas ++ 0#12 ++ s.gov.power

end Sys2Proof.Machine
end

