-- ==== Sys2Proof/Machine/System.lean ====
section
/-! DEFINITION. System registers (R115 and the tables of the chapters), traps and their return (R116, R117), random values
(R119, R79), trace records (R352), and a supervisor's settling of held cells (R289) and of translations (R293). -/

namespace Sys2Proof.Machine

/-! ## Reading (R115) -/

/-- A register's value as one view gives it, or a later table's. -/
def pick (r : Nat) (table : List (Nat × Word)) (other : Word) : Word := (table.lookup r).getD other

/-- A field of a register that a user cell reads as zero. -/
def State.privileged (s : State) (v : Word) : Word := if s.supv then v else 0

/-- QOCC and TOKOCC (R125). -/
def State.qocc (s : State) : Word :=
  BitVec.ofNat 64 (((List.finRange 16).map fun q => s.roll.q[q].length * 2 ^ (3 * q.val)).sum)

/-- TOKOCC (R125). -/
def State.tokocc (s : State) : Word :=
  BitVec.ofNat 64 (((List.finRange 10).map fun j => s.roll.tok[j].length * 2 ^ (4 * j.val)).sum)

/-- Registers of cells, queues and command queues (R86, R93, R95, R125, R137, R140). -/
def State.readCellReg (s : State) (r : Nat) (other : Word) : Word :=
  let d := s.die s.dieId
  if 0x001 ≤ r && r ≤ 0x006 then s.loopReg false (r - 0x001)
  else if 0x007 ≤ r && r ≤ 0x00C then s.loopReg true (r - 0x007)
  else pick r
    [(0x000, s.cellid), (0x00D, s.cell.ident.lrec), (0x00E, s.misc.slipw.setWidth 64), (0x00F, s.linkDepths),
     (0x040, s.misc.qstall.setWidth 64), (0x041, s.qocc), (0x042, s.tokocc), (0x043, s.misc.cqquota.setWidth 64),
     (0x044, 0), (0x045, d.spillBase), (0x046, d.spillSize.setWidth 64)] other

/-- Registers of traps and events (R285, R288, R296). -/
def State.readTrapReg (s : State) (r : Nat) (other : Word) : Word :=
  let t := s.cell.traps
  let d := s.die s.dieId
  pick r
    [(0x080, t.vec.setWidth 64), (0x081, t.cause), (0x082, t.epc.a), (0x083, t.epc.c), (0x084, t.epc.m), (0x085, t.epc.v),
     (0x086, t.epc.f), (0x087, s.core.dperr.setWidth 64), (0x088, s.privileged (d.sevBase.setWidth 64)),
     (0x089, s.privileged (d.sevSize.setWidth 64)), (0x08A, 0), (0x08B, 0)] other

/-- FROOT and FPOOL (R220). -/
def State.froot (s : State) : Word :=
  BitVec.ofBool s.roll.rootOvf ++ 0#50 ++ s.roll.rootLast ++ 0#4 ++ s.misc.rootStart

/-- FPOOL (R220). -/
def State.fpool (s : State) : Word :=
  0#23 ++ BitVec.ofNat 9 s.poolFree ++ 0#19 ++ BitVec.ofNat 13 ((s.roll.f.toList.map (·.coef.length)).sum)

/-- Registers of the function engine and of contexts (R220, R268): LIMIT of CDEPTH is privileged. -/
def State.readFuncReg (s : State) (r : Nat) (other : Word) : Word :=
  let m := s.misc
  let c := s.cell.ctx
  let limit : BitVec 3 := if s.supv then c.limit else 0
  pick r
    [(0x0C0, m.ftol), (0x0C1, m.fmaxlen.setWidth 64), (0x0C2, (BitVec.ofBool m.fpolicy).setWidth 64),
     (0x0C3, s.roll.ftrc.setWidth 64), (0x0C4, s.roll.food.setWidth 64), (0x0C5, s.froot), (0x0C6, s.fpool),
     (0x100, 0#39 ++ BitVec.ofBool c.active ++ 0#7 ++ BitVec.ofBool c.raised ++ 0#5 ++ c.depth ++ 0#5 ++ limit),
     (0x101, c.ctxrec), (0x102, c.ctoken), (0x103, c.rply ++ c.number), (0x104, c.ckslot)] other

/-- Registers of power (R314): BALLAST shows the core to a supervisor and the domain's entry to a user. -/
def State.readPowerReg (s : State) (r : Nat) (other : Word) : Word :=
  let p := s.gov.set
  let ballast : Word := if s.supv then s.core.ballast.setWidth 64
    else BitVec.ofNat 64 (s.entryAt (locSys 0 (accountOff s.domain + 8)) % 2 ^ 48)
  pick r
    [(0x140, s.energy), (0x141, BitVec.ofNat 64 (s.accountView / 2 ^ 63)), (0x142, s.rampgrant),
     (0x143, (s.die s.dieId).pinwait.setWidth 64), (0x144, p.rlimus), (0x145, p.rlimms), (0x146, p.rlims),
     (0x147, p.eweight[0]), (0x148, p.eweight[1]), (0x149, p.eweight[2]), (0x14A, p.eweight[3]),
     (0x14B, p.estatic.setWidth 64), (0x14C, s.privileged s.core.eclaim), (0x14D, ballast),
     (0x14E, s.core.throttled.setWidth 64), (0x14F, s.rstat), (0x150, p.hbmact.setWidth 64)] other

/-- QHCOUNT (R350, R353): the counter that QHSEL selects, the class of this moment included. -/
def State.qhcount (s : State) : Word :=
  match Eng.ofCode (s.misc.qhsel.toNat / 256) with
  | none => 0
  | some e =>
    let r := s.run e
    let cls : BitVec 8 := s.misc.qhsel.extractLsb' 0 8
    let old := (r.headCount.lookup cls).getD 0
    (if r.head == cls then holdAdd old (s.now - r.headAt) else old).setWidth 64

/-- CHRDATA (R350, R354): a user cell reads only chronographs of its own domain. -/
def State.chrdata (s : State) : Word :=
  let n : Fin 16 := Fin.ofNat 16 (s.misc.chridx.toNat / 64)
  let w := s.misc.chridx.toNat % 64
  let c := (s.die s.dieId).chrono[n]
  if !s.supv && s.chronoCtl s.dieId n / 2 ^ 32 % 65536 != s.domain.toNat then 0
  else
    match w with
    | 0 => c.count
    | 1 => c.min
    | 2 => c.max
    | k + 3 => c.bins.toList.getD k 0

/-- Registers of scheduling and of observation (R325, R350). -/
def State.readSchedReg (s : State) (r : Nat) (other : Word) : Word :=
  let d := s.die s.dieId
  let m := s.misc
  pick r
    [(0x180, 0), (0x181, d.slice.setWidth 64), (0x182, d.agestep.setWidth 64), (0x183, s.privileged d.imgbase),
     (0x184, s.privileged (d.imgcount.setWidth 64)), (0x185, s.sbstat), (0x186, s.aedty.suspcnt.setWidth 64),
     (0x1C0, (s.run .A).beat.setWidth 64), (0x1C1, m.trcbase), (0x1C2, 0#47 ++ BitVec.ofBool m.trcauto ++ m.trcsize),
     (0x1C3, m.trclost ++ m.trcpos), (0x1C4, d.hackbase.setWidth 64), (0x1C5, m.qhsel.setWidth 64), (0x1C6, s.qhcount),
     (0x1C7, m.chridx.setWidth 64), (0x1C8, s.chrdata)] other

/-- WSTAT of a window (R169). -/
def Window.stat (w : Window) : Word :=
  BitVec.ofBool w.shape.isSome ++ 0#1 ++ BitVec.ofNat 14 w.arrived ++ 0#16 ++ BitVec.ofNat 32 w.head

/-- MBXOPEN (R359). -/
def State.mbxopen (s : State) : Word :=
  s.aedty.streams.foldl (fun v st => if st.domain == s.domain then v ||| 1#64 <<< st.id.toNat else v) 0

/-- Registers of the tensor engines, the buffers and the mailbox (R68, R79, R169, R171, R180, R187, R212, R213, R247,
R359). -/
def State.readUnitReg (s : State) (r : Nat) (other : Word) : Word :=
  let m := s.misc
  let p := s.cell.slots[m.pbsel]
  if 0x210 ≤ r && r ≤ 0x217 then s.roll.win[Fin.ofNat 8 (r - 0x210)].stat
  else pick r
    [(0x200, s.roll.vsatn.setWidth 64), (0x201, s.roll.vnann.setWidth 64), (0x202, s.roll.msatn.setWidth 64),
     (0x208, s.roll.rndctr), (0x209, s.privileged s.core.rndkey0), (0x20A, s.privileged s.core.rndkey1),
     (0x218, BitVec.ofBool m.cprogValid ++ 0#31 ++ m.cprogP), (0x220, (BitVec.ofBool m.vctl).setWidth 64),
     (0x221, m.smtheta.setWidth 64), (0x222, m.smtag ++ 0#24), (0x228, m.mctl.setWidth 64), (0x229, s.mstat),
     (0x238, BitVec.ofNat 64 m.pbsel.val), (0x239, p.b0), (0x23A, p.b1), (0x23B, p.len), (0x23C, p.ver),
     (0x240, s.mbxopen),
     (0x241, m.released ++ m.drop ++ 0#9 ++ BitVec.ofNat 7 s.roll.staging.length)] other

/-- The value of a system register in the cell's view (R115). -/
def State.readReg (s : State) (r : BitVec 12) : Word :=
  let n := r.toNat
  if n < 0x080 then s.readCellReg n 0
  else if n < 0x0C0 then s.readTrapReg n 0
  else if n < 0x140 then s.readFuncReg n 0
  else if n < 0x180 then s.readPowerReg n 0
  else if n < 0x200 then s.readSchedReg n 0
  else s.readUnitReg n 0

/-- srd (R115); the traffic of the accesses that the core has made is charged before ENERGY is read (R316). -/
def execSrd (t : Tok) (d : Dst) (r : BitVec 12) (s : State) : Host.Outcome State Fault Refusal :=
  s.issue .A t 0 (Dst.uses d) fun s =>
    let s := if r == 0x140 then s.payF s.cur.core else s
    s.dst d (s.readReg r)

/-! ## Held cells (R289) -/

/-- A cell of a domain that is being dumped (R299). -/
def State.dumping (s : State) : Bool := s.aedty.dumps.any fun d => d.domain == s.domain

/-- A held cell runs on with its engines at some addresses (R289). -/
def State.resumeHeld (s : State) (pcs : Five Word) : State :=
  let p := s.roll.paths
  let at_ (q : Path) (pc : Word) : Path := { q with pc := pc, halted := false }
  let s := s.setRoll { s.roll with
    paths := ⟨at_ p.a pcs.a, at_ p.c pcs.c, at_ p.m pcs.m, at_ p.v pcs.v, at_ p.f pcs.f⟩ }
  s.leaveHold

/-- A held cell ends with its DONE arrival (R90, R289). -/
def State.endHeld (s : State) : State :=
  ((s.perform (fun p => p.serial == s.cell.ident.serial) 3).doneArrival).endCell

/-- The registers of a cell's traps and contexts as a resumption from the checkpoint leaves them (R289). -/
def State.leaveHandlers (s : State) : State :=
  let c := s.cell
  s.setCell { c with
    ctx := { c.ctx with active := false },
    traps := { c.traps with cause := c.traps.cause &&& 0x7FFFFFFFFFFFFFFF, aside := none } }

/-- A held cell resumes from its checkpoint (R289): the rollback is made first where the hold made none. -/
def State.fromCheckpoint (s : State) (h : Hold) : State :=
  if h.rolled then s.leaveHandlers.leaveHold else s.setCell { s.cell with status := .rolling .settle }

/-- A held cell enters its context handler (R289). -/
def State.heldContext (s : State) (nlimit : BitVec 3) (entry : Word) : State :=
  let c := s.cell.ctx
  let s := s.setCtx { c with limit := if nlimit = 0 then c.limit else nlimit, active := true }
  s.leaveHold.startContext entry

/-- A held cell enters its trap handler with the held cause (R286, R289). -/
def State.heldTrap (s : State) (h : Hold) (entry : Word) : State :=
  let p := s.roll.paths
  let s := s.setCell { s.cell with
    traps := { s.cell.traps with cause := causeWord h.flt h.eng s.supv, aside := some p } }
  s.leaveHold.startAll entry

/-- An action on the held cell under the cursor (R289). -/
def State.settleHeld (s : State) (h : Hold) (action : Nat) (nlimit : BitVec 3) : State :=
  let epc := s.cell.traps.epc
  let deep := h.flt.kind == .replayDepth
  match action with
  | 1 => s.resumeHeld (if h.double then h.resume else epc)
  | 2 =>
    if !deep then s.resumeHeld (if h.double then h.resume else epc)
    else
      match s.contextEntry with
      | none => s.endHeld
      | some entry => if h.flt.code == 1 then s.endHeld else s.heldContext nlimit entry
  | 3 => s.fromCheckpoint h
  | 4 =>
    match s.trapEntry with
    | none => s.endHeld
    | some entry => if h.double then s.endHeld else s.heldTrap h entry
  | 5 => s.beginDump s.domain (trapRecord h.flt h.eng h.pc (s.run h.eng).beat s.supv) s.cellid
  | 6 => s.endHeld
  | _ => s

/-- An action ends the held cell (R289). -/
def State.endsHeld (s : State) (h : Hold) (action : Nat) : Bool :=
  action == 6 || (action == 4 && (s.trapEntry.isNone || h.double))
    || (action == 2 && h.flt.kind == .replayDepth && (s.contextEntry.isNone || h.flt.code == 1))

/-- A write of CELLCTL from a die (R289): it acts on the held cell that it names there. A cell whose peer stores are not acknowledged
ends once they are, for its DONE arrival (R90, R335). The reserved bits of the register are ignored (log entry 25). -/
def State.writeCellctl (s : State) (d : DieId) (v : Word) : Res State :=
  match coreAt d (v.toNat / 2 ^ 32 % 256) with
  | none => .ok s
  | some k =>
    let t := s.on k
    let action := v.toNat / 2 ^ 60
    match t.cell.status with
    | .held h =>
      if v.getLsbD 40 != (d == 1) || t.cell.ident.cellno != v.extractLsb' 0 32 || t.dumping then .ok s
      else if t.endsHeld h action && s.peerStores.any fun p => p.serial == t.cell.ident.serial then .error (.wait .unit none)
      else .ok ((t.settleHeld h action (v.extractLsb' 41 3)).on s.cur.core)
    | _ => .ok s

/-! ## Translations (R293) -/

/-- A cached translation is one that a TLBINV names. -/
def TlbEntry.named (t : TlbEntry) (v : Word) : Bool :=
  t.domain == v.extractLsb' 48 16
    && (v.getLsbD 47 || (t.vpn ≤ v.toNat % 2 ^ 41 && v.toNat % 2 ^ 41 < t.vpn + t.units))

/-- A core of a domain has loads under way that a cached translation made. -/
def Core.loadsOut (c : Core) (d : BitVec 16) : Bool := c.cell.ident.domain == d && !c.cell.flight.loads.isEmpty

/-- The loads of the stopped cells of a domain are performed (R356). -/
def State.holdAll (s : State) (d : BitVec 16) : State :=
  let here := s.cur.core
  ((List.finRange 392).foldl (fun (s : State) k =>
    if s.cores[k].cell.frozen && s.cores[k].loadsOut d then (s.on k).holdLoads else s) s).on here

/-- A write of TLBINV (R293): the copies on both dies and in every micro-TLB are dropped, and the accesses that used them performed; rows of windows are
translated as they arrive. The reserved bits of the register are ignored (log entry 25). -/
def State.writeTlbinv (s : State) (v : Word) : Res State := do
  let dom : BitVec 16 := v.extractLsb' 48 16
  let s ← liftFlt (s.performLoads s.flight.loads.length)
  if s.cores.toList.any fun c => c.loadsOut dom && !c.cell.frozen then .error (.wait .unit none)
  else
    let s := (s.holdAll dom).perform (fun p => s.cores[p.core].cell.ident.domain == dom) 3
    let keep (l : List TlbEntry) : List TlbEntry := l.filter fun t => !t.named v
    .ok { s with dies := s.dies.map fun d => { d with tlb := keep d.tlb }, cores := s.cores.map fun c => { c with micro := keep c.micro } }

/-! ## Writing (R115) -/

/-- Registers marked read. -/
def readOnly (n : Nat) : Bool :=
  n ≤ 0x00D || n == 0x00F || n == 0x041 || n == 0x042 || n == 0x081 || n == 0x087 || n == 0x0C6 || n == 0x103
    || n == 0x140 || n == 0x142 || (0x14D ≤ n && n ≤ 0x14F) || n == 0x185 || n == 0x186 || n == 0x1C0 || n == 0x1C3
    || n == 0x1C6 || n == 0x1C8 || (0x210 ≤ n && n ≤ 0x217) || n == 0x229 || n == 0x240 || n == 0x241

/-- Registers that only a supervisor cell may write. -/
def privilegedWrite (n : Nat) : Bool :=
  (0x043 ≤ n && n ≤ 0x046) || (0x088 ≤ n && n ≤ 0x08B) || n == 0x141 || (0x143 ≤ n && n ≤ 0x14C) || n == 0x150
    || (0x180 ≤ n && n ≤ 0x184) || n == 0x1C4 || n == 0x209 || n == 0x20A

/-- A value raised to a least one. -/
def atLeast {n : Nat} (least v : BitVec n) : BitVec n := if v.toNat < least.toNat then least else v

/-- The die under the cursor changed. -/
def State.onDie (s : State) (f : Die → Die) : State := s.setDie s.dieId (f (s.die s.dieId))

/-- The trap registers changed. -/
def State.onTraps (s : State) (f : Traps → Traps) : State := s.setCell { s.cell with traps := f s.cell.traps }

/-- The power registers as written changed. -/
def State.onPower (s : State) (f : Power → Power) : State := { s with gov := { s.gov with set := f s.gov.set } }

/-- FTOL as it stores a value: a NaN or a negative value is +0 (R220). -/
def storeTol (v : Word) : Word :=
  if v.getLsbD 63 || (v.extractLsb' 52 11 == 0x7FF && v.extractLsb' 0 52 != 0) then 0 else v

/-- FMAXLEN as it stores a value (R220). -/
def storeMaxlen (v : Word) : BitVec 11 :=
  let n := v.toNat % 2048
  BitVec.ofNat 11 (if n = 0 then 1 else Nat.min n 1024)

/-- Registers of cells, queues and command queues written (R93, R125, R137, R140). DEDUCED: CQQUOTA is the quota of the cell that writes it,
each cell's being kept with the cell and in its image (log entry 35; R137 speaks of a domain's quota). -/
def State.writeCellReg (s : State) (n : Nat) (v : Word) : State :=
  let m := s.misc
  let full := !(s.die s.dieId).spilled.isEmpty
  match n with
  | 0x00E => s.setMisc { m with slipw := atLeast 16 (v.setWidth 16) }
  | 0x040 => s.setMisc { m with qstall := atLeast 64 (v.setWidth 32) }
  | 0x043 => s.setMisc { m with cqquota := atLeast 1 (v.setWidth 13) }
  | 0x044 => s.writeCqctl s.dieId v
  | 0x045 => if full then s else s.onDie fun d => { d with spillBase := v &&& ~~~ 63#64 }
  | 0x046 => if full then s else s.onDie fun d => { d with spillSize := v.setWidth 16 }
  | _ => s

/-- Registers of traps and events written (R285, R288, R289). -/
def State.writeTrapReg (s : State) (n : Nat) (v : Word) : State :=
  match n with
  | 0x080 => s.onTraps fun t => { t with vec := v.setWidth 27 &&& 0x1F1BFFF }
  | 0x082 => s.onTraps fun t => { t with epc := { t.epc with a := epcOf v } }
  | 0x083 => s.onTraps fun t => { t with epc := { t.epc with c := epcOf v } }
  | 0x084 => s.onTraps fun t => { t with epc := { t.epc with m := epcOf v } }
  | 0x085 => s.onTraps fun t => { t with epc := { t.epc with v := epcOf v } }
  | 0x086 => s.onTraps fun t => { t with epc := { t.epc with f := epcOf v } }
  | 0x088 => s.onDie fun d => { d with sevBase := v.setWidth 32 &&& ~~~ 127#32 }
  | 0x089 => s.onDie fun d => { d with sevSize := v.setWidth 16 }
  | _ => s

/-- A write of CDEPTH (R268): RAISED, and from a supervisor LIMIT. -/
def State.writeCdepth (s : State) (v : Word) : Res State := do
  let l : BitVec 3 := v.extractLsb' 0 3
  require (s.supv || l == 0) .privilege 2
  let c := s.cell.ctx
  .ok (s.setCtx { c with raised := v.getLsbD 16, limit := if s.supv then atLeast 1 l else c.limit })

/-- Registers of the function engine and of contexts written (R220, R268, R269). -/
def State.writeFuncReg (s : State) (n : Nat) (v : Word) : Res State :=
  let m := s.misc
  match n with
  | 0x0C0 => .ok (s.setMisc { m with ftol := storeTol v })
  | 0x0C1 => .ok (s.setMisc { m with fmaxlen := storeMaxlen v })
  | 0x0C2 => .ok (s.setMisc { m with fpolicy := v.getLsbD 0 })
  | 0x0C3 => .ok (s.setRoll { s.roll with ftrc := v.setWidth 2 })
  | 0x0C4 => .ok (s.setRoll { s.roll with food := v.setWidth 48 })
  | 0x0C5 => .ok ((s.setMisc { m with rootStart := v.setWidth 4 }).setRoll { s.roll with rootOvf := v.getLsbD 63 })
  | 0x100 => s.writeCdepth v
  | 0x101 => s.writeCtxrec v
  | 0x102 => .ok (s.setCtx { s.cell.ctx with ctoken := v })
  | 0x104 => s.writeCkslot v
  | _ => .ok s

/-- Registers of power written (R314). -/
def State.writePowerReg (s : State) (n : Nat) (v : Word) : State :=
  match n with
  | 0x141 => s.writeEsat v
  | 0x143 => s.onDie fun d => { d with pinwait := v.setWidth 24 }
  | 0x144 => s.onPower fun p => { p with rlimus := storeLimit v }
  | 0x145 => s.onPower fun p => { p with rlimms := storeLimit v }
  | 0x146 => s.onPower fun p => { p with rlims := storeLimit v }
  | 0x147 => s.onPower fun p => { p with eweight := p.eweight.set 0 v }
  | 0x148 => s.onPower fun p => { p with eweight := p.eweight.set 1 v }
  | 0x149 => s.onPower fun p => { p with eweight := p.eweight.set 2 v }
  | 0x14A => s.onPower fun p => { p with eweight := p.eweight.set 3 v }
  | 0x14B => s.onPower fun p => { p with estatic := v.setWidth 24 }
  | 0x14C => s.writeEclaim v
  | 0x150 => s.onPower fun p => { p with hbmact := atLeast 1 (v.setWidth 16) }
  | _ => s

/-- Registers of scheduling and of observation written (R325, R350). -/
def State.writeSchedReg (s : State) (n : Nat) (v : Word) : Res State :=
  let m := s.misc
  match n with
  | 0x180 => .ok (s.writeSchedcmd s.dieId v)
  | 0x181 => .ok (s.onDie fun d => { d with slice := v.setWidth 24 })
  | 0x182 => .ok (s.onDie fun d => { d with agestep := atLeast 1 (v.setWidth 24) })
  | 0x183 => .ok (s.onDie fun d => { d with imgbase := v &&& ~~~ 0x1FFFFF#64 })
  | 0x184 => .ok (s.onDie fun d => { d with imgcount := v.setWidth 16 })
  | 0x1C1 => do
    require (v == 0 || inSpaces v [0, 8] 32) .shape 0x903
    .ok (s.setMisc { m with trcbase := v })
  | 0x1C2 => .ok (s.setMisc { m with trcauto := v.getLsbD 16, trcsize := v.setWidth 16 })
  | 0x1C4 => .ok (s.onDie fun d => { d with hackbase := v.setWidth 32 &&& ~~~ 4095#32 })
  | 0x1C5 => .ok (s.setMisc { m with qhsel := v.setWidth 11 })
  | 0x1C7 => .ok (s.setMisc { m with chridx := v.setWidth 10 })
  | _ => .ok s

/-- A register of the selected buffer slot written (R247): ignored where the slot is enabled. -/
def State.writeSlotReg (s : State) (f : PubSlot → PubSlot) : State :=
  let p := s.cell.slots[s.misc.pbsel]
  if p.en then s else s.setSlot s.misc.pbsel (f p)

/-- Registers of the tensor engines and the buffers written (R68, R79, R171, R180, R187, R212, R247). -/
def State.writeUnitReg (s : State) (n : Nat) (v : Word) : Res State :=
  let m := s.misc
  match n with
  | 0x200 => .ok (s.setRoll { s.roll with vsatn := v.setWidth 48 })
  | 0x201 => .ok (s.setRoll { s.roll with vnann := v.setWidth 48 })
  | 0x202 => .ok (s.setRoll { s.roll with msatn := v.setWidth 48 })
  | 0x208 => .ok (s.setRoll { s.roll with rndctr := v })
  | 0x209 => .ok (s.setCore { s.core with rndkey0 := v })
  | 0x20A => .ok (s.setCore { s.core with rndkey1 := v })
  | 0x218 => .ok (s.setMisc { m with cprogValid := v.getLsbD 63, cprogP := v.setWidth 32 })
  | 0x220 => .ok (s.setMisc { m with vctl := v.getLsbD 0 })
  | 0x221 => .ok (s.setMisc { m with smtheta := v.setWidth 32 })
  | 0x222 => .ok (s.setMisc { m with smtag := v.extractLsb' 24 40 })
  | 0x228 => .ok (s.setMisc { m with mctl := v.setWidth 2 })
  | 0x238 => .ok (s.setMisc { m with pbsel := Fin.ofNat 8 v.toNat })
  | 0x239 => .ok (s.writeSlotReg fun p => { p with b0 := v })
  | 0x23A => .ok (s.writeSlotReg fun p => { p with b1 := v })
  | 0x23B => s.writePblen v
  | 0x23C => .ok (s.writeSlotReg fun p => { p with ver := v })
  | _ => .ok s

/-- A write of a system register (R115): the checks of privilege, then its effect. -/
def State.writeReg (s : State) (r : BitVec 12) (v : Word) : Res State := do
  let n := r.toNat
  require (!readOnly n && (s.supv || !privilegedWrite n)) .privilege 2
  if n < 0x080 then .ok (s.writeCellReg n v)
  else if n == 0x08A then s.writeCellctl s.dieId v
  else if n == 0x08B then s.writeTlbinv v
  else if n < 0x0C0 then .ok (s.writeTrapReg n v)
  else if n < 0x140 then s.writeFuncReg n v
  else if n < 0x180 then .ok (s.writePowerReg n v)
  else if n < 0x200 then s.writeSchedReg n v
  else s.writeUnitReg n v

/-- swr (R115). -/
def execSwr (t : Tok) (a : Src) (r : BitVec 12) (s : State) : Host.Outcome State Fault Refusal :=
  s.issue .A t 0 (Src.uses a) fun s => do
    let (v, s) ← s.src a
    s.writeReg r v

/-! ## Random values (R79, R119) -/

/-- One round of rndgen. -/
def rndRound (z k0 k1 : Word) : Word :=
  let z := z + k0
  let z := z ^^^ (z >>> 30)
  let z := z * 0xA36B5C1F0E9547D3
  let z := z ^^^ (z >>> 27)
  let z := z * 0xC7E291A83B4D6F25
  let z := z ^^^ (z >>> 31)
  z ^^^ k1

/-- The four rounds of rndgen: the first key half turns by 17 bits after each. -/
def rndgen (c k0 k1 : Word) : Nat → Word
  | 0 => c
  | n + 1 => rndgen (rndRound c k0 k1) (k0.rotateLeft 17) k1 n

/-- rnd (R119). -/
def execRnd (t : Tok) (d : Dst) (s : State) : Host.Outcome State Fault Refusal :=
  s.issue .A t 0 (Dst.uses d) fun s => do
    let c := s.roll.rndctr
    let s := s.setRoll { s.roll with rndctr := c + 1 }
    s.dst d (rndgen c s.core.rndkey0 s.core.rndkey1 4)

/-! ## trap and eret (R116, R117, R286) -/

/-- trap (R116): the word retires, and the handler is entered with the code. -/
def execTrap (t : Tok) (code : BitVec 18) (s : State) : Host.Outcome State Fault Refusal :=
  s.settleIssue .A do
    let (_, s) ← s.takeTokens .A t
    let pc := (s.path .A).pc
    .ok ((s.retire .A t 0).takeFaultAt .A { kind := .software, code := code.setWidth 32 } (some pc))

/-- A path set aside at trap entry, at its resume address (R286). -/
def Path.resumeAt (p : Path) (pc : Word) : Path := { p with pc := pc, halted := false }

/-- RETURNING FROM AN EXCEPTION (R117, R286): the set-aside paths are restored at the EPC registers, and ACT is cleared. -/
def State.leaveTrap (s : State) (p : Five Path) : State :=
  let e := s.cell.traps.epc
  let s := s.onTraps fun t => { t with cause := t.cause &&& 0x7FFFFFFFFFFFFFFF, aside := none }
  let s := s.setRoll { s.roll with
    paths := ⟨p.a.resumeAt e.a, p.c.resumeAt e.c, p.m.resumeAt e.m, p.v.resumeAt e.v, p.f.resumeAt e.f⟩ }
  s.clearStalls

/-- eret (R117). -/
def execEret (t : Tok) (s : State) : Host.Outcome State Fault Refusal :=
  s.settleIssue .A do
    let (_, s) ← s.takeTokens .A t
    match s.cell.traps.active, s.cell.traps.aside with
    | true, some p => .ok ((s.retire .A t 0).leaveTrap p)
    | _, _ => raise .privilege 3

/-! ## trc (R352) -/

/-- A trace record of A is stored, or dropped where its write would fault. -/
def State.traceA (s : State) (v : Word) : Res State :=
  match s.traceAddr with
  | none => .ok s
  | some p =>
    match s.access p 32 .store with
    | .error _ => .ok (s.setMisc { s.misc with trclost := s.misc.trclost + 1 })
    | .ok (x, s) => do
      s.undrained x
      s.aRoom
      let s ← liftFlt (s.loadsBefore x 32)
      let r := traceRecord (s.run .A).beat 1 .A s.cell.ident.cellno s.domain (s.path .A).pc v
      let s := s.addStore .A p x (leBytes 32 r.toNat)
      .ok (s.setMisc { s.misc with trcpos := s.misc.trcpos + 1 })

/-- trc (R352). -/
def execTrc (t : Tok) (a : Src) (s : State) : Host.Outcome State Fault Refusal :=
  s.issue .A t 0 (Src.uses a) fun s => do
    let (v, s) ← s.src a
    (s.send .A).traceA v

end Sys2Proof.Machine
end

