-- ==== Sys2Proof/Machine/Hack.lean ====
section
/-! DEFINITION. The hack stop (R355-R357). -/

namespace Sys2Proof.Machine

/-! ## Requests -/

/-- The target core of a request. -/
def hackTarget (w : Word) : Option CoreId := coreAt (if w.getLsbD 40 then 1 else 0) (w.toNat / 2 ^ 32 % 256)

/-- The checks of a hack's request, in their order (R355). -/
def State.hackOk (s : State) (w : Word) : Res Unit := do
  require s.supv .privilege 6
  require (w.extractLsb' 41 19 == 0 && w.extractLsb' 3 29 == 0 && 1 ≤ hackAction w && hackAction w ≤ 3
    && (w.extractLsb' 0 3).toNat ≤ 4) .shape 0x900
  require (hackTarget w != some s.cur.core) .shape 0x901
  require ((s.die (if w.getLsbD 40 then 1 else 0)).hackbase != 0) .shape 0x902

/-! ## The stop (R356) -/

/-- An entry of the dump for an operation in flight. -/
def flightEntry (e : Eng) (rem : W32) (pc : Word) : BitVec 256 := BitVec.ofNat 3 e.code ++ 0#29 ++ rem ++ pc ++ 0#128

/-- The stores of a cell that are not performed at every scope, one entry for each of its engines' words. -/
def State.storesList (s : State) : List (Eng × Word × Bool) :=
  let mine := s.stores.filter fun p => p.serial == s.cell.ident.serial
  (mine.foldl (fun (acc : List (Eng × Nat × Word)) p =>
    if acc.any fun x => x.1 == p.eng && x.2.1 == p.seq then acc else acc ++ [(p.eng, p.seq, p.pc)]) []).map
    fun x => (x.1, x.2.2, true)

/-- The peer stores of a cell that are performed here and not acknowledged (R335, R356). -/
def State.unackedList (s : State) : List (Eng × Word × Bool) :=
  let mine := s.peerStores.filter fun w => w.serial == s.cell.ident.serial && !s.stores.any w.made
  mine.map fun w => (w.eng, w.pc, true)

/-- The commands of a cell on every queue and in the spill rings, and its segment copies (R356). -/
def State.issuedList (s : State) : List (Eng × Word × Bool) :=
  let cmds := (s.cores.toList.flatMap fun c => c.cq.toList.flatMap fun q => q.entries)
    ++ s.dies.toList.flatMap fun d => d.spilled.map (·.cmd)
  (cmds.filter (·.owner == s.cell.ident.serial)).map (fun c => (.A, c.pc, true))
    ++ (s.segs.filter (·.owner == s.cell.ident.serial)).map fun g => (.A, g.pc, true)

/-- The operations in flight of a cell (R356): its engine, its word, and whether it is work outside the core. -/
def State.flightList (s : State) : List (Eng × Word × Bool) :=
  let f := s.flight
  let out : List (Eng × Word × Bool) :=
    f.loads.map (fun l => (.A, l.pc, true)) ++ s.storesList ++ s.unackedList ++ s.issuedList
  let inside : List (Eng × Word × Bool) := f.cops.map (fun o => (.C, o.path.pc, false))
    ++ (s.roll.win.toList.flatMap fun w => w.owed.map fun g => (.C, g.pc, true))
    ++ f.mcmd.toList.map (fun c => (.M, c.pc, false)) ++ f.nest.toList.map (fun n => (.M, n.pc, false))
    ++ f.fop.toList.map (fun o => (.F, o.path.pc, false))
  (out ++ inside).take 116

/-- The entries of a dump: the cycles left of work inside the core are free values. -/
def State.flightEntries (s : State) : List (Eng × Word × Bool) → List Byte × State
  | [] => ([], s)
  | (e, pc, outside) :: rest =>
    let (v, s) := s.draw
    let rem : W32 := if outside then 0xFFFFFFFF else v.setWidth 32
    let (bs, s) := s.flightEntries rest
    (leBytes 32 (flightEntry e rem pc).toNat ++ bs, s)

/-- Five words as bytes. -/
def fiveBytes (x : Five Word) : List Byte :=
  leBytes 8 x.a.toNat ++ leBytes 8 x.c.toNat ++ leBytes 8 x.m.toNat ++ leBytes 8 x.v.toNat ++ leBytes 8 x.f.toNat

/-- The cell under the cursor written to its core's dump area (R356). -/
def State.writeDump (s : State) : State :=
  let c := s.cell
  let p := c.roll.paths
  let r := c.run
  let ops := s.flightList
  let head : Word := 1#8 ++ BitVec.ofNat 8 ops.length ++ c.ident.domain ++ c.ident.cellno
  let heads := [r.a.head, r.c.head, r.m.head, r.v.head, r.f.head, 0, 0, 0]
  let (entries, s) := s.flightEntries ops
  s.pokeHome .device (s.hackArea s.cur.core)
    (leBytes 8 head.toNat ++ fiveBytes ⟨p.a.pc, p.c.pc, p.m.pc, p.v.pc, p.f.pc⟩
      ++ fiveBytes ⟨r.a.beat.setWidth 64, r.c.beat.setWidth 64, r.m.beat.setWidth 64, r.v.beat.setWidth 64,
          r.f.beat.setWidth 64⟩
      ++ heads ++ List.replicate 32 0 ++ ((List.finRange 32).flatMap fun i => leBytes 8 (s.x i).toNat) ++ entries)

/-- An engine's trace record of a stop or of a resume. -/
def State.traceAll (s : State) (type : Nat) : State :=
  Eng.all.foldl (fun s e => s.autoTrace type e (s.path e).pc 0) s

/-- The cycles of the classes that stand are counted up to now. -/
def State.countHeads (s : State) : State :=
  let f (r : EngRun) : EngRun := r.toHead s.now r.head
  s.setCell { s.cell with run :=
    ⟨f s.cell.run.a, f s.cell.run.c, f s.cell.run.m, f s.cell.run.v, f s.cell.run.f⟩ }

/-- Every engine of the cell under the cursor freezes, and the cell is written to its dump area (R356): F's instruction is abandoned
(R240), an rslot withdraws its request (R315), and the cycles that a bar.wait with a timeout has waited have not counted (R257). -/
def State.freeze (s : State) : State :=
  let k := s.cur.core
  let s := (s.stopF.dropRslot.uncountWait).traceAll 6
  let s := (if s.cell.status == .running then s.countHeads else s).writeDump
  s.setCore { s.core with cell := { s.cell with frozen := true, frozenAt := s.now, frozenOn := k }, hackReq := none }

/-- No rollback, trap entry or context entry is in progress (R356). -/
def Cell.settled (c : Cell) : Bool :=
  match c.status with
  | .rolling _ => false
  | _ => c.raised.isNone

/-! ## The resume (R357) -/

/-- The clocks of a stall go on from where they stood; an await, a bar.wait and an rslot start again (R114, R257, R315). -/
def EngRun.shift (r : EngRun) (now delta : Nat) : EngRun :=
  { r with
    stall := (r.stall.filter fun st => st.why != .await && st.why != .barWait && st.why != .rslot).map fun st => { st with since := st.since + delta },
    headAt := now, stepped := false }

/-- A stopped cell resumes: x1-x31 are reloaded from the dump, and its clocks go on (R357). -/
def State.thaw (s : State) : State :=
  let delta := s.now - s.cell.frozenAt
  let bs := s.peek .device (s.hackArea s.cell.frozenOn + 0x80) 256
  let x : Vector Word 32 := Vector.ofFn fun i => if i = 0 then 0 else leWord ((bs.drop (8 * i.val)).take 8)
  let c := s.cell
  let f (r : EngRun) : EngRun := r.shift s.now delta
  let late (o : COp) : COp := { o with since := o.since + delta }
  let s := s.setCore { s.core with
    cell := { c with
      frozen := false, progress := c.progress + delta, roll := { c.roll with x := x },
      ident := { c.ident with since := c.ident.since + delta },
      flight := { c.flight with cops := c.flight.cops.map late },
      run := ⟨f c.run.a, f c.run.c, f c.run.m, f c.run.v, f c.run.f⟩ } }
  s.traceAll 7

/-! ## hack (R355) -/

/-- A request of a hack reaches its target: a stop and a step wait for their edge, a resume acts. -/
def State.hackAsk (s : State) (k : CoreId) (w : Word) : State :=
  let here := s.cur.core
  let t := s.on k
  let ask (t : State) : State := t.setCore { t.core with hackReq := some w }
  let t :=
    if t.cell.status == .idle then
      if hackAction w == 1 then t.markEmpty k else t
    else if t.dumping then t
    else
      match hackAction w, t.cell.frozen with
      | 1, false => ask t
      | 2, true => t.thaw
      | 3, true => ask t.thaw
      | _, _ => t
  t.on here

/-- The hack at which A stands has made its request. -/
def State.hackAsked (s : State) : Bool :=
  match (s.run .A).stall with
  | some st => st.why == .hack
  | none => false

/-- A hack that has not asked yet makes its request, once no other waits on the target. -/
def State.hackFirst (s : State) (t : Tok) (a : Src) : State :=
  let look : Res Word := do
    s.bindAll .A (Src.uses a)
    let (_, s) ← s.takeTokens .A t
    let (w, s) ← s.src a
    s.hackOk w
    .ok w
  match s.hackAsked, look with
  | false, .ok w =>
    match hackTarget w with
    | none => s
    | some k => if s.cores[k].hackReq.isSome then s else (s.hackAsk k w).stallAt .A .hack none
  | _, _ => s

/-- hack (R355): it waits until its action is performed. -/
def execHack (t : Tok) (a : Src) (s : State) : Host.Outcome State Fault Refusal :=
  let s := s.hackFirst t a
  let why : Why := if s.hackAsked then .hack else .unit
  s.issue .A t 0 (Src.uses a) fun s => do
    let (w, s) ← s.src a
    s.hackOk w
    match hackTarget w with
    | none => .ok s
    | some k => if s.cores[k].hackReq.isSome then .error (.wait why none) else .ok s

/-- HACK_STOP (R356). -/
def execHackStop (core : CoreId) (s : State) : Host.Outcome State Fault Refusal :=
  let t := s.on core
  match t.core.hackReq with
  | some w => .next (if hackAction w == 1 && t.cell.settled then t.freeze else s)
  | none => .next s

/-- HACK_STEP_STOP (R355). -/
def execHackStepStop (core : CoreId) (s : State) : Host.Outcome State Fault Refusal :=
  let t := s.on core
  match t.core.hackReq, Eng.ofCode ((t.core.hackReq.getD 0).toNat % 8) with
  | some w, some e => .next (if hackAction w == 3 && t.cell.settled && (t.run e).stepped then t.freeze else s)
  | _, _ => .next s

end Sys2Proof.Machine
end

