-- ==== Sys2Proof/Machine/Scalar.lean ====
section
/-! DEFINITION. Integer arithmetic of the A engine (R99-R104), rnd and nop (R118, R119). -/

namespace Sys2Proof.Machine

/-! ## The functions -/

/-- 1 or 0 (R100). -/
def flag (b : Bool) : Word := if b then 1 else 0

/-- A .s32 result: its low 32 bits sign-extended (R99). -/
def sext32 (v : W32) : Word := v.signExtend 64

/-- Bits 31:0. -/
def low32 (v : Word) : W32 := v.setWidth 32

/-- mulh (R100). -/
def fMulh (a b : Word) : Word := BitVec.ofInt 64 (a.toInt * b.toInt / 2 ^ 64)

/-- mulhn (R100). -/
def fMulhn (a b : Word) : Word := BitVec.ofNat 64 (a.toNat * b.toNat / 2 ^ 64)

/-- div (R101): truncated toward zero, -1 for a zero divisor; -2^63 by -1 wraps to -2^63. -/
def fDiv (a b : Word) : Word := if b = 0 then BitVec.allOnes 64 else BitVec.ofInt 64 (a.toInt.tdiv b.toInt)

/-- rem (R101): the sign of the dividend; the dividend for a zero divisor. -/
def fRem (a b : Word) : Word := if b = 0 then a else BitVec.ofInt 64 (a.toInt.tmod b.toInt)

/-- divn (R101). -/
def fDivn (a b : Word) : Word := if b = 0 then BitVec.allOnes 64 else BitVec.ofNat 64 (a.toNat / b.toNat)

/-- remn (R101). -/
def fRemn (a b : Word) : Word := if b = 0 then a else BitVec.ofNat 64 (a.toNat % b.toNat)

/-- The amount of an s64 shift (R102). -/
def shamt (b : Word) : Nat := b.toNat % 64

/-- The amount of an s32 shift (R102). -/
def shamt32 (b : Word) : Nat := b.toNat % 32

/-- shl (R102). -/
def fShl (a b : Word) : Word := a <<< shamt b

/-- shr (R102). -/
def fShr (a b : Word) : Word := a >>> shamt b

/-- sra (R102). -/
def fSra (a b : Word) : Word := a.sshiftRight (shamt b)

/-- Signed less-than. -/
def ltS (a b : Word) : Bool := a.toInt < b.toInt

/-- Natural less-than. -/
def ltN (a b : Word) : Bool := a.toNat < b.toNat

/-- Leading zero bits among the low n bits (R100). -/
def clzFrom (a : Word) : Nat → Nat
  | 0 => 0
  | n + 1 => if a.getLsbD n then 0 else 1 + clzFrom a n

/-- Trailing zero bits from bit i on, n bits left (R100). -/
def ctzFrom (a : Word) (i : Nat) : Nat → Nat
  | 0 => 0
  | n + 1 => if a.getLsbD i then 0 else 1 + ctzFrom a (i + 1) n

/-- One bits among the low n (R100). -/
def popcTo (a : Word) : Nat → Nat
  | 0 => 0
  | n + 1 => (if a.getLsbD n then 1 else 0) + popcTo a n

/-- bext (R103): bit i of the mask, with packed bit j next. -/
def bextFrom (a m : Word) (i j : Nat) : Nat → Nat
  | 0 => 0
  | n + 1 =>
    if m.getLsbD i then (if a.getLsbD i then 2 ^ j else 0) + bextFrom a m (i + 1) (j + 1) n
    else bextFrom a m (i + 1) j n

/-- bdep (R103). -/
def bdepFrom (a m : Word) (i j : Nat) : Nat → Nat
  | 0 => 0
  | n + 1 =>
    if m.getLsbD i then (if a.getLsbD j then 2 ^ i else 0) + bdepFrom a m (i + 1) (j + 1) n
    else bdepFrom a m (i + 1) j n

/-- Signed minimum, maximum; natural minimum, maximum (R100). -/
def fMin (a b : Word) : Word := if ltS b a then b else a
def fMax (a b : Word) : Word := if ltS a b then b else a
def fMinn (a b : Word) : Word := if ltN b a then b else a
def fMaxn (a b : Word) : Word := if ltN a b then b else a

/-- The .s32 functions (R99, R102). -/
def fAdd32 (a b : Word) : Word := sext32 (low32 a + low32 b)
def fSub32 (a b : Word) : Word := sext32 (low32 a - low32 b)
def fMul32 (a b : Word) : Word := sext32 (low32 a * low32 b)
def fShl32 (a b : Word) : Word := sext32 (low32 a <<< shamt32 b)
def fShr32 (a b : Word) : Word := sext32 (low32 a >>> shamt32 b)
def fSra32 (a b : Word) : Word := sext32 ((low32 a).sshiftRight (shamt32 b))

/-! ## The instructions -/

/-- add (R100). -/
def execAdd (t : Tok) (d : Dst) (a b : Src) (s : State) : Host.Outcome State Fault Refusal :=
  s.a3 0 t d a b fun u v => u + v

/-- sub (R100). -/
def execSub (t : Tok) (d : Dst) (a b : Src) (s : State) : Host.Outcome State Fault Refusal :=
  s.a3 0 t d a b fun u v => u - v

/-- mul (R100). -/
def execMul (t : Tok) (d : Dst) (a b : Src) (s : State) : Host.Outcome State Fault Refusal :=
  s.a3 1 t d a b fun u v => u * v

/-- mulh (R100). -/
def execMulh (t : Tok) (d : Dst) (a b : Src) (s : State) : Host.Outcome State Fault Refusal :=
  s.a3 1 t d a b fMulh

/-- mulhn (R100). -/
def execMulhn (t : Tok) (d : Dst) (a b : Src) (s : State) : Host.Outcome State Fault Refusal :=
  s.a3 1 t d a b fMulhn

/-- div (R101). -/
def execDiv (t : Tok) (d : Dst) (a b : Src) (s : State) : Host.Outcome State Fault Refusal :=
  s.a3 1 t d a b fDiv

/-- divn (R101). -/
def execDivn (t : Tok) (d : Dst) (a b : Src) (s : State) : Host.Outcome State Fault Refusal :=
  s.a3 1 t d a b fDivn

/-- rem (R101). -/
def execRem (t : Tok) (d : Dst) (a b : Src) (s : State) : Host.Outcome State Fault Refusal :=
  s.a3 1 t d a b fRem

/-- remn (R101). -/
def execRemn (t : Tok) (d : Dst) (a b : Src) (s : State) : Host.Outcome State Fault Refusal :=
  s.a3 1 t d a b fRemn

/-- and (R100). -/
def execAnd (t : Tok) (d : Dst) (a b : Src) (s : State) : Host.Outcome State Fault Refusal :=
  s.a3 0 t d a b fun u v => u &&& v

/-- or (R100). -/
def execOr (t : Tok) (d : Dst) (a b : Src) (s : State) : Host.Outcome State Fault Refusal :=
  s.a3 0 t d a b fun u v => u ||| v

/-- xor (R100). -/
def execXor (t : Tok) (d : Dst) (a b : Src) (s : State) : Host.Outcome State Fault Refusal :=
  s.a3 0 t d a b fun u v => u ^^^ v

/-- andn (R100). -/
def execAndn (t : Tok) (d : Dst) (a b : Src) (s : State) : Host.Outcome State Fault Refusal :=
  s.a3 0 t d a b fun u v => u &&& ~~~ v

/-- shl (R102). -/
def execShl (t : Tok) (d : Dst) (a b : Src) (s : State) : Host.Outcome State Fault Refusal :=
  s.a3 0 t d a b fShl

/-- shr (R102). -/
def execShr (t : Tok) (d : Dst) (a b : Src) (s : State) : Host.Outcome State Fault Refusal :=
  s.a3 0 t d a b fShr

/-- sra (R102). -/
def execSra (t : Tok) (d : Dst) (a b : Src) (s : State) : Host.Outcome State Fault Refusal :=
  s.a3 0 t d a b fSra

/-- min (R100). -/
def execMin (t : Tok) (d : Dst) (a b : Src) (s : State) : Host.Outcome State Fault Refusal :=
  s.a3 0 t d a b fMin

/-- max (R100). -/
def execMax (t : Tok) (d : Dst) (a b : Src) (s : State) : Host.Outcome State Fault Refusal :=
  s.a3 0 t d a b fMax

/-- minn (R100). -/
def execMinn (t : Tok) (d : Dst) (a b : Src) (s : State) : Host.Outcome State Fault Refusal :=
  s.a3 0 t d a b fMinn

/-- maxn (R100). -/
def execMaxn (t : Tok) (d : Dst) (a b : Src) (s : State) : Host.Outcome State Fault Refusal :=
  s.a3 0 t d a b fMaxn

/-- bext (R103). -/
def execBext (t : Tok) (d : Dst) (a b : Src) (s : State) : Host.Outcome State Fault Refusal :=
  s.a3 1 t d a b fun u v => BitVec.ofNat 64 (bextFrom u v 0 0 64)

/-- bdep (R103). -/
def execBdep (t : Tok) (d : Dst) (a b : Src) (s : State) : Host.Outcome State Fault Refusal :=
  s.a3 1 t d a b fun u v => BitVec.ofNat 64 (bdepFrom u v 0 0 64)

/-- slt (R100). -/
def execSlt (t : Tok) (d : Dst) (a b : Src) (s : State) : Host.Outcome State Fault Refusal :=
  s.a3 0 t d a b fun u v => flag (ltS u v)

/-- sltn (R100). -/
def execSltn (t : Tok) (d : Dst) (a b : Src) (s : State) : Host.Outcome State Fault Refusal :=
  s.a3 0 t d a b fun u v => flag (ltN u v)

/-- seq (R100). -/
def execSeq (t : Tok) (d : Dst) (a b : Src) (s : State) : Host.Outcome State Fault Refusal :=
  s.a3 0 t d a b fun u v => flag (u == v)

/-- add.s32 (R99). -/
def execAddS32 (t : Tok) (d : Dst) (a b : Src) (s : State) : Host.Outcome State Fault Refusal :=
  s.a3 0 t d a b fAdd32

/-- sub.s32 (R99). -/
def execSubS32 (t : Tok) (d : Dst) (a b : Src) (s : State) : Host.Outcome State Fault Refusal :=
  s.a3 0 t d a b fSub32

/-- mul.s32 (R99). -/
def execMulS32 (t : Tok) (d : Dst) (a b : Src) (s : State) : Host.Outcome State Fault Refusal :=
  s.a3 1 t d a b fMul32

/-- shl.s32 (R102). -/
def execShlS32 (t : Tok) (d : Dst) (a b : Src) (s : State) : Host.Outcome State Fault Refusal :=
  s.a3 0 t d a b fShl32

/-- shr.s32 (R102). -/
def execShrS32 (t : Tok) (d : Dst) (a b : Src) (s : State) : Host.Outcome State Fault Refusal :=
  s.a3 0 t d a b fShr32

/-- sra.s32 (R102). -/
def execSraS32 (t : Tok) (d : Dst) (a b : Src) (s : State) : Host.Outcome State Fault Refusal :=
  s.a3 0 t d a b fSra32

/-- clz (R100). -/
def execClz (t : Tok) (d : Dst) (a : Src) (s : State) : Host.Outcome State Fault Refusal :=
  s.a2 0 t d a fun u => BitVec.ofNat 64 (clzFrom u 64)

/-- ctz (R100). -/
def execCtz (t : Tok) (d : Dst) (a : Src) (s : State) : Host.Outcome State Fault Refusal :=
  s.a2 0 t d a fun u => BitVec.ofNat 64 (ctzFrom u 0 64)

/-- popc (R100). -/
def execPopc (t : Tok) (d : Dst) (a : Src) (s : State) : Host.Outcome State Fault Refusal :=
  s.a2 0 t d a fun u => BitVec.ofNat 64 (popcTo u 64)

/-- add with an immediate (R104). -/
def execAddImm (t : Tok) (d : Dst) (a : Src) (imm : Word) (s : State) : Host.Outcome State Fault Refusal :=
  s.a2 0 t d a fun u => (fun u v => u + v) u imm

/-- add.s32 with an immediate (R104). -/
def execAddS32Imm (t : Tok) (d : Dst) (a : Src) (imm : Word) (s : State) : Host.Outcome State Fault Refusal :=
  s.a2 0 t d a fun u => (fAdd32) u imm

/-- mul with an immediate (R104). -/
def execMulImm (t : Tok) (d : Dst) (a : Src) (imm : Word) (s : State) : Host.Outcome State Fault Refusal :=
  s.a2 1 t d a fun u => (fun u v => u * v) u imm

/-- and with an immediate (R104). -/
def execAndImm (t : Tok) (d : Dst) (a : Src) (imm : Word) (s : State) : Host.Outcome State Fault Refusal :=
  s.a2 0 t d a fun u => (fun u v => u &&& v) u imm

/-- or with an immediate (R104). -/
def execOrImm (t : Tok) (d : Dst) (a : Src) (imm : Word) (s : State) : Host.Outcome State Fault Refusal :=
  s.a2 0 t d a fun u => (fun u v => u ||| v) u imm

/-- xor with an immediate (R104). -/
def execXorImm (t : Tok) (d : Dst) (a : Src) (imm : Word) (s : State) : Host.Outcome State Fault Refusal :=
  s.a2 0 t d a fun u => (fun u v => u ^^^ v) u imm

/-- shl with an immediate (R104). -/
def execShlImm (t : Tok) (d : Dst) (a : Src) (imm : Word) (s : State) : Host.Outcome State Fault Refusal :=
  s.a2 0 t d a fun u => (fShl) u imm

/-- shr with an immediate (R104). -/
def execShrImm (t : Tok) (d : Dst) (a : Src) (imm : Word) (s : State) : Host.Outcome State Fault Refusal :=
  s.a2 0 t d a fun u => (fShr) u imm

/-- sra with an immediate (R104). -/
def execSraImm (t : Tok) (d : Dst) (a : Src) (imm : Word) (s : State) : Host.Outcome State Fault Refusal :=
  s.a2 0 t d a fun u => (fSra) u imm

/-- slt with an immediate (R104). -/
def execSltImm (t : Tok) (d : Dst) (a : Src) (imm : Word) (s : State) : Host.Outcome State Fault Refusal :=
  s.a2 0 t d a fun u => (fun u v => flag (ltS u v)) u imm

/-- sltn with an immediate (R104). -/
def execSltnImm (t : Tok) (d : Dst) (a : Src) (imm : Word) (s : State) : Host.Outcome State Fault Refusal :=
  s.a2 0 t d a fun u => (fun u v => flag (ltN u v)) u imm

/-- seq with an immediate (R104). -/
def execSeqImm (t : Tok) (d : Dst) (a : Src) (imm : Word) (s : State) : Host.Outcome State Fault Refusal :=
  s.a2 0 t d a fun u => (fun u v => flag (u == v)) u imm

/-- sel (R100): d is read last, then written (R28). -/
def execSel (t : Tok) (d : Dst) (a b : Src) (s : State) : Host.Outcome State Fault Refusal :=
  s.issue .A t 0 (Src.uses a ++ Src.uses b ++ Dst.usesRead d) fun s => do
    let (u, s) ← s.src a
    let (v, s) ← s.src b
    let (c, s) ← s.dstRead d
    s.dst d (if c = 0 then v else u)

/-- li (R104). -/
def execLi (t : Tok) (d : Dst) (imm : Word) (s : State) : Host.Outcome State Fault Refusal :=
  s.issue .A t 0 (Dst.uses d) fun s => s.dst d imm

/-- nop (R118). -/
def execNop (t : Tok) (s : State) : Host.Outcome State Fault Refusal :=
  s.issue .A t 0 [] fun s => .ok s

end Sys2Proof.Machine
end

