-- ==== Sys2Proof/Machine/Template.lean ====
section
/-! DEFINITION. Patch words: the operation that a template holds (R42-R47). -/

namespace Sys2Proof.Machine

/-- The meaning of an operation that a template can hold (R46, R52, R53), as its own word's; a template holds no other. A holding word
in a template of A holds A alone (log entry 24). -/
def heldOp (i : Instr) (e : Eng) (s : State) : Host.Outcome State Fault Refusal :=
  match i with
  | .add t d a b => execAdd t d a b s
  | .sub t d a b => execSub t d a b s
  | .mul t d a b => execMul t d a b s
  | .mulh t d a b => execMulh t d a b s
  | .mulhn t d a b => execMulhn t d a b s
  | .div t d a b => execDiv t d a b s
  | .divn t d a b => execDivn t d a b s
  | .rem t d a b => execRem t d a b s
  | .remn t d a b => execRemn t d a b s
  | .and t d a b => execAnd t d a b s
  | .or t d a b => execOr t d a b s
  | .xor t d a b => execXor t d a b s
  | .andn t d a b => execAndn t d a b s
  | .shl t d a b => execShl t d a b s
  | .shr t d a b => execShr t d a b s
  | .sra t d a b => execSra t d a b s
  | .min t d a b => execMin t d a b s
  | .max t d a b => execMax t d a b s
  | .minn t d a b => execMinn t d a b s
  | .maxn t d a b => execMaxn t d a b s
  | .clz t d a => execClz t d a s
  | .ctz t d a => execCtz t d a s
  | .popc t d a => execPopc t d a s
  | .bext t d a b => execBext t d a b s
  | .bdep t d a b => execBdep t d a b s
  | .slt t d a b => execSlt t d a b s
  | .sltn t d a b => execSltn t d a b s
  | .seq t d a b => execSeq t d a b s
  | .sel t d a b => execSel t d a b s
  | .addS32 t d a b => execAddS32 t d a b s
  | .subS32 t d a b => execSubS32 t d a b s
  | .mulS32 t d a b => execMulS32 t d a b s
  | .shlS32 t d a b => execShlS32 t d a b s
  | .shrS32 t d a b => execShrS32 t d a b s
  | .sraS32 t d a b => execSraS32 t d a b s
  | .rslot t d a => execRslot t d a s
  | .hack t a => execHack t a s
  | .trc t a => execTrc t a s
  | .addImm t d a imm => execAddImm t d a imm s
  | .addS32Imm t d a imm => execAddS32Imm t d a imm s
  | .mulImm t d a imm => execMulImm t d a imm s
  | .andImm t d a imm => execAndImm t d a imm s
  | .orImm t d a imm => execOrImm t d a imm s
  | .xorImm t d a imm => execXorImm t d a imm s
  | .shlImm t d a imm => execShlImm t d a imm s
  | .shrImm t d a imm => execShrImm t d a imm s
  | .sraImm t d a imm => execSraImm t d a imm s
  | .sltImm t d a imm => execSltImm t d a imm s
  | .sltnImm t d a imm => execSltnImm t d a imm s
  | .seqImm t d a imm => execSeqImm t d a imm s
  | .li t d imm => execLi t d imm s
  | .nop t => execNop t s
  | .halt t => execHalt t s
  | .trap t code => execTrap t code s
  | .eret t => execEret t s
  | .ltrig t => execLtrig t s
  | .lcmt t => execLcmt t s
  | .rply t => execRply t s
  | .mark t scope => execMark t scope s
  | .rnd t d => execRnd t d s
  | .srd t d r => execSrd t d r s
  | .swr t a r => execSwr t a r s
  | .tset t n a e => execTset t n a e s
  | .ldN8 t d base imm => execLdN8 t d base imm s
  | .ldN16 t d base imm => execLdN16 t d base imm s
  | .ldN32 t d base imm => execLdN32 t d base imm s
  | .ldN64 t d base imm => execLdN64 t d base imm s
  | .ldS8 t d base imm => execLdS8 t d base imm s
  | .ldS16 t d base imm => execLdS16 t d base imm s
  | .ldS32 t d base imm => execLdS32 t d base imm s
  | .stN8 t src base imm => execStN8 t src base imm s
  | .stN16 t src base imm => execStN16 t src base imm s
  | .stN32 t src base imm => execStN32 t src base imm s
  | .stN64 t src base imm => execStN64 t src base imm s
  | .ldqN8 t q base imm => execLdqN8 t q base imm s
  | .ldqN16 t q base imm => execLdqN16 t q base imm s
  | .ldqN32 t q base imm => execLdqN32 t q base imm s
  | .ldqN64 t q base imm => execLdqN64 t q base imm s
  | .ldqS8 t q base imm => execLdqS8 t q base imm s
  | .ldqS16 t q base imm => execLdqS16 t q base imm s
  | .ldqS32 t q base imm => execLdqS32 t q base imm s
  | .amoAdd t d a b => execAmoAdd t d a b s
  | .amoMin t d a b => execAmoMin t d a b s
  | .amoMax t d a b => execAmoMax t d a b s
  | .amoAnd t d a b => execAmoAnd t d a b s
  | .amoOr t d a b => execAmoOr t d a b s
  | .amoXor t d a b => execAmoXor t d a b s
  | .amoXchg t d a b => execAmoXchg t d a b s
  | .amoFaddF32 t d a b => execAmoFaddF32 t d a b s
  | .amoFmaxF32 t d a b => execAmoFmaxF32 t d a b s
  | .cas t d a b => execCas t d a b s
  | .await t d a b => execAwait t d a b s
  | .barInit t a b => execBarInit t a b s
  | .barArr t a => execBarArr t a s
  | .barAdd t a b => execBarAdd t a b s
  | .barWait t a => execBarWait t a s
  | .barTest t d a => execBarTest t d a s
  | .pub t a scope => execPub t a scope s
  | .push t a b => execPush t a b s
  | .renq t a b => execRenq t a b s
  | .qstat t d a => execQstat t d a s
  | .lnch t d a => execLnch t d a s
  | .fpush t a => execFpush t a s
  | .sgin t d a b => execSgin t d a b s
  | .sgout t d a b => execSgout t d a b s
  | .cCopy t o => execCCopy t o s
  | .cGath t f => execCGath t f s
  | .cScat t f => execCScat t f s
  | .cFill t o => execCFill t o s
  | .cConvF32 t o => execCConvF32 t o s
  | .cConvBf16 t o => execCConvBf16 t o s
  | .cConvF16 t o => execCConvF16 t o s
  | .cDrain t o => execCDrain t o s
  | .cDrainSel t f => execCDrainSel t f s
  | .cRsend t f => execCRsend t f s
  | .cRrecv t f => execCRrecv t f s
  | .mGo t body => execMGo t body s
  | .mMma t shape o => execMMma t shape o s
  | .mMmas t shape o => execMMmas t shape o s
  | .vLdN8 t d sel row => execVLdN8 t d sel row s
  | .vLdS8 t d sel row => execVLdS8 t d sel row s
  | .vLdN16 t d sel row => execVLdN16 t d sel row s
  | .vLdS16 t d sel row => execVLdS16 t d sel row s
  | .vLd t d sel row => execVLd t d sel row s
  | .vStN8 t d sel row => execVStN8 t d sel row s
  | .vStN16 t d sel row => execVStN16 t d sel row s
  | .vSt t d sel row => execVSt t d sel row s
  | .vLdx t d a q e => execVLdx t d a q e s
  | .vStx t d a q e => execVStx t d a q e s
  | .vAdd t d a b m => execVAdd t d a b m s
  | .vSub t d a b m => execVSub t d a b m s
  | .vMul t d a b m => execVMul t d a b m s
  | .vFma t d a b m => execVFma t d a b m s
  | .vMin t d a b m => execVMin t d a b m s
  | .vMax t d a b m => execVMax t d a b m s
  | .vAbs t d a m => execVAbs t d a m s
  | .vNeg t d a m => execVNeg t d a m s
  | .vAnd t d a b m => execVAnd t d a b m s
  | .vOr t d a b m => execVOr t d a b m s
  | .vXor t d a b m => execVXor t d a b m s
  | .vShl t d a b m => execVShl t d a b m s
  | .vShr t d a b m => execVShr t d a b m s
  | .vSel t d a b m => execVSel t d a b m s
  | .vExp2 t d a m => execVExp2 t d a m s
  | .vLog2 t d a m => execVLog2 t d a m s
  | .vRcp t d a m => execVRcp t d a m s
  | .vRsq t d a m => execVRsq t d a m s
  | .vCmpEq t d a b m => execVCmpEq t d a b m s
  | .vCmpNe t d a b m => execVCmpNe t d a b m s
  | .vCmpLt t d a b m => execVCmpLt t d a b m s
  | .vCmpLe t d a b m => execVCmpLe t d a b m s
  | .vRotr t d a q m => execVRotr t d a q m s
  | .vRotc t d a q m => execVRotc t d a q m s
  | .vBcr t d a q m => execVBcr t d a q m s
  | .vBcc t d a q m => execVBcc t d a q m s
  | .vScanr t d a m => execVScanr t d a m s
  | .vIota t d m => execVIota t d m s
  | .vSplat t d q m => execVSplat t d q m s
  | .vRedrAdd t d a m => execVRedrAdd t d a m s
  | .vRedrMax t d a m => execVRedrMax t d a m s
  | .vRedrMin t d a m => execVRedrMin t d a m s
  | .vRedcAdd t d a m => execVRedcAdd t d a m s
  | .vRedcMax t d a m => execVRedcMax t d a m s
  | .vRedcMin t d a m => execVRedcMin t d a m s
  | .vPack t d a m => execVPack t d a m s
  | .vUnpack t d a m => execVUnpack t d a m s
  | .vPart t d a q m => execVPart t d a q m s
  | .vSmass t d a b => execVSmass t d a b s
  | .vStub t d a q m => execVStub t d a q m s
  | .vCvt t d a dty sty rnd sat => execVCvt t d a dty sty rnd sat s
  | .fLd t d q => execFLd t d q s
  | .fSt t d q => execFSt t d q s
  | .fMov t d a => execFMov t d a s
  | .fConst t d q => execFConst t d q s
  | .fFit t d a q => execFFit t d a q s
  | .fLen t a q => execFLen t a q s
  | .fDomRestrict t d a q => execFDomRestrict t d a q s
  | .fDomRescale t d a q => execFDomRescale t d a q s
  | .fTrunc t d a q => execFTrunc t d a q s
  | .fAdd t d a b => execFAdd t d a b s
  | .fSub t d a b => execFSub t d a b s
  | .fMul t d a b => execFMul t d a b s
  | .fScal t d a q => execFScal t d a q s
  | .fComp t d a b => execFComp t d a b s
  | .fInt t d a => execFInt t d a s
  | .fDer t d a => execFDer t d a s
  | .fEval t d a b => execFEval t d a b s
  | .fRoot t a q => execFRoot t a q s
  | .fExt t a q => execFExt t a q s
  | _ => .next (s.fault e (Flt.mk' .illegal 0))

/-- The operation that a patch word issues, with the old and the amended image (R45). -/
def State.patched (s : State) (e : Eng) (n : BitVec 6) (fsel : BitVec 4) (value : BitVec 74) :
    Option (Instr × BitVec 256 × BitVec 256) := do
  let old ← s.template e n
  if (decodeImage e old).isOk then
    let new ← amended e old fsel value
    match decodeImage e new with
    | .ok i => some (i, old, new)
    | .error _ => none
  else none

/-- The patch word (R45, R47): it waits for earlier tset words of its template, amends the template and issues the operation
that the template then holds. An operation that does not issue leaves the template as it was (R21). -/
def execPatchWord (e : Eng) (n : BitVec 6) (fsel : BitVec 4) (value : BitVec 74) (s : State) :
    Host.Outcome State Fault Refusal :=
  if s.tsetAhead e n then .next (s.stallAt e .template none)
  else
    match s.patched e n fsel value with
    | none => .next (s.fault e (Flt.mk' .illegal 0))
    | some (i, old, new) =>
      if fsel = 0 then heldOp i e s
      else
        let s := s.setTemplate e n new
        heldOp i e { s with cur := { s.cur with undo := some (n, old) } }

end Sys2Proof.Machine
end

