-- ==== Sys2Proof/Machine/Waits.lean ====
section
/-! DEFINITION. What ends a wait (R96, R110, R114, R123, R132, R198, R199, R257, R315, R360), the entry of an engine-precise
fault (R283), the events of the supervisor's ring (R288), detected errors (R294), and the accesses that become performed
(R244). -/

namespace Sys2Proof.Machine

/-! ## Stalls that reach their limit -/

/-- What a stalled engine waits for is still so. -/
def State.blocked (s : State) (w : Why) : Bool :=
  match w with
  | .qEmpty q => s.roll.q[q].isEmpty
  | .qFull q => 4 ≤ s.roll.q[q].length
  | .fmtFull => 16 ≤ s.roll.fmtq.length
  | .fmtEmpty => s.roll.fmtq.isEmpty
  | .quota n _ =>
    match s.queueNamed (n.setWidth 64) with
    | none => false
    | some (k, q) => s.atQuota k q
  | .staging => 64 ≤ s.roll.staging.length
  | _ => false

/-- An engine stalled to its limit on something takes the fault that ends the stall. -/
def State.expire (s : State) (core : CoreId) (e : Eng) (sel : Why → Bool) : State :=
  let t := s.on core
  match (t.run e).stall with
  | some { why := w, since := t0, limit := some n } =>
    match w.timeout with
    | some f => if t.canWalk e && sel w && n ≤ t.now - t0 && t.blocked w then t.takeFault e f else s
    | none => s
  | _ => s

/-- F's last step has found its queue full for the limit, and it is full still (R123, R236). -/
def State.expireF (s : State) (core : CoreId) : Option State :=
  let t := s.on core
  match t.flight.fop with
  | some { step := .push q vals _ _, full := some (t0, some n), .. } =>
    if t.working && t.mayRaise .F && n ≤ t.now - t0 && 4 < t.roll.q[q].length + vals.length then some (t.takeFault .F (Flt.mk' .overflow q.val)) else none
  | _ => none

/-- QUEUE_OVERFLOW (R123, R236). -/
def execQueueOverflow (core : CoreId) (e : Eng) (s : State) : Host.Outcome State Fault Refusal :=
  let isFull (w : Why) : Bool := match w with
    | .qFull _ => true
    | _ => false
  match e, s.expireF core with
  | .F, some t => .next t
  | _, _ => .next (s.expire core e isFull)

/-- QUEUE_UNDERFLOW (R123). -/
def execQueueUnderflow (core : CoreId) (e : Eng) (s : State) : Host.Outcome State Fault Refusal :=
  .next (s.expire core e fun w => match w with
    | .qEmpty _ => true
    | _ => false)

/-- FORMAT_QUEUE_OVERFLOW (R198). -/
def execFormatQueueOverflow (core : CoreId) (s : State) : Host.Outcome State Fault Refusal :=
  .next (s.expire core .A (· == .fmtFull))

/-- FORMAT_UNDERFLOW (R199). -/
def execFormatUnderflow (core : CoreId) (s : State) : Host.Outcome State Fault Refusal :=
  .next (s.expire core .M (· == .fmtEmpty))

/-- QUOTA_TIMEOUT (R132). -/
def execQuotaTimeout (core : CoreId) (s : State) : Host.Outcome State Fault Refusal :=
  .next (s.expire core .A fun w => match w with
    | .quota .. => true
    | _ => false)

/-- MAILBOX_STAGING_OVERFLOW (R360). -/
def execMailboxStagingOverflow (core : CoreId) (s : State) : Host.Outcome State Fault Refusal :=
  .next (s.expire core .C (· == .staging))

/-! ## Waits of A that are tried again -/

/-- The waits of A that end by themselves: await, bar.wait and rslot, or a patch word that holds one. -/
def retry (i : Instr) (s : State) : Host.Outcome State Fault Refusal :=
  match i with
  | .await t d a b => execAwait t d a b s
  | .barWait t a => execBarWait t a s
  | .rslot t d a => execRslot t d a s
  | .patchWord e n f v => execPatchWord e n f v s
  | _ => .next s

/-- A reads again what it waits for. -/
def State.again (s : State) (core : CoreId) (why : Why) : Host.Outcome State Fault Refusal :=
  match ((s.on core).run .A).stall with
  | some st =>
    if st.why == why then
      match s.find core .A false with
      | .act i t => retry i t
      | .done _ => .next s
    else .next s
  | none => .next s

/-- AWAIT_WAKE (R114). -/
def execAwaitWake (core : CoreId) (s : State) : Host.Outcome State Fault Refusal := s.again core .await

/-- AWAIT_TIMEOUT (R114). -/
def execAwaitTimeout (core : CoreId) (s : State) : Host.Outcome State Fault Refusal := s.again core .await

/-- BARRIER_TIMEOUT (R257). -/
def execBarrierTimeout (core : CoreId) (s : State) : Host.Outcome State Fault Refusal := s.again core .barWait

/-- RSLOT_WAIT_EXPIRY (R315). -/
def execRslotWaitExpiry (core : CoreId) (s : State) : Host.Outcome State Fault Refusal := s.again core .rslot

/-! ## The watchdog (R96) -/

/-- The operation at which A stands, a template's included. -/
def State.standsAt (s : State) (core : CoreId) : Option (Instr × State) :=
  match s.find core .A false with
  | .done _ => none
  | .act (.patchWord e n f v) t => (t.patched e n f v).map fun p => (p.1, t)
  | .act i t => some (i, t)

/-- The TIMEOUT of the object of the bar.wait at which A stands is not 0 (R257). -/
def State.timedWait (s : State) (core : CoreId) : Bool :=
  match s.standsAt core with
  | some (.barWait t a, u) =>
    let look : Res Bool := do
      let (_, u) ← u.takeTokens .A t
      let (p, u) ← u.src a
      let (x, u) ← u.reach p 32 .barrier
      .ok ((u.barObj (u.obs .A p) (u.land u.me x)).timeout != 0)
    match look with
    | .ok b => b
    | .error _ => false
  | _ => false

/-- The watchdog does not count: the throttle holds the cell's engines, or A waits in await, in a bar.wait with a timeout, or for room
for what its commit releases (R114, R257, R307, R361). -/
def State.unwatched (s : State) (core : CoreId) : Bool :=
  let t := s.on core
  (t.gov.hold && t.core.throttleable) || match (t.run .A).stall with
    | some { why := .await, .. } => true
    | some { why := .barWait, .. } => s.timedWait core
    | some { why := .room _, .. } => true
    | _ => false

/-- The deadlock fault of a cell: the head class of each engine (R290, R353). -/
def State.deadlockFlt (s : State) : Flt :=
  let r := s.cell.run
  { kind := .deadlock, code := 0, info := 0#24 ++ r.f.head ++ r.v.head ++ r.m.head ++ r.c.head ++ r.a.head,
    info2 := 0x1000000 }

/-- DEADLOCK (R96). -/
def execDeadlock (core : CoreId) (s : State) : Host.Outcome State Fault Refusal :=
  let t := s.on core
  .next (if t.working && t.mayRaise .A && 2 ^ 24 ≤ t.now - t.uncountWait.cell.progress && !s.unwatched core then
    t.takeFault .A t.deadlockFlt else s)

/-! ## Engine-precise faults (R283) -/

/-- What is in flight when a fault has been taken is complete, or stops at a unit boundary (R153, R210, R240): M's commands
complete; F's instruction goes on only under a lease fault, unless its queue has no room. -/
def State.stopReady (s : State) : Bool :=
  let f := s.flight
  f.mcmd.isNone && f.nest.isNone && match f.fop with
    | none => true
    | some { step := .push q vals _ _, .. } => 4 < s.roll.q[q].length + vals.length
    | some _ => false

/-- ENGINE_PRECISE_FAULT (R283, R286, R287): the entry of a fault that was taken, once its cycle is over (R284); the stop of a context fault
that was taken in a cycle with other moves waits for nothing else. -/
def execEnginePreciseFault (core : CoreId) (s : State) : Host.Outcome State Fault Refusal :=
  let t := s.on core
  match t.cell.raised with
  | none => .next s
  | some r =>
    .next (if !t.working || t.sameCycle then s
      else if r.flt.kind == .context then t.stopContext r
      else if t.stopReady then (t.abandonF.stopC).enterTrap r.flt r.eng r.pc
      else s)

/-! ## Supervisor events (R288) -/

/-- SUPERVISOR_EVENT_POST (R288, R338): the oldest waiting event is written where the ring has room, TAIL advances, and the
die's MSI-X vector is signalled. -/
def execSupervisorEventPost (die : DieId) (s : State) : Host.Outcome State Fault Refusal :=
  let d := s.die die
  match d.sevq with
  | [] => .next s
  | e :: rest =>
    let base := locShared d.sevBase.toNat
    let size := d.sevSize.toNat
    let tail := leNat (s.peek (.die die) base 8)
    let head := leNat (s.peek (.die die) (base + 8) 8)
    if size = 0 || (tail + 2 ^ 64 - head) % 2 ^ 64 == size then .next s
    else
      let s := s.pokeHome (.die die) (base + 128 * (1 + tail % size)) (recordBytes e.head ++ recordBytes e.record)
      let s := s.pokeHome (.die die) base (leBytes 8 (tail + 1))
      let s := s.setDie die { s.die die with sevq := rest }
      .next { s with aedty := { s.aedty with msix := s.aedty.msix ++ [die.val] } }

/-! ## Detected errors (R294) -/

/-- The datapath-check fault of an error that a unit's check detects: codes 1 to 4 (R290, R294). -/
def detectedFlt (e : Eng) (code : BitVec 32) (addr : Word) : Flt :=
  let unit := if code == 2 then 6 else if code == 4 then 5 else e.code
  let addr := if code == 2 then addr else 0
  { kind := .datapath, code := code, addr := addr, info := BitVec.ofNat 64 unit,
    watch := if code == 2 then some (addr.toNat / 8 * 8, 8) else none }

/-- DATAPATH_CHECK_FAULT (R273, R284, R294): it comes before the other faults of its cycle, a context fault included; one of code 2 leaves
its granule poisoned (R295). -/
def execDatapathCheckFault (core : CoreId) (e : Eng) (code : BitVec 32) (addr : Word) (s : State) :
    Host.Outcome State Fault Refusal :=
  let t := s.on core
  let u := if code == 2 then t.addPoison addr.toNat else t
  .next (if t.working && !t.excluded && 1 ≤ code.toNat && code.toNat ≤ 4 then u.takeLayer e (detectedFlt e code addr) else s)

/-! ## Accesses that become performed (R108, R110, R244) -/

/-- A cell's outstanding loads are performed, oldest first. -/
def State.deliver (s : State) (core : CoreId) (n : Nat) : State :=
  let t := s.on core
  if !(t.working && t.mayRaise .A) then s
  else
    match t.performLoads n with
    | .ok t => t
    | .error f => t.fault .A f

/-- LDQ_DATA_ARRIVAL (R110): the k-th outstanding load is an ldq; it and the loads before it are performed (R244). -/
def execLdqDataArrival (core : CoreId) (k : Nat) (s : State) : Host.Outcome State Fault Refusal :=
  match (s.on core).flight.loads[k]? with
  | some { dst := .slot _, .. } => .next (s.deliver core (k + 1))
  | _ => .next s

/-- ACCESS_PERFORMED (R244): the k-th pending store is performed at one scope more, one to a peer beyond device scope by its
acknowledgement only (R335); or a core's oldest load is performed, whose data is held where the cell is stopped (R356); or M reads an
operand granule of the unit to come (R203). -/
def execAccessPerformed (w : AccessWork) (s : State) : Host.Outcome State Fault Refusal :=
  match w with
  | .store k =>
    match s.stores[k]? with
    | none => .next s
    | some p => .next (if 3 ≤ p.level && s.peerStores.any (·.made p) then s else s.perform (fun q => q == p) (p.level + 1))
  | .load core =>
    let t := s.on core
    .next (if t.flight.loads.isEmpty then s else if t.cell.frozen then t.holdLoads else s.deliver core 1)
  | .operand core off =>
    let t := s.on core
    .next (if t.working && t.flight.mcmd.isSome then t.readEarly off else s)

/-! ## Writes of registers and of system space that the opcode table lists as steps -/

/-- A supervisor's write of a register with a value is performed: A stands at the swr that makes it (R115). -/
def State.registerWrite (s : State) (core : CoreId) (r : BitVec 12) (v : Word) (sel : Bool) :
    Host.Outcome State Fault Refusal :=
  match s.find core .A false with
  | .act (.swr t a r') u =>
    let value : Res Word := do
      let (_, u) ← u.takeTokens .A t
      let (w, _) ← u.src a
      .ok w
    match value with
    | .ok w => if sel && r' == r && w == v then execSwr t a r' u else .next s
    | .error _ => .next s
  | _ => .next s

/-- The value of an action field, bits 63:60. -/
def actionOf (v : Word) : Nat := v.toNat / 2 ^ 60

/-- CELLCTL_RESUME (R289). -/
def execCellctlResume (core : CoreId) (v : Word) (s : State) : Host.Outcome State Fault Refusal :=
  s.registerWrite core 0x08A v (actionOf v == 1)

/-- CELLCTL_ENTER_CONTEXT_HANDLER (R289). -/
def execCellctlEnterContextHandler (core : CoreId) (v : Word) (s : State) : Host.Outcome State Fault Refusal :=
  s.registerWrite core 0x08A v (actionOf v == 2)

/-- CELLCTL_RESUME_CHECKPOINT (R289). -/
def execCellctlResumeCheckpoint (core : CoreId) (v : Word) (s : State) : Host.Outcome State Fault Refusal :=
  s.registerWrite core 0x08A v (actionOf v == 3)

/-- CELLCTL_ENTER_TRAP (R289). -/
def execCellctlEnterTrap (core : CoreId) (v : Word) (s : State) : Host.Outcome State Fault Refusal :=
  s.registerWrite core 0x08A v (actionOf v == 4)

/-- CELLCTL_END_AND_DUMP (R289). -/
def execCellctlEndAndDump (core : CoreId) (v : Word) (s : State) : Host.Outcome State Fault Refusal :=
  s.registerWrite core 0x08A v (actionOf v == 5)

/-- CELLCTL_END (R289). -/
def execCellctlEnd (core : CoreId) (v : Word) (s : State) : Host.Outcome State Fault Refusal :=
  s.registerWrite core 0x08A v (actionOf v == 6)

/-- SCHEDCMD_PREEMPT_CELL (R325). -/
def execSchedcmdPreemptCell (core : CoreId) (v : Word) (s : State) : Host.Outcome State Fault Refusal :=
  s.registerWrite core 0x180 v (actionOf v == 1)

/-- SCHEDCMD_PREEMPT_DOMAIN (R325). -/
def execSchedcmdPreemptDomain (core : CoreId) (v : Word) (s : State) : Host.Outcome State Fault Refusal :=
  s.registerWrite core 0x180 v (actionOf v == 2)

/-- TLBINV (R293). -/
def execTlbinv (core : CoreId) (v : Word) (s : State) : Host.Outcome State Fault Refusal :=
  s.registerWrite core 0x08B v true

/-- ECLAIM (R314). -/
def execEclaim (core : CoreId) (v : Word) (s : State) : Host.Outcome State Fault Refusal :=
  s.registerWrite core 0x14C v true

/-- ESAT_CLEAR (R314). -/
def execEsatClear (core : CoreId) (v : Word) (s : State) : Host.Outcome State Fault Refusal :=
  s.registerWrite core 0x141 v (!v.getLsbD 0)

/-- CQCTL_RESUME (R140). -/
def execCqctlResume (core : CoreId) (v : Word) (s : State) : Host.Outcome State Fault Refusal :=
  s.registerWrite core 0x044 v (v.toNat / 2 ^ 10 % 4 == 1)

/-- CQCTL_DISCARD (R140). -/
def execCqctlDiscard (core : CoreId) (v : Word) (s : State) : Host.Outcome State Fault Refusal :=
  s.registerWrite core 0x044 v (v.toNat / 2 ^ 10 % 4 == 2)

/-- CTXREC_WRITE (R269). -/
def execCtxrecWrite (core : CoreId) (v : Word) (s : State) : Host.Outcome State Fault Refusal :=
  s.registerWrite core 0x101 v true

/-- CKSLOT_WRITE (R268). -/
def execCkslotWrite (core : CoreId) (v : Word) (s : State) : Host.Outcome State Fault Refusal :=
  s.registerWrite core 0x104 v true

/-- PBLEN_WRITE (R247). -/
def execPblenWrite (core : CoreId) (v : Word) (s : State) : Host.Outcome State Fault Refusal :=
  s.registerWrite core 0x23B v true

/-- A supervisor's 8-byte write of a word of system space with a value is performed: A stands at the st that makes it
(R108). -/
def State.systemWrite (s : State) (core : CoreId) (off : Nat) (v : Word) (sel : Bool) : Host.Outcome State Fault Refusal :=
  match s.find core .A false with
  | .act (.stN64 t src base imm) u =>
    let value : Res (Word × Word) := do
      let (_, u) ← u.takeTokens .A t
      let (b, u) ← u.src base
      let (w, _) ← u.src src
      .ok (memAddr b imm 8, w)
    match value with
    | .ok (p, w) =>
      if sel && p.toNat == 0xF000000000000000 + off && w == v then execStN64 t src base imm u else .next s
    | .error _ => .next s
  | _ => .next s

/-- CHRONOGRAPH_CONTROL_WRITE (R354). -/
def execChronographControlWrite (core : CoreId) (n : Fin 16) (v : Word) (s : State) : Host.Outcome State Fault Refusal :=
  s.systemWrite core (0x1300000 + 8 * n.val) v true

/-- TREE_DESCRIPTOR_WRITE (R341). -/
def execTreeDescriptorWrite (core : CoreId) (tree n : Fin 256) (v : Word) (s : State) :
    Host.Outcome State Fault Refusal :=
  s.systemWrite core (0x1000000 + 2048 * tree.val + 8 * n.val) v (n.val < 198)

/-- CHANNEL_RETIRE (R336). -/
def execChannelRetire (core : CoreId) (c : BitVec 12) (v : Word) (s : State) : Host.Outcome State Fault Refusal :=
  s.systemWrite core (0x1100000 + 8 * c.toNat) v (!v.getLsbD 63)

end Sys2Proof.Machine
end

