-- ==== Sys2Proof/Machine/Links.lean ====
section
/-! DEFINITION. What reaches the device over its Umarn ports and over CXL: peer stores and their acknowledgements, channel
drains, peer accesses, packets of reduction trees and their timeout, host accesses, and the ports themselves (R294, R326,
R328, R332-R344). -/

namespace Sys2Proof.Machine

/-! ## Peer stores and channels (R335, R336) -/

/-- Every port that carries traffic to a channel's device is quiesced, and there is one: its peer holds what is bound for
this device (R326, R344). -/
def State.channelHeld (s : State) (c : BitVec 12) : Bool :=
  let ps := s.ports.toList.filter fun p => p.up && p.peer.toNat == s.channelDev c
  !ps.isEmpty && ps.all (·.qsc)

/-- The device has booted and is not in retention (R326). -/
def State.serving (s : State) : Bool := s.aedty.phase == 2 && s.aedty.suspended != 2

/-- Two peer stores were written by one operation. -/
def PeerStore.sameOp (w v : PeerStore) : Bool :=
  v.core == w.core && v.serial == w.serial && v.eng == w.eng && v.seq == w.seq

/-- The bytes that wait for the k-th peer store leave their barrier with its acknowledgement, or pass to the nearest earlier write of
its operation that is unacknowledged (R153, R335). -/
def State.payCharge (s : State) (k : Nat) (w : PeerStore) : State :=
  if w.charge = 0 then s
  else if (s.peerStores.take k).any w.sameOp then
    { s with peerStores :=
        changeLast w.sameOp (fun v => { v with charge := v.charge + w.charge }) (s.peerStores.take k) ++ s.peerStores.drop k }
  else s.pendAdd w.who w.bar (-(w.charge : Int))

/-- An acknowledgement that reaches the cell that sent the write is a receipt of its engine (R351). -/
def State.ackReceipt (s : State) (w : PeerStore) : State :=
  if s.cores[w.core].cell.ident.serial == w.serial && s.cores[w.core].cell.status != .idle then
    (s.on w.core).receive w.eng ((s.on w.core).run w.eng).beat Known.none
  else s

/-- PEER_STORE_ACK (R335): the k-th unacknowledged write is performed at fabric scope. -/
def execPeerStoreAck (k : Nat) (s : State) : Host.Outcome State Fault Refusal :=
  match s.peerStores[k]? with
  | none => .next s
  | some w =>
    if s.channelHeld w.channel || s.aedty.suspended == 2 then .next s
    else
      let s := ((s.perform w.made 4).ackReceipt w).payCharge k w
      .next { s with peerStores := s.peerStores.eraseIdx k }

/-- A write that a drain drops may or may not be applied (R336): a free choice. -/
def State.mayApply (s : State) : Bool × State :=
  ((Config.freeWord s.freeCtr).getLsbD 0, { s with freeCtr := s.freeCtr + 1 })

/-- A dropped write, which its cell has to report. -/
def State.oweDropped (s : State) (w : PeerStore) : State :=
  s.mapCell w.serial fun c => { c with flight := { c.flight with dropped := c.flight.dropped ++ [w] } }

/-- A write that the drain drops: its pending stores may or may not be applied, and its cell owes the fault (R336). -/
def State.dropWrite (s : State) (w : PeerStore) : State :=
  let (applied, s) := s.mayApply
  let s : State := if applied then s.perform w.made 5 else { s with stores := s.stores.filter fun p => !w.made p }
  s.oweDropped w

/-- A load goes through a channel. -/
def Load.on (l : Load) (ch : BitVec 12) : Bool := peerChannel l.loc == some ch && l.got.isNone

/-- An access of a cell that its channel's drain leaves unanswered: its data is poisoned, and the write of an atomic, which may or may
not be applied, is dropped (R336). -/
def State.endLoad (s : State) (k : CoreId) (ch : BitVec 12) (l : Load) : State :=
  let t := s.on k
  let serial := t.cell.ident.serial
  let s := match l.rmw with
    | none => t
    | some r =>
      let (applied, t) := t.mayApply
      let t := match applied, t.rmwAt l.addr l.loc l.n r.result with
        | true, .ok (_, t) => t
        | _, _ => t
      t.oweDropped { channel := ch, core := k, serial := serial, eng := .A, seq := (t.run .A).issued, addr := l.addr, len := l.n,
                     bar := 0, charge := 0, who := none, pc := l.pc }
  s.segFault serial (poisonFlt l.addr 0 (s.land (some serial) l.loc) 0)

/-- A row that a cell's window has fetched through a draining channel since before the drain, and that has not arrived. -/
def State.lateRow (s : State) (k : CoreId) (ch : BitVec 12) : Option (Fin 8 × Nat) :=
  let t := s.on k
  if t.cell.status == .idle || s.draining.isEmpty then none
  else
    (List.finRange 8).findSome? fun w =>
      (t.roll.win[w].missing.find? fun i => t.rowOn w i fun c since issued => c == ch && issued < since).map fun i => (w, i)

/-- A cell has a read outstanding on a channel. -/
def State.readsOn (s : State) (k : CoreId) (ch : BitVec 12) : Bool :=
  s.cores[k].cell.flight.loads.any (·.on ch) || (s.lateRow k ch).isSome

/-- Reads unanswered when a drain ends return poisoned data (R295, R336): each cell takes the fault. -/
def State.poisonReads (s : State) (k : CoreId) (ch : BitVec 12) : State :=
  let ls := s.cores[k].cell.flight.loads
  let t := s.on k
  let row := s.lateRow k ch
  let t := if ls.any (·.on ch) then t.setFlight { t.flight with loads := ls.filter fun l => !l.on ch } else t
  let s := (ls.filter (·.on ch)).foldl (fun (s : State) l => s.endLoad k ch l) t
  match row with
  | none => s
  | some (w, i) =>
    let t := s.on k
    let addr := match t.roll.win[w].shape with
      | none => 0
      | some sh => sh.rowAddr i
    let at_ := (t.lookupPage k t.domain (addr.toNat % 2 ^ 57)).getD 0
    let f := poisonFlt addr 0 (t.land t.me at_) 1
    if t.working && !t.excluded then t.fault .C f else t.setCell { t.cell with owed := some f }

/-- CHANNEL_DRAIN_END (R336): no write or read is left on the channel, or 50 µs have passed. -/
def execChannelDrainEnd (c : BitVec 12) (s : State) : Host.Outcome State Fault Refusal :=
  match s.draining.find? fun d => d.1 == c with
  | none => .next s
  | some (_, since, v) =>
    let writes := s.peerStores.filter fun w => w.channel == c
    let readers := (List.finRange 392).filter fun k => s.readsOn k c
    if (!writes.isEmpty || !readers.isEmpty) && s.usSince since < 50 then .next s
    else
      let s := readers.foldl (fun (s : State) k => s.poisonReads k c) s
      let s : State := { s with
        draining := s.draining.filter fun d => d.1 != c, peerStores := s.peerStores.filter fun w => w.channel != c }
      let s := writes.foldl State.dropWrite s
      .next (s.sysPut 0 (0x1100000 + 8 * c.toNat) (v % 512))

/-! ## Accesses of peers (R335) -/

/-- Bytes of HBM4 that an agent outside the device writes: performed at device scope (R335, R340). -/
def State.outsideWrite (s : State) (x : Nat) (bs : List Byte) : State := s.writeAt .device none x bs

/-- An atomic of a peer at its granule's home (R111-R113, R335): uncorrectable data is left as it is. -/
def State.peerAtomic (s : State) (x n : Nat) (f : Nat → Option Nat) : State :=
  if x % n != 0 || (s.badAt .device none x n).isSome then s
  else
    let s := s.settle .device (s.land none x) n
    match f (leNat (s.readAt .device none x n)) with
    | none => s
    | some v => s.outsideWrite x (leBytes n v)

/-- PEER_ACCESS (R335): an access to this device's HBM4 is performed at its memory controller. -/
def execPeerAccess (a : PeerAccess) (s : State) : Host.Outcome State Fault Refusal :=
  let inside (addr : BitVec 39) (n : Nat) : Bool := s.serving && addr.toNat + n ≤ Config.hbmBytes
  match a with
  | .load _ _ => .next s
  | .store addr bs => .next (if inside addr bs.length then s.outsideWrite (locPhys addr.toNat) bs else s)
  | .amo op addr v =>
    let n := AmoOp.size op
    .next (if inside addr n then s.peerAtomic (locPhys addr.toNat) n fun old => some (AmoOp.result op old v) else s)
  | .cas addr e v =>
    .next (if inside addr 8 then
      s.peerAtomic (locPhys addr.toNat) 8 fun old => if old = e.toNat then some v.toNat else none else s)

/-! ## Reduction packets (R341, R342, R344) -/

/-- The die and the port code of an Umarn port (R334, R341). -/
def portCode (p : Fin 16) : DieId × Nat := (if p.val < 8 then 0 else 1, 0x1E0 + p.val % 8)

/-- The node of a tree that names a port as a child, and as which child. -/
def State.portNode (s : State) (p : Fin 16) (t : Fin 256) : Option (Nat × Nat) :=
  let (d, c) := portCode p
  (s.treeNodes t d).findSome? fun (i, e) =>
    if e.child1 == c then some (i, 1) else if e.child2 == c then some (i, 2) else none

/-- REDUCTION_INPUT_ARRIVAL (R341, R342): a packet reaches a node that has room for it. -/
def execReductionInputArrival (r : RedInput) (s : State) : Host.Outcome State Fault Refusal :=
  if s.aedty.suspended == 2 then .next s
  else
  match r with
  | .packet k =>
    match s.packets[k]? with
    | none => .next s
    | some p =>
      if !s.nodeRoom p.die p.tree p.site p.seq then .next s
      else
        let s : State := { s with packets := s.packets.eraseIdx k }
        .next (s.nodeInput p.die p.tree p.site p.child p.seq p.vals p.beat)
  | .port port t seq vals beat =>
    let d := (portCode port).1
    match s.portNode port t with
    | none => .next s
    | some (site, child) =>
      if s.ports[port].up && !s.ports[port].qsc && s.treeOk t d && vals.length == s.treeElems t d && s.nodeRoom d t site seq.toNat then
        .next (s.nodeInput d t site child seq.toNat vals beat)
      else .next s

/-- A port of the device is named in a tree (R344). -/
def State.portNamed (s : State) (t : Fin 256) (p : Fin 16) : Bool :=
  let (d, c) := portCode p
  (s.treeNodes t d).any fun x => x.2.child1 == c || x.2.child2 == c || x.2.parent == c

/-- A port named in a tree is quiesced (R344). -/
def State.treeQuiesced (s : State) (t : Fin 256) : Bool :=
  (List.finRange 16).any fun p => s.ports[p].qsc && s.portNamed t p

/-- REDUCTION_TIMEOUT (R344): the root's c.rrecv has waited TIMEOUT µs. -/
def execReductionTimeout (core : CoreId) (s : State) : Host.Outcome State Fault Refusal :=
  let u := s.on core
  match u.flight.cops with
  | [] => .next s
  | o :: _ =>
    let t : Fin 256 := Fin.ofNat 256 o.f.f5.toNat
    let limit := u.treeHeader u.dieId t 0 % 2 ^ 32
    if o.kind != .rrecv || !(u.working && u.mayRaise .C) || u.unitReady o || limit = 0
        || u.usSince o.since < limit || u.treeQuiesced t || !s.awake then .next s
    else
      let (n, u) := u.probe t u.dieId (siteOf core) o.f.f2.toNat
      .next (u.faultC (reductionFlt t o.f.f2.toNat n))

/-! ## The host over CXL (R332, R339, R340) -/

/-- HOST_WRITE (R340): a host write of host memory, of a line that an await holds included. -/
def execHostWrite (pa : BitVec 48) (bytes : List Byte) (s : State) : Host.Outcome State Fault Refusal :=
  .next (s.outsideWrite (locPhys (0x1000000000000 + pa.toNat)) (bytes.take (2 ^ 48 - pa.toNat)))

/-- The host window: its first byte and its size (R339). -/
def State.hostWindow (s : State) : Nat × Nat :=
  let w := s.entryAt (locSys 0 0x1200100)
  (w / 2 ^ 30 % 2 ^ 14 * 2 ^ 30, w / 2 ^ 44 * 2 ^ 30)

/-- HOST_MEM_ACCESS (R339, R340): a host access through CXL.mem, with the bytes of a write; one outside the window, and a
read, change nothing in the device. -/
def execHostMemAccess (addr : BitVec 48) (data : Option (List Byte)) (s : State) : Host.Outcome State Fault Refusal :=
  let (base, size) := s.hostWindow
  let a := addr.toNat
  match data with
  | none => .next s
  | some bs =>
    if s.serving && base ≤ a && a + bs.length ≤ Nat.min (base + size) Config.hbmBytes then
      .next (s.outsideWrite (locPhys a) bs)
    else .next s

/-! ## Ports (R294, R326, R328, R334) -/

/-- A port replaced. -/
def State.setPort (s : State) (p : Fin 16) (x : Port) : State := { s with ports := s.ports.set p x }

/-- PEER_QUIESCE (R326): the port answers and is quiesced. -/
def execPeerQuiesce (port : Fin 16) (s : State) : Host.Outcome State Fault Refusal :=
  let p := s.ports[port]
  .next (if p.up && !p.qsc && s.serving then s.setPort port { p with qsc := true, qscAt := s.now } else s)

/-- The time for which ports were quiesced is not counted in the wait of a c.rrecv of a tree that names them (R344): a port that reopens
leaves out its time up to the first quiesce of those still quiesced, which leave out the rest. -/
def State.shiftWaits (s : State) (port : Fin 16) : State :=
  let move (o : COp) : COp :=
    let t := Fin.ofNat 256 o.f.f5.toNat
    let others := (List.finRange 16).filter fun p => p != port && s.ports[p].qsc && s.portNamed t p
    let upto := others.foldl (fun n p => Nat.min n s.ports[p].qscAt) s.now
    if o.kind == .rrecv && s.portNamed t port then
      { o with since := o.since + (upto - Nat.max s.ports[port].qscAt o.since) } else o
  { s with cores := s.cores.map fun c =>
      { c with cell := { c.cell with flight := { c.cell.flight with cops := c.cell.flight.cops.map move } } } }

/-- A port is open again. -/
def State.reopenPort (s : State) (port : Fin 16) : State :=
  let p := s.ports[port]
  if p.qsc then (s.shiftWaits port).setPort port { p with qsc := false } else s

/-- PEER_PORT_REOPEN (R328). -/
def execPeerPortReopen (port : Fin 16) (s : State) : Host.Outcome State Fault Refusal :=
  .next (if s.serving then s.reopenPort port else s)

/-- LANE_DEGRADE (R294, R334): a port with no lanes is down. -/
def execLaneDegrade (port : Fin 16) (lanes : BitVec 3) (s : State) : Host.Outcome State Fault Refusal :=
  let p := s.ports[port]
  .next (if lanes ≤ 4 && s.aedty.phase == 2 then s.setPort port { p with lanes := lanes, up := lanes != 0 } else s)

end Sys2Proof.Machine
end

