-- ==== Sys2Proof/Machine/Mailbox.lean ====
section
/-! DEFINITION. The Aedty core: boot (R365-R368), the token mailbox (R369), host streams and their frames (R358-R363),
attestation (R346), suspend and resume (R326-R328), and the checks of the envelope and of storage (R294, R295). -/

namespace Sys2Proof.Machine

/-! ## The mailbox (R369) -/

/-- The Aedty core's state replaced. -/
def State.setAedty (s : State) (a : Aedty) : State := { s with aedty := a }

/-- The operation of a request. -/
def mailOp (req : BitVec 512) : Nat := (req.extractLsb' 0 8).toNat

/-- The host address of a request, bits 255:192. -/
def mailAddr (req : BitVec 512) : Nat := (req.extractLsb' 192 64).toNat

/-- Bits 191:160 of a request. -/
def mailSize (req : BitVec 512) : Nat := (req.extractLsb' 160 32).toNat

/-- The mailbox is not busy. -/
def State.mailIdle (s : State) : Bool := !s.aedty.mailStatus.getLsbD 63

/-- The mailbox region as the host reads it, from its first byte: the request, the doorbell, which reads as 0, the status and the
reply. -/
def State.mailBytes (s : State) : List Byte :=
  let a := s.aedty
  leBytes 64 a.mailReq.toNat ++ leBytes 8 0 ++ leBytes 8 a.mailStatus.toNat ++ leBytes 16 a.mailReply.toNat

/-- A host read of n bytes of the mailbox region at an offset; bytes past the reply read as 0 (log entry 16). -/
def State.mailRead (s : State) (off n : Nat) : List Byte :=
  (List.range n).map fun i => s.mailBytes.getD (off + i) 0

/-- A host write of bytes of the mailbox region at an offset: of the request area, which must not be rewritten while busy is set; or of
the doorbell, where a 1 sets busy and one that meets busy is ignored. Other bytes do not change (log entry 16). -/
def State.mailWrite (s : State) (off : Nat) (bs : List Byte) : State :=
  if !s.mailIdle then s
  else if off + bs.length ≤ 64 then
    let old := leBytes 64 s.aedty.mailReq.toNat
    s.setAedty { s.aedty with mailReq := BitVec.ofNat 512 (leNat (old.take off ++ bs ++ old.drop (off + bs.length))) }
  else if off = 0x40 && leNat bs = 1 then s.setAedty { s.aedty with mailStatus := s.aedty.mailStatus ||| 0x8000000000000000 }
  else s

/-- The host writes a request and then 1 to the doorbell: the status is busy. -/
def State.submit (s : State) (req : BitVec 512) : State :=
  (s.mailWrite 0 (leBytes 64 req.toNat)).mailWrite 0x40 (leBytes 8 1)

/-- The reply is written, busy is cleared and MSI-X vector 2 is signalled. -/
def State.reply (s : State) (status : BitVec 8) : State :=
  let a := s.aedty
  s.setAedty { a with
    mailReply := status.setWidth 128, mailStatus := a.mailStatus &&& 0x7FFFFFFFFFFFFFFF, msix := a.msix ++ [2] }

/-- The reply of a request whose status the spec does not state: a free one that is not 0. -/
def State.replyFree (s : State) : State :=
  let (w, s) := s.draw
  s.reply (if w.setWidth 8 = 0#8 then 1 else w.setWidth 8)

/-- A mailbox event of a request: with busy clear it is the doorbell that submits the request; with busy set it is the Aedty core
serving the request that it holds, and a doorbell for any other is ignored (R369). -/
def State.mail (s : State) (req : BitVec 512) (sel : Bool) (serve : State → State) : State :=
  if !sel then s
  else if s.mailIdle then s.submit req
  else if s.aedty.mailReq == req then serve s
  else s

/-- The booted Aedty core takes a request of an operation. -/
def State.mails (s : State) (req : BitVec 512) (op : Nat) : Bool := s.aedty.phase == 2 && mailOp req == op

/-- An operation the mailbox knows. -/
def knownOp (op : Nat) : Bool := [0x10, 0x11, 0x20, 0x30, 0x31, 0x40, 0x50].contains op

/-- A request that replies with status 3: an unknown operation, one that boot refuses, and an image load after the boot (R367, R369). -/
def State.refused (s : State) (req : BitVec 512) : Bool :=
  let op := mailOp req
  (s.aedty.phase != 0 && !knownOp op) || (s.aedty.phase == 1 && op != 0x50) || (s.aedty.phase == 2 && op == 0x50)

/-- MAILBOX_UNKNOWN_OP (R367, R369). -/
def execMailboxUnknownOp (req : BitVec 512) (s : State) : Host.Outcome State Fault Refusal :=
  .next (s.mail req (s.refused req) fun s => s.reply 3)

/-! ## Streams (R358) -/

/-- The fields of a stream request: domain, K, LOGN, reserved bits, RING and CTR. -/
def streamReq (req : BitVec 512) : Stream × Nat :=
  ({ id := req.extractLsb' 24 6, domain := req.extractLsb' 8 16, ring := req.extractLsb' 128 64,
     logn := (req.extractLsb' 32 8).toNat, ctr := req.extractLsb' 192 64, frames := 0, opened := 0 },
   (req.extractLsb' 40 88).toNat)

/-- A field of a stream request lies outside its range; a close uses K and DOMAIN. -/
def streamBad (req : BitVec 512) (opening : Bool) : Bool :=
  let (st, resv) := streamReq req
  resv != 0 || 63 < (req.extractLsb' 24 8).toNat
    || (opening && (st.logn < 8 || 16 < st.logn || st.ring.toNat % 4096 != 0 || st.ctr.toNat % 16 != 0
      || 2 ^ 48 < st.ring.toNat + 16 * 2 ^ st.logn || 2 ^ 48 < st.ctr.toNat + 16))

/-- Bytes that the Aedty core writes to host memory: performed at host scope. -/
def State.hostPut (s : State) (a : Nat) (bs : List Byte) : State :=
  s.pokeHome .device (locPhys (0x1000000000000 + a)) bs

/-- An open of a stream is served; its opening takes a number of its own. -/
def State.openStream (s : State) (req : BitVec 512) : State :=
  let (st, _) := streamReq req
  if streamBad req true then s.reply 3
  else if (s.streamOf st.domain st.id).isSome then s.reply 1
  else if 256 ≤ s.aedty.streams.length then s.reply 2
  else
    let s := s.setAedty { s.aedty with streams := s.aedty.streams ++ [{ st with opened := s.nextSerial }] }
    let s : State := { s with nextSerial := s.nextSerial + 1 }
    (s.hostPut st.ctr.toNat (leBytes 8 0)).reply 0

/-- STREAM_OPEN (R358). -/
def execStreamOpen (req : BitVec 512) (s : State) : Host.Outcome State Fault Refusal :=
  .next (s.mail req (s.mails req 0x10) fun s => s.openStream req)

/-- Closed streams for which an entry is still to be written (R358). -/
def unwritten (released : List Released) (l : List Stream) : List Stream :=
  l.filter fun st => released.any (·.opened == st.opened)

/-- A close of a stream is served: the entries that were released to it before are still written (R358). -/
def State.closeStream (s : State) (req : BitVec 512) : State :=
  let (st, _) := streamReq req
  let a := s.aedty
  let named (x : Stream) : Bool := x.domain == st.domain && x.id == st.id
  if streamBad req false then s.reply 3
  else if (s.streamOf st.domain st.id).isNone then s.reply 1
  else
    (s.setAedty { a with
      streams := a.streams.filter fun x => !named x, closed := a.closed ++ unwritten a.released (a.streams.filter named) }).reply 0

/-- STREAM_CLOSE (R358). -/
def execStreamClose (req : BitVec 512) (s : State) : Host.Outcome State Fault Refusal :=
  .next (s.mail req (s.mails req 0x11) fun s => s.closeStream req)

/-! ## Frames (R362) -/

/-- A frame (R362). -/
def frameOf (n : Nat) (e : Released) : BitVec 128 := BitVec.ofNat 32 n ++ e.cellno ++ e.value

/-- A stream takes one more frame. -/
def State.putFrame (s : State) (st : Stream) (e : Released) : State :=
  let n := st.frames
  let s := s.hostPut (st.ring.toNat + 16 * (n % 2 ^ st.logn)) (leBytes 16 (frameOf n e).toNat)
  let s := s.hostPut st.ctr.toNat (leBytes 8 (n + 1))
  let a := s.aedty
  let next (x : Stream) : Stream := if x.opened == st.opened then { x with frames := n + 1 } else x
  s.setAedty { a with streams := a.streams.map next, closed := unwritten a.released (a.closed.map next) }

/-- The stream to which an entry was released: the opening that was open then (R358, R361). -/
def State.entryStream (s : State) (e : Released) : Option Stream :=
  (s.aedty.streams ++ s.aedty.closed).find? (·.opened == e.opened)

/-- The ring of the stream of a released entry is full (R362). -/
def State.entryFull (s : State) (e : Released) : Bool := (s.entryStream e).all s.streamFull

/-- FRAME_WRITE (R361-R363): the k-th released entry becomes a frame where the ring has room, in the order of the commits: every entry
before it is of another stream, whose ring is full. -/
def execFrameWrite (k : Nat) (s : State) : Host.Outcome State Fault Refusal :=
  match s.aedty.released[k]? with
  | none => .next s
  | some e =>
    let passes (r : Released) : Bool := r.opened != e.opened && s.entryFull r
    let out := s.setAedty { s.aedty with released := s.aedty.released.eraseIdx k }
    if !(s.aedty.released.take k).all passes || !s.awake then .next s
    else
      match s.entryStream e with
      | none => .next s
      | some st => .next (if s.streamFull st then s else out.putFrame st e)

/-! ## Attestation (R346) -/

/-- The header of a report: the version 0x01, the count of measurements and the fabric number, in places that the spec does not give
(log entry 16). -/
def reportHeader (count fabric : Nat) : BitVec 128 := BitVec.ofNat 64 fabric ++ BitVec.ofNat 32 count ++ 1#32

/-- The report for a nonce: header, public key, nonce, measurements in boot order, signature. -/
def State.report (s : State) (nonce : BitVec 256) : List Byte :=
  let m := s.aedty.measure
  let body := leBytes 16 (reportHeader m.length (s.entryAt (locSys 0 0x1200000) % 512)).toNat
    ++ leBytes 32 Config.publicKey.toNat ++ leBytes 32 nonce.toNat ++ m.flatMap recordBytes
  body ++ recordBytes (Config.sign (recordBytes (Config.sha512 body)))

/-- A request for a report is served. -/
def State.attest (s : State) (req : BitVec 512) : State :=
  let bs := s.report (req.extractLsb' 256 256)
  if 2 ^ 48 < mailAddr req + bs.length then s.replyFree else (s.hostPut (mailAddr req) bs).reply 0

/-- ATTESTATION (R346, R369). -/
def execAttestation (req : BitVec 512) (s : State) : Host.Outcome State Fault Refusal :=
  .next (s.mail req (s.mails req 0x20) fun s => s.attest req)

/-! ## The dump buffer (R299) -/

/-- A registration of the dump buffer is served. -/
def State.registerDump (s : State) (req : BitVec 512) : State :=
  let size := mailSize req * 2 ^ 20
  if 2 ^ 48 < mailAddr req + size then s.replyFree
  else (s.setAedty { s.aedty with dumpBase := BitVec.ofNat 64 (mailAddr req), dumpSize := size }).reply 0

/-- DUMP_BUFFER_REGISTER (R369). -/
def execDumpBufferRegister (req : BitVec 512) (s : State) : Host.Outcome State Fault Refusal :=
  .next (s.mail req (s.mails req 0x40) fun s => s.registerDump req)

/-! ## Suspend and resume (R326-R328) -/

/-- A suspend can be made: both dies have slots 0-195, every page of which translates (R327). -/
def State.canSuspend (s : State) : Bool :=
  [(0 : DieId), 1].all fun d =>
    196 ≤ (s.die d).imgcount.toNat
      && match coreAt d 0 with
        | none => false
        | some k => (List.range 196).all fun i => (s.slotPieces k i).isSome

/-- A cell can be saved for a suspend as it stands: no fault entry or rollback is in progress. -/
def Cell.canSave (c : Cell) : Bool :=
  c.raised.isNone && match c.status with
    | .rolling _ => false
    | _ => true

/-- The outstanding loads of a core's cell are performed; one that meets bad data is the cell's fault (R321). The data of a hack-stopped
cell's is held with the cell (R322, R356). -/
def State.suspendLoads (s : State) (k : CoreId) : State :=
  let t := s.on k
  if t.cell.frozen then t.holdLoads
  else if !t.working || t.excluded || t.flight.loads.isEmpty then s
  else
    match t.performLoads t.flight.loads.length with
    | .ok t => t
    | .error f => t.fault .A f

/-- A core's cell is stopped and saved in its site's slot (R326). -/
def State.suspendCell (s : State) (k : CoreId) : State :=
  let t := s.on k
  if t.cell.status == .idle then s else t.stopCell.saveImage (siteOf k, (s.slotPieces k (siteOf k)).getD []) none

/-- Every port that is up has been answered for (R326). -/
def State.portsQuiet (s : State) : Bool := s.ports.toList.all fun p => !p.up || p.qsc

/-- Times at which aging and waits began moved by the time spent suspended (R328). -/
def State.shiftTimes (s : State) (by_ : Nat) : State :=
  let move (l : Launch) : Launch :=
    { l with
      accepted := l.accepted + by_, askedAt := l.askedAt.map (· + by_) }
  let s : State := { s with
    dies := s.dies.map fun d => { d with
      board := d.board.map move, ramp := d.ramp.map fun q => { q with since := q.since + by_ } },
    draining := s.draining.map fun d => (d.1, d.2.1 + by_, d.2.2) }
  { s with gov := { s.gov with sampleAt := s.now, staticAt := s.now } }

/-- The device returns from retention: SUSPCNT rises and the ports reopen (R328); images wait for CELL_RESUME. -/
def State.wakeUp (s : State) : State :=
  let s := s.shiftTimes (s.now - s.aedty.suspendAt)
  let s := (List.finRange 16).foldl (fun (s : State) p => s.reopenPort p) s
  let a := s.aedty
  s.setAedty { a with suspended := 0, resumeAsked := false, suspcnt := a.suspcnt + 1 }

/-- The power has come down within the fall limits: no ballast is needed any more (R304, R326; log entry 29). -/
def State.rampedDown (s : State) : Bool := s.loTicks ≤ s.staticTicks Config.cyclesPerSample

/-- Every port has answered and the power is down: the device is in retention, its caches powered off; a resume asked for is served
(R326, R327). -/
def State.settleSuspend (s : State) : State :=
  if s.aedty.suspended == 1 && s.portsQuiet && s.rampedDown then
    let s : State := { s with
      dies := s.dies.map fun d => { d with tlb := [] }, cores := s.cores.map fun c => { c with micro := [] },
      gov := { s.gov with ballastOn := [] } }
    let s := s.setAedty { s.aedty with suspended := 2 }
    if s.aedty.resumeAsked then s.wakeUp else s
  else s

/-- Ports send their quiesce: a peer answers at once, or not yet (R326). -/
def State.quiescePorts (s : State) : State :=
  (List.finRange 16).foldl (fun (s : State) p =>
    let x := s.ports[p]
    let (w, s) := s.draw
    if x.up && !x.qsc && w.getLsbD 0 then s.setPort p { x with qsc := true, qscAt := s.now } else s) s

/-- A suspend that was asked for is refused, and the device goes on running (R327). -/
def State.dropSuspend (s : State) : State :=
  s.setAedty { s.aedty with suspendAsked := false, suspending := false, resumeAsked := false }

/-- Steps 1 to 4 of a suspend (R326): every cell is saved once none is in a fault's entry or a rollback; a slot that does not translate by
then refuses it. A fatal fault that is found begins a dump, which runs to its trailer before step 4 (R327). -/
def State.suspendNow (s : State) : State :=
  if !s.aedty.suspending || !s.aedty.dumps.isEmpty then s
  else
    let s := (List.finRange 392).foldl (fun (s : State) k => s.suspendLoads k) s
    if !s.aedty.dumps.isEmpty || !(s.cores.toList.all fun c => c.cell.canSave) then s
    else if !s.canSuspend then s.dropSuspend
    else
      let s := (List.finRange 392).foldl (fun (s : State) k => s.suspendCell k) s
      if !s.aedty.dumps.isEmpty then s
      else
        let s := s.setAedty { s.aedty with suspended := 1, suspendAt := s.now, suspending := false }
        s.quiescePorts.settleSuspend

/-- A suspend begins, unless a dump is in progress: it waits for the trailer of that dump (R327). One whose slots no longer translate then is
refused. -/
def State.beginSuspend (s : State) : State :=
  if s.aedty.dumps.isEmpty && !s.canSuspend then s.dropSuspend
  else if s.aedty.dumps.isEmpty then (s.setAedty { s.aedty with suspendAsked := false, suspending := true }).suspendNow
  else s.setAedty { s.aedty with suspendAsked := true }

/-- A request to suspend is served: a second one is ignored, and one whose slots do not translate is refused (R327). -/
def State.askSuspend (s : State) : State :=
  let a := s.aedty
  if a.suspended != 0 || a.suspending || a.suspendAsked then s.reply 0
  else if !s.canSuspend then s.replyFree
  else (s.reply 0).beginSuspend

/-- SUSPEND (R326, R327, R369): a request; and, with no request of that operation, the next step of a suspend in progress. -/
def execSuspend (req : BitVec 512) (s : State) : Host.Outcome State Fault Refusal :=
  .next (if mailOp req == 0x30 then s.mail req (s.mails req 0x30) State.askSuspend
    else if s.aedty.suspending then s.suspendNow
    else s.settleSuspend)

/-- PORT_QUIESCE_TIMEOUT (R326): 50 ms have passed, and the port is saved as it stands. -/
def execPortQuiesceTimeout (port : Fin 16) (s : State) : Host.Outcome State Fault Refusal :=
  let p := s.ports[port]
  if s.aedty.suspended == 1 && p.up && !p.qsc && 50000 ≤ s.usSince s.aedty.suspendAt then
    .next (s.setPort port { p with qsc := true, qscAt := s.now }).settleSuspend
  else .next s

/-- A request to resume is served: at once, or once the suspend completes (R327, R328). -/
def State.askResume (s : State) : State :=
  let s := s.reply 0
  let a := s.aedty
  if a.suspended == 2 then s.wakeUp
  else if a.suspended == 1 || a.suspending || a.suspendAsked then s.setAedty { a with resumeAsked := true }
  else s

/-- RESUME (R327, R328, R369). -/
def execResume (req : BitVec 512) (s : State) : Host.Outcome State Fault Refusal :=
  .next (s.mail req (s.mails req 0x31) State.askResume)

/-! ## Boot (R345, R366, R367) -/

/-- A port as training leaves it: a free state of a link (R334, R366). -/
def trainedPort (w : Word) : Port :=
  let lanes : BitVec 3 := BitVec.ofNat 3 (w.toNat % 5)
  { up := lanes != 0, qsc := false, lanes := lanes, peer := w.extractLsb' 8 9, qscAt := 0 }

/-- The record of a die's supervisor launch with SUPV 1 and PRIO 7. -/
def bootRecordOf (images : List (List Byte)) (d : DieId) : BitVec 512 :=
  Config.bootRecord images d.val ||| BitVec.ofNat 512 (2 ^ 139) ||| BitVec.ofNat 512 (7 * 2 ^ 143)

/-- A die's supervisor launch is accepted. -/
def State.bootLaunch (s : State) (d : DieId) : State :=
  let m := s.aedty.loaded
  s.enterBoard d d (handleOf (s.die d).nextSeq d (s.freeEntry d)) (bootRecordOf m d) (Config.bootHeader m d.val) 0

/-- HBM4 and the domain table hold what the verified images put there (R366; log entry 4). -/
def State.bootFill (s : State) : State :=
  let m := s.aedty.loaded
  let s := (Config.bootMemory m).foldl (fun (s : State) p =>
    if p.1 + p.2.length ≤ Config.hbmBytes then s.pour (locPhys p.1) p.2 else s) s
  (Config.bootTable m).foldl (fun (s : State) p => s.sysPut 0 (0x20000 + 8 * p.1.toNat) p.2.toNat) s

/-- Steps 3 to 5 of the boot: HBM4 holds what the images put there, the ports are trained, the governor's samples begin and each die's
supervisor is launched. -/
def State.bringUp (s : State) : State :=
  let s := s.bootFill
  let s := (List.finRange 16).foldl (fun (s : State) p =>
    let (w, s) := s.draw
    s.setPort p (trainedPort w)) s
  let s : State := { s with gov := { s.gov with sampleAt := s.now, staticAt := s.now } }
  let s := (s.bootLaunch 0).bootLaunch 1
  s.setAedty { s.aedty with phase := 2 }

/-- An image is verified, its digest recorded and its bytes kept; one that fails leaves code 3 and its index in the status word. -/
def State.verify (s : State) (i : Nat) (bs : List Byte) : State × Bool :=
  let a := s.aedty
  if Config.verifyImage bs then
    (s.setAedty { a with loaded := a.loaded ++ [bs], measure := a.measure ++ [Config.sha512 bs] }, true)
  else
    (s.setAedty { a with
      mailStatus := BitVec.ofNat 64 (a.mailStatus.toNat / 65536 * 65536 + 3 * 256 + i % 256) }, false)

/-- The die images of the SPI flash verified in manifest order, from image i for n of them. -/
def State.verifyFlash (s : State) (i : Nat) : Nat → State × Bool
  | 0 => (s, true)
  | n + 1 =>
    match s.verify i (Config.flashImage i) with
    | (s, true) => s.verifyFlash (i + 1) n
    | (s, false) => (s, false)

/-- An image has failed, and the device stays where it is. -/
def State.bootFailed (s : State) : Bool := s.aedty.mailStatus.toNat / 256 % 256 == 3

/-- POWER_ON_BOOT (R365, R366): with TESTEN low, the firmware is verified, then the images of the flash; with BOOTSRC = 1
the images wait for the host. -/
def execPowerOnBoot (s : State) : Host.Outcome State Fault Refusal :=
  let a := s.aedty
  if a.phase != 0 || a.testen || !Config.firmwareGood || s.bootFailed then .next s
  else
    let s := s.setAedty { a with measure := [Config.firmwareDigest] }
    if a.bootsrc == 1 then
      let s := s.setAedty { s.aedty with phase := 1 }
      .next (if Config.manifest = 0 then s.bringUp else s)
    else
      match s.verifyFlash 0 Config.manifest with
      | (s, true) => .next s.bringUp
      | (s, false) => .next s

/-- A request to load an image is served: the next image of the manifest is read from host memory and verified; after the last one the
boot goes on (R367). -/
def State.loadImage (s : State) (req : BitVec 512) : State :=
  if s.bootFailed || 2 ^ 48 < mailAddr req + mailSize req then s.replyFree
  else
    let bs := s.peek .host (locPhys (0x1000000000000 + mailAddr req)) (mailSize req)
    match s.verify s.aedty.loaded.length bs with
    | (s, false) => s.replyFree
    | (s, true) =>
      let s := s.reply 0
      if s.aedty.loaded.length = Config.manifest then s.bringUp else s

/-- IMAGE_LOAD (R367). -/
def execImageLoad (req : BitVec 512) (s : State) : Host.Outcome State Fault Refusal :=
  .next (s.mail req (s.aedty.phase == 1 && mailOp req == 0x50) fun s => s.loadImage req)

/-- The Aedty core serves the request that the mailbox holds (R369). -/
def execMailbox (s : State) : Host.Outcome State Fault Refusal :=
  let r := s.aedty.mailReq
  if s.mailIdle then .next s
  else if s.refused r then execMailboxUnknownOp r s
  else
    match mailOp r with
    | 0x10 => execStreamOpen r s
    | 0x11 => execStreamClose r s
    | 0x20 => execAttestation r s
    | 0x30 => execSuspend r s
    | 0x31 => execResume r s
    | 0x40 => execDumpBufferRegister r s
    | _ => execImageLoad r s

/-! ## The envelope and patrol reads (R294, R295) -/

/-- ENVELOPE_EVENT (R294): issue stops and an event is posted on each die, whose type the spec does not give. -/
def execEnvelopeEvent (s : State) : Host.Outcome State Fault Refusal :=
  if s.aedty.phase != 2 || s.aedty.stopped then .next s
  else
    let s := s.setAedty { s.aedty with stopped := true }
    let post (s : State) (d : DieId) : State :=
      let (w, s) := s.draw
      s.queueEvent d { head := 0#120 ++ BitVec.ofNat 1 d.val ++ 0#383 ++ w.setWidth 8, record := 0 }
    .next (post (post s 0) 1)

/-- PATROL_READ (R294, R295): a correctable error changes no value; an uncorrectable granule is poisoned. -/
def execPatrolRead (loc : Nat) (correctable : Bool) (s : State) : Host.Outcome State Fault Refusal :=
  .next (if correctable then s else s.addPoison loc)

end Sys2Proof.Machine
end

