-- ==== Sys2Proof/Machine/Dump.lean ====
section
/-! DEFINITION. The dump of a domain that a fatal fault begins (R297, R299). -/

namespace Sys2Proof.Machine

/-- A cell of the domain that is dumped: its number, and the core that it holds or its image. -/
inductive DumpCell where
  | running (k : CoreId)
  | saved (i : Image)

/-- The cells of a domain with their numbers, on cores and in images. -/
def State.dumpCells (s : State) (dom : BitVec 16) : List (Nat × DumpCell) :=
  let cores := (List.finRange 392).filter fun k =>
    s.cores[k].cell.status != .idle && s.cores[k].cell.ident.domain == dom
  let images := ((s.die 0).images ++ (s.die 1).images).filter fun i => i.cell.ident.domain == dom
  let all := cores.map (fun k => (s.cores[k].cell.ident.cellno.toNat, DumpCell.running k))
    ++ images.map fun i => (i.cell.ident.cellno.toNat, DumpCell.saved i)
  all.mergeSort fun a b => a.1 ≤ b.1

/-- The cells of a domain stop, as a pre-emption stops them: their accesses are performed and their charges added (R299, R322). -/
def State.stopDomain (s : State) (dom : BitVec 16) : State :=
  (List.finRange 392).foldl (fun (s : State) k =>
    let t := s.on k
    if t.cell.status != .idle && t.domain == dom then t.stopCell.settleCell else s) s

/-- A cell's switch image and fault page (R143, R323), or nothing where an uncorrectable error is read. -/
def State.dumpBytes (s : State) (draw : Nat) (c : DumpCell) : Option (List Byte) :=
  match c with
  | .running k =>
    let t := s.on k
    if !t.imageBad.isEmpty then none
    else
      let bs := t.imageOf draw
      some (bs ++ ((bs.drop 0x54000).take 0x180000).drop 0x17F000)
  | .saved i =>
    match coreAt i.die 0 with
    | none => none
    | some k =>
      let found := do
        let (ps, s) ← s.range (imageAgent k) (s.slotAddr i.die i.slot) (0x1ED000 + i.cell.ckBytes.length) .load
        s.imageBytes k { i with bad := [] } ps
      match found with
      | .error _ => none
      | .ok bs => some (bs ++ ((bs.drop 0x54000).take 0x180000).drop 0x17F000)

/-- The images and fault pages of cells in order, up to the first that cannot be read; whether all could. -/
def State.dumpAll (s : State) (draw : Nat) : List (Nat × DumpCell) → List Byte × Bool
  | [] => ([], true)
  | c :: cs =>
    match s.dumpBytes draw c.2 with
    | none => ([], false)
    | some bs =>
      let (rest, ok) := s.dumpAll (draw + 1) cs
      (bs ++ rest, ok)

/-- The header of a dump: the count of cells, the domain and the fatal cell, in places that the spec does not give (log entry 16). -/
def dumpHeader (domain : BitVec 16) (cell : Word) (count : Nat) : BitVec 512 :=
  0#352 ++ BitVec.ofNat 64 count ++ 0#16 ++ domain ++ cell

/-- The trailer of a dump but for its signature: status, bytes written, secondary records and the device's public key, in places that the
spec does not give (R299, R368; log entry 16). -/
def dumpTrailer (status written secondary : Nat) : List Byte :=
  leBytes 8 status ++ leBytes 8 written ++ leBytes 8 secondary ++ leBytes 8 0 ++ leBytes 32 Config.publicKey.toNat

/-- The bytes of a dump before its trailer, and whether it is complete. -/
def State.dumpBody (s : State) (d : Dump) : List Byte × Bool :=
  let cells := s.dumpCells d.domain
  let head := recordBytes (dumpHeader d.domain d.cell cells.length) ++ recordBytes d.record
  match s.dumpAll s.freeCtr cells with
  | (bs, true) => (head ++ bs ++ d.secondary.flatMap recordBytes, true)
  | (bs, false) => (head ++ bs, false)

/-- A dump written to the host's buffer: what does not fit is cut off, and the trailer closes it, with a signature over every byte
before it. -/
def State.putDump (s : State) (d : Dump) : State :=
  let room := s.aedty.dumpSize
  let (bs, ok) := s.dumpBody d
  if room < 128 then s
  else
    let cut := bs.take (room - 128)
    let status := if ok && bs.length ≤ room - 128 then 0 else 1
    let body := cut ++ dumpTrailer status cut.length d.secondary.length
    s.hostPut s.aedty.dumpBase.toNat (body ++ recordBytes (Config.sign (recordBytes (Config.sha512 body))))

/-- The cells of a domain end without DONE arrivals, and its launches leave the scoreboards (R299). -/
def State.clearDomain (s : State) (dom : BitVec 16) : State :=
  let s := (List.finRange 392).foldl (fun (s : State) k =>
    let t := s.on k
    if t.cell.status != .idle && t.domain == dom then t.endCell else s) s
  let clear (d : Die) : Die :=
    let gone := d.board.filter fun l => recDomain l.record == dom
    { d with
      images := d.images.filter fun i => i.cell.ident.domain != dom
      board := d.board.filter fun l => recDomain l.record != dom
      ramp := d.ramp.filter fun q => !gone.any fun l => l.handle == q.launch }
  let owners := ((s.die 0).images ++ (s.die 1).images).filterMap fun i =>
    if i.cell.ident.domain == dom then some i.cell.ident.serial else none
  { s with
    dies := s.dies.map clear
    pubs := s.pubs.filter fun p => !owners.contains p.owner
    watch := s.watch.filter fun w => !owners.contains w.1 }

/-- The event that a dump has ended (R288, R299). -/
def dumpEvent (d : DieId) (x : Dump) : SupEvent :=
  let id : Word := x.cell
  { head := 0#64 ++ id.extractLsb' 0 32 ++ x.domain ++ id.extractLsb' 32 8 ++ BitVec.ofNat 1 d.val ++ 0#383 ++ 7#8,
    record := x.record }

/-- DUMP (R299): the cells of the domain in progress stop, its dump is written, the domain is cleared and its end is posted on each die; a suspend that
has waited for it follows (R327). -/
def execDump (s : State) : Host.Outcome State Fault Refusal :=
  match s.aedty.dumps with
  | [] => .next s
  | d :: rest =>
    let s := s.stopDomain d.domain
    let n := (s.dumpCells d.domain).length
    let s := (s.putDump d).clearDomain d.domain
    let s : State := { s with freeCtr := s.freeCtr + n }
    let s := s.setAedty { s.aedty with dumps := rest }
    let s := (s.queueEvent 0 (dumpEvent 0 d)).queueEvent 1 (dumpEvent 1 d)
    .next (if s.aedty.suspendAsked then s.beginSuspend else s.suspendNow)

end Sys2Proof.Machine
end

