-- ==== Sys2Proof/Machine/Dispatch.lean ====
section
/-! DEFINITION. The dispatch: the meaning of each constructor of Instr. -/

namespace Sys2Proof.Machine
open Sys2Proof

def exec (i : Instr) (s : State) : Host.Outcome State Fault Refusal :=
  match i with
  | .add t d a b => Sys2Proof.Machine.execAdd t d a b s
  | .sub t d a b => Sys2Proof.Machine.execSub t d a b s
  | .mul t d a b => Sys2Proof.Machine.execMul t d a b s
  | .mulh t d a b => Sys2Proof.Machine.execMulh t d a b s
  | .mulhn t d a b => Sys2Proof.Machine.execMulhn t d a b s
  | .div t d a b => Sys2Proof.Machine.execDiv t d a b s
  | .divn t d a b => Sys2Proof.Machine.execDivn t d a b s
  | .rem t d a b => Sys2Proof.Machine.execRem t d a b s
  | .remn t d a b => Sys2Proof.Machine.execRemn t d a b s
  | .and t d a b => Sys2Proof.Machine.execAnd t d a b s
  | .or t d a b => Sys2Proof.Machine.execOr t d a b s
  | .xor t d a b => Sys2Proof.Machine.execXor t d a b s
  | .andn t d a b => Sys2Proof.Machine.execAndn t d a b s
  | .shl t d a b => Sys2Proof.Machine.execShl t d a b s
  | .shr t d a b => Sys2Proof.Machine.execShr t d a b s
  | .sra t d a b => Sys2Proof.Machine.execSra t d a b s
  | .min t d a b => Sys2Proof.Machine.execMin t d a b s
  | .max t d a b => Sys2Proof.Machine.execMax t d a b s
  | .minn t d a b => Sys2Proof.Machine.execMinn t d a b s
  | .maxn t d a b => Sys2Proof.Machine.execMaxn t d a b s
  | .clz t d a => Sys2Proof.Machine.execClz t d a s
  | .ctz t d a => Sys2Proof.Machine.execCtz t d a s
  | .popc t d a => Sys2Proof.Machine.execPopc t d a s
  | .bext t d a b => Sys2Proof.Machine.execBext t d a b s
  | .bdep t d a b => Sys2Proof.Machine.execBdep t d a b s
  | .slt t d a b => Sys2Proof.Machine.execSlt t d a b s
  | .sltn t d a b => Sys2Proof.Machine.execSltn t d a b s
  | .seq t d a b => Sys2Proof.Machine.execSeq t d a b s
  | .sel t d a b => Sys2Proof.Machine.execSel t d a b s
  | .addS32 t d a b => Sys2Proof.Machine.execAddS32 t d a b s
  | .subS32 t d a b => Sys2Proof.Machine.execSubS32 t d a b s
  | .mulS32 t d a b => Sys2Proof.Machine.execMulS32 t d a b s
  | .shlS32 t d a b => Sys2Proof.Machine.execShlS32 t d a b s
  | .shrS32 t d a b => Sys2Proof.Machine.execShrS32 t d a b s
  | .sraS32 t d a b => Sys2Proof.Machine.execSraS32 t d a b s
  | .rslot t d a => Sys2Proof.Machine.execRslot t d a s
  | .hack t a => Sys2Proof.Machine.execHack t a s
  | .trc t a => Sys2Proof.Machine.execTrc t a s
  | .addImm t d a imm => Sys2Proof.Machine.execAddImm t d a imm s
  | .addS32Imm t d a imm => Sys2Proof.Machine.execAddS32Imm t d a imm s
  | .mulImm t d a imm => Sys2Proof.Machine.execMulImm t d a imm s
  | .andImm t d a imm => Sys2Proof.Machine.execAndImm t d a imm s
  | .orImm t d a imm => Sys2Proof.Machine.execOrImm t d a imm s
  | .xorImm t d a imm => Sys2Proof.Machine.execXorImm t d a imm s
  | .shlImm t d a imm => Sys2Proof.Machine.execShlImm t d a imm s
  | .shrImm t d a imm => Sys2Proof.Machine.execShrImm t d a imm s
  | .sraImm t d a imm => Sys2Proof.Machine.execSraImm t d a imm s
  | .sltImm t d a imm => Sys2Proof.Machine.execSltImm t d a imm s
  | .sltnImm t d a imm => Sys2Proof.Machine.execSltnImm t d a imm s
  | .seqImm t d a imm => Sys2Proof.Machine.execSeqImm t d a imm s
  | .li t d imm => Sys2Proof.Machine.execLi t d imm s
  | .beq t a off => Sys2Proof.Machine.execBeq t a off s
  | .bne t a off => Sys2Proof.Machine.execBne t a off s
  | .blt t a off => Sys2Proof.Machine.execBlt t a off s
  | .bge t a off => Sys2Proof.Machine.execBge t a off s
  | .bgt t a off => Sys2Proof.Machine.execBgt t a off s
  | .ble t a off => Sys2Proof.Machine.execBle t a off s
  | .jmp t off => Sys2Proof.Machine.execJmp t off s
  | .call t off => Sys2Proof.Machine.execCall t off s
  | .ret t => Sys2Proof.Machine.execRet t s
  | .nop t => Sys2Proof.Machine.execNop t s
  | .halt t => Sys2Proof.Machine.execHalt t s
  | .trap t code => Sys2Proof.Machine.execTrap t code s
  | .eret t => Sys2Proof.Machine.execEret t s
  | .ltrig t => Sys2Proof.Machine.execLtrig t s
  | .lcmt t => Sys2Proof.Machine.execLcmt t s
  | .rply t => Sys2Proof.Machine.execRply t s
  | .mark t scope => Sys2Proof.Machine.execMark t scope s
  | .rnd t d => Sys2Proof.Machine.execRnd t d s
  | .srd t d r => Sys2Proof.Machine.execSrd t d r s
  | .swr t a r => Sys2Proof.Machine.execSwr t a r s
  | .tset t n a e => Sys2Proof.Machine.execTset t n a e s
  | .ldN8 t d base imm => Sys2Proof.Machine.execLdN8 t d base imm s
  | .ldN16 t d base imm => Sys2Proof.Machine.execLdN16 t d base imm s
  | .ldN32 t d base imm => Sys2Proof.Machine.execLdN32 t d base imm s
  | .ldN64 t d base imm => Sys2Proof.Machine.execLdN64 t d base imm s
  | .ldS8 t d base imm => Sys2Proof.Machine.execLdS8 t d base imm s
  | .ldS16 t d base imm => Sys2Proof.Machine.execLdS16 t d base imm s
  | .ldS32 t d base imm => Sys2Proof.Machine.execLdS32 t d base imm s
  | .stN8 t src base imm => Sys2Proof.Machine.execStN8 t src base imm s
  | .stN16 t src base imm => Sys2Proof.Machine.execStN16 t src base imm s
  | .stN32 t src base imm => Sys2Proof.Machine.execStN32 t src base imm s
  | .stN64 t src base imm => Sys2Proof.Machine.execStN64 t src base imm s
  | .ldqN8 t q base imm => Sys2Proof.Machine.execLdqN8 t q base imm s
  | .ldqN16 t q base imm => Sys2Proof.Machine.execLdqN16 t q base imm s
  | .ldqN32 t q base imm => Sys2Proof.Machine.execLdqN32 t q base imm s
  | .ldqN64 t q base imm => Sys2Proof.Machine.execLdqN64 t q base imm s
  | .ldqS8 t q base imm => Sys2Proof.Machine.execLdqS8 t q base imm s
  | .ldqS16 t q base imm => Sys2Proof.Machine.execLdqS16 t q base imm s
  | .ldqS32 t q base imm => Sys2Proof.Machine.execLdqS32 t q base imm s
  | .amoAdd t d a b => Sys2Proof.Machine.execAmoAdd t d a b s
  | .amoMin t d a b => Sys2Proof.Machine.execAmoMin t d a b s
  | .amoMax t d a b => Sys2Proof.Machine.execAmoMax t d a b s
  | .amoAnd t d a b => Sys2Proof.Machine.execAmoAnd t d a b s
  | .amoOr t d a b => Sys2Proof.Machine.execAmoOr t d a b s
  | .amoXor t d a b => Sys2Proof.Machine.execAmoXor t d a b s
  | .amoXchg t d a b => Sys2Proof.Machine.execAmoXchg t d a b s
  | .amoFaddF32 t d a b => Sys2Proof.Machine.execAmoFaddF32 t d a b s
  | .amoFmaxF32 t d a b => Sys2Proof.Machine.execAmoFmaxF32 t d a b s
  | .cas t d a b => Sys2Proof.Machine.execCas t d a b s
  | .await t d a b => Sys2Proof.Machine.execAwait t d a b s
  | .barInit t a b => Sys2Proof.Machine.execBarInit t a b s
  | .barArr t a => Sys2Proof.Machine.execBarArr t a s
  | .barAdd t a b => Sys2Proof.Machine.execBarAdd t a b s
  | .barWait t a => Sys2Proof.Machine.execBarWait t a s
  | .barTest t d a => Sys2Proof.Machine.execBarTest t d a s
  | .pub t a scope => Sys2Proof.Machine.execPub t a scope s
  | .push t a b => Sys2Proof.Machine.execPush t a b s
  | .renq t a b => Sys2Proof.Machine.execRenq t a b s
  | .qstat t d a => Sys2Proof.Machine.execQstat t d a s
  | .lnch t d a => Sys2Proof.Machine.execLnch t d a s
  | .fpush t a => Sys2Proof.Machine.execFpush t a s
  | .sgin t d a b => Sys2Proof.Machine.execSgin t d a b s
  | .sgout t d a b => Sys2Proof.Machine.execSgout t d a b s
  | .patchWord e n fsel value => Sys2Proof.Machine.execPatchWord e n fsel value s
  | .cCopy t o => Sys2Proof.Machine.execCCopy t o s
  | .cGath t f => Sys2Proof.Machine.execCGath t f s
  | .cScat t f => Sys2Proof.Machine.execCScat t f s
  | .cFill t o => Sys2Proof.Machine.execCFill t o s
  | .cConvF32 t o => Sys2Proof.Machine.execCConvF32 t o s
  | .cConvBf16 t o => Sys2Proof.Machine.execCConvBf16 t o s
  | .cConvF16 t o => Sys2Proof.Machine.execCConvF16 t o s
  | .cDrain t o => Sys2Proof.Machine.execCDrain t o s
  | .cDrainSel t f => Sys2Proof.Machine.execCDrainSel t f s
  | .cWmap t w q => Sys2Proof.Machine.execCWmap t w q s
  | .cWadv t w n => Sys2Proof.Machine.execCWadv t w n s
  | .cWret t w => Sys2Proof.Machine.execCWret t w s
  | .cPfx t q n => Sys2Proof.Machine.execCPfx t q n s
  | .cRsend t f => Sys2Proof.Machine.execCRsend t f s
  | .cRrecv t f => Sys2Proof.Machine.execCRrecv t f s
  | .cMbx t q k => Sys2Proof.Machine.execCMbx t q k s
  | .mLvl t q k => Sys2Proof.Machine.execMLvl t q k s
  | .mGo t body => Sys2Proof.Machine.execMGo t body s
  | .mZero t n c => Sys2Proof.Machine.execMZero t n c s
  | .mStop t => Sys2Proof.Machine.execMStop t s
  | .mMma t shape o => Sys2Proof.Machine.execMMma t shape o s
  | .mMmas t shape o => Sys2Proof.Machine.execMMmas t shape o s
  | .vLdN8 t d sel row => Sys2Proof.Machine.execVLdN8 t d sel row s
  | .vLdS8 t d sel row => Sys2Proof.Machine.execVLdS8 t d sel row s
  | .vLdN16 t d sel row => Sys2Proof.Machine.execVLdN16 t d sel row s
  | .vLdS16 t d sel row => Sys2Proof.Machine.execVLdS16 t d sel row s
  | .vLd t d sel row => Sys2Proof.Machine.execVLd t d sel row s
  | .vStN8 t d sel row => Sys2Proof.Machine.execVStN8 t d sel row s
  | .vStN16 t d sel row => Sys2Proof.Machine.execVStN16 t d sel row s
  | .vSt t d sel row => Sys2Proof.Machine.execVSt t d sel row s
  | .vLdx t d a q e => Sys2Proof.Machine.execVLdx t d a q e s
  | .vStx t d a q e => Sys2Proof.Machine.execVStx t d a q e s
  | .vAdd t d a b m => Sys2Proof.Machine.execVAdd t d a b m s
  | .vSub t d a b m => Sys2Proof.Machine.execVSub t d a b m s
  | .vMul t d a b m => Sys2Proof.Machine.execVMul t d a b m s
  | .vFma t d a b m => Sys2Proof.Machine.execVFma t d a b m s
  | .vMin t d a b m => Sys2Proof.Machine.execVMin t d a b m s
  | .vMax t d a b m => Sys2Proof.Machine.execVMax t d a b m s
  | .vAbs t d a m => Sys2Proof.Machine.execVAbs t d a m s
  | .vNeg t d a m => Sys2Proof.Machine.execVNeg t d a m s
  | .vAnd t d a b m => Sys2Proof.Machine.execVAnd t d a b m s
  | .vOr t d a b m => Sys2Proof.Machine.execVOr t d a b m s
  | .vXor t d a b m => Sys2Proof.Machine.execVXor t d a b m s
  | .vShl t d a b m => Sys2Proof.Machine.execVShl t d a b m s
  | .vShr t d a b m => Sys2Proof.Machine.execVShr t d a b m s
  | .vSel t d a b m => Sys2Proof.Machine.execVSel t d a b m s
  | .vExp2 t d a m => Sys2Proof.Machine.execVExp2 t d a m s
  | .vLog2 t d a m => Sys2Proof.Machine.execVLog2 t d a m s
  | .vRcp t d a m => Sys2Proof.Machine.execVRcp t d a m s
  | .vRsq t d a m => Sys2Proof.Machine.execVRsq t d a m s
  | .vCmpEq t d a b m => Sys2Proof.Machine.execVCmpEq t d a b m s
  | .vCmpNe t d a b m => Sys2Proof.Machine.execVCmpNe t d a b m s
  | .vCmpLt t d a b m => Sys2Proof.Machine.execVCmpLt t d a b m s
  | .vCmpLe t d a b m => Sys2Proof.Machine.execVCmpLe t d a b m s
  | .vRotr t d a q m => Sys2Proof.Machine.execVRotr t d a q m s
  | .vRotc t d a q m => Sys2Proof.Machine.execVRotc t d a q m s
  | .vBcr t d a q m => Sys2Proof.Machine.execVBcr t d a q m s
  | .vBcc t d a q m => Sys2Proof.Machine.execVBcc t d a q m s
  | .vScanr t d a m => Sys2Proof.Machine.execVScanr t d a m s
  | .vIota t d m => Sys2Proof.Machine.execVIota t d m s
  | .vSplat t d q m => Sys2Proof.Machine.execVSplat t d q m s
  | .vRedrAdd t d a m => Sys2Proof.Machine.execVRedrAdd t d a m s
  | .vRedrMax t d a m => Sys2Proof.Machine.execVRedrMax t d a m s
  | .vRedrMin t d a m => Sys2Proof.Machine.execVRedrMin t d a m s
  | .vRedcAdd t d a m => Sys2Proof.Machine.execVRedcAdd t d a m s
  | .vRedcMax t d a m => Sys2Proof.Machine.execVRedcMax t d a m s
  | .vRedcMin t d a m => Sys2Proof.Machine.execVRedcMin t d a m s
  | .vPack t d a m => Sys2Proof.Machine.execVPack t d a m s
  | .vUnpack t d a m => Sys2Proof.Machine.execVUnpack t d a m s
  | .vPart t d a q m => Sys2Proof.Machine.execVPart t d a q m s
  | .vSmass t d a b => Sys2Proof.Machine.execVSmass t d a b s
  | .vStub t d a q m => Sys2Proof.Machine.execVStub t d a q m s
  | .vBr t a c off => Sys2Proof.Machine.execVBr t a c off s
  | .vCvt t d a dty sty rnd sat => Sys2Proof.Machine.execVCvt t d a dty sty rnd sat s
  | .fLd t d q => Sys2Proof.Machine.execFLd t d q s
  | .fSt t d q => Sys2Proof.Machine.execFSt t d q s
  | .fMov t d a => Sys2Proof.Machine.execFMov t d a s
  | .fConst t d q => Sys2Proof.Machine.execFConst t d q s
  | .fFit t d a q => Sys2Proof.Machine.execFFit t d a q s
  | .fLen t a q => Sys2Proof.Machine.execFLen t a q s
  | .fDomRestrict t d a q => Sys2Proof.Machine.execFDomRestrict t d a q s
  | .fDomRescale t d a q => Sys2Proof.Machine.execFDomRescale t d a q s
  | .fTrunc t d a q => Sys2Proof.Machine.execFTrunc t d a q s
  | .fAdd t d a b => Sys2Proof.Machine.execFAdd t d a b s
  | .fSub t d a b => Sys2Proof.Machine.execFSub t d a b s
  | .fMul t d a b => Sys2Proof.Machine.execFMul t d a b s
  | .fScal t d a q => Sys2Proof.Machine.execFScal t d a q s
  | .fComp t d a b => Sys2Proof.Machine.execFComp t d a b s
  | .fInt t d a => Sys2Proof.Machine.execFInt t d a s
  | .fDer t d a => Sys2Proof.Machine.execFDer t d a s
  | .fEval t d a b => Sys2Proof.Machine.execFEval t d a b s
  | .fRoot t a q => Sys2Proof.Machine.execFRoot t a q s
  | .fExt t a q => Sys2Proof.Machine.execFExt t a q s
  | .ldqDataArrival core k => Sys2Proof.Machine.execLdqDataArrival core k s
  | .windowRowArrival core w row => Sys2Proof.Machine.execWindowRowArrival core w row s
  | .copyUnitPerformed core u => Sys2Proof.Machine.execCopyUnitPerformed core u s
  | .nestBodyCommand core => Sys2Proof.Machine.execNestBodyCommand core s
  | .commandRun core q => Sys2Proof.Machine.execCommandRun core q s
  | .commandComplete core q => Sys2Proof.Machine.execCommandComplete core q s
  | .spillRefill core q => Sys2Proof.Machine.execSpillRefill core q s
  | .segmentFinalStep core k => Sys2Proof.Machine.execSegmentFinalStep core k s
  | .queueOverflow core e => Sys2Proof.Machine.execQueueOverflow core e s
  | .queueUnderflow core e => Sys2Proof.Machine.execQueueUnderflow core e s
  | .formatQueueOverflow core => Sys2Proof.Machine.execFormatQueueOverflow core s
  | .formatUnderflow core => Sys2Proof.Machine.execFormatUnderflow core s
  | .quotaTimeout core => Sys2Proof.Machine.execQuotaTimeout core s
  | .mailboxStagingOverflow core => Sys2Proof.Machine.execMailboxStagingOverflow core s
  | .awaitWake core => Sys2Proof.Machine.execAwaitWake core s
  | .awaitTimeout core => Sys2Proof.Machine.execAwaitTimeout core s
  | .barrierTimeout core => Sys2Proof.Machine.execBarrierTimeout core s
  | .rslotWaitExpiry core => Sys2Proof.Machine.execRslotWaitExpiry core s
  | .deadlock core => Sys2Proof.Machine.execDeadlock core s
  | .enginePreciseFault core => Sys2Proof.Machine.execEnginePreciseFault core s
  | .supervisorEventPost die => Sys2Proof.Machine.execSupervisorEventPost die s
  | .datapathCheckFault core e code addr => Sys2Proof.Machine.execDatapathCheckFault core e code addr s
  | .layerRollback core => Sys2Proof.Machine.execLayerRollback core s
  | .dump => Sys2Proof.Machine.execDump s
  | .cellctlResume core v => Sys2Proof.Machine.execCellctlResume core v s
  | .cellctlEnterContextHandler core v => Sys2Proof.Machine.execCellctlEnterContextHandler core v s
  | .cellctlResumeCheckpoint core v => Sys2Proof.Machine.execCellctlResumeCheckpoint core v s
  | .cellctlEnterTrap core v => Sys2Proof.Machine.execCellctlEnterTrap core v s
  | .cellctlEndAndDump core v => Sys2Proof.Machine.execCellctlEndAndDump core v s
  | .cellctlEnd core v => Sys2Proof.Machine.execCellctlEnd core v s
  | .schedcmdPreemptCell core v => Sys2Proof.Machine.execSchedcmdPreemptCell core v s
  | .schedcmdPreemptDomain core v => Sys2Proof.Machine.execSchedcmdPreemptDomain core v s
  | .tlbinv core v => Sys2Proof.Machine.execTlbinv core v s
  | .eclaim core v => Sys2Proof.Machine.execEclaim core v s
  | .esatClear core v => Sys2Proof.Machine.execEsatClear core v s
  | .cqctlResume core v => Sys2Proof.Machine.execCqctlResume core v s
  | .cqctlDiscard core v => Sys2Proof.Machine.execCqctlDiscard core v s
  | .ctxrecWrite core v => Sys2Proof.Machine.execCtxrecWrite core v s
  | .ckslotWrite core v => Sys2Proof.Machine.execCkslotWrite core v s
  | .pblenWrite core v => Sys2Proof.Machine.execPblenWrite core v s
  | .chronographControlWrite core n v => Sys2Proof.Machine.execChronographControlWrite core n v s
  | .treeDescriptorWrite core tree n v => Sys2Proof.Machine.execTreeDescriptorWrite core tree n v s
  | .channelRetire core c v => Sys2Proof.Machine.execChannelRetire core c v s
  | .channelDrainEnd c => Sys2Proof.Machine.execChannelDrainEnd c s
  | .peerStoreAck k => Sys2Proof.Machine.execPeerStoreAck k s
  | .reductionInputArrival r => Sys2Proof.Machine.execReductionInputArrival r s
  | .reductionTimeout core => Sys2Proof.Machine.execReductionTimeout core s
  | .hostWrite pa bytes => Sys2Proof.Machine.execHostWrite pa bytes s
  | .hostMemAccess addr data => Sys2Proof.Machine.execHostMemAccess addr data s
  | .launchIssue die => Sys2Proof.Machine.execLaunchIssue die s
  | .cellStart core slot => Sys2Proof.Machine.execCellStart core slot s
  | .iterationEnd core => Sys2Proof.Machine.execIterationEnd core s
  | .cellEnd core => Sys2Proof.Machine.execCellEnd core s
  | .sampleBoundary => Sys2Proof.Machine.execSampleBoundary s
  | .rampViolation die slot => Sys2Proof.Machine.execRampViolation die slot s
  | .throttleHold => Sys2Proof.Machine.execThrottleHold s
  | .staticCharge => Sys2Proof.Machine.execStaticCharge s
  | .priorityPreemption die => Sys2Proof.Machine.execPriorityPreemption die s
  | .timeSlicePreemption die => Sys2Proof.Machine.execTimeSlicePreemption die s
  | .preemptionStop core => Sys2Proof.Machine.execPreemptionStop core s
  | .cellResume core k => Sys2Proof.Machine.execCellResume core k s
  | .hackStop core => Sys2Proof.Machine.execHackStop core s
  | .hackStepStop core => Sys2Proof.Machine.execHackStepStop core s
  | .frameWrite k => Sys2Proof.Machine.execFrameWrite k s
  | .streamOpen req => Sys2Proof.Machine.execStreamOpen req s
  | .streamClose req => Sys2Proof.Machine.execStreamClose req s
  | .attestation req => Sys2Proof.Machine.execAttestation req s
  | .suspend req => Sys2Proof.Machine.execSuspend req s
  | .portQuiesceTimeout port => Sys2Proof.Machine.execPortQuiesceTimeout port s
  | .resume req => Sys2Proof.Machine.execResume req s
  | .dumpBufferRegister req => Sys2Proof.Machine.execDumpBufferRegister req s
  | .imageLoad req => Sys2Proof.Machine.execImageLoad req s
  | .powerOnBoot => Sys2Proof.Machine.execPowerOnBoot s
  | .envelopeEvent => Sys2Proof.Machine.execEnvelopeEvent s
  | .patrolRead loc correctable => Sys2Proof.Machine.execPatrolRead loc correctable s
  | .accessPerformed w => Sys2Proof.Machine.execAccessPerformed w s
  | .matrixUnitPerformed core => Sys2Proof.Machine.execMatrixUnitPerformed core s
  | .fLastStep core => Sys2Proof.Machine.execFLastStep core s
  | .peerAccess a => Sys2Proof.Machine.execPeerAccess a s
  | .peerQuiesce port => Sys2Proof.Machine.execPeerQuiesce port s
  | .peerPortReopen port => Sys2Proof.Machine.execPeerPortReopen port s
  | .laneDegrade port lanes => Sys2Proof.Machine.execLaneDegrade port lanes s
  | .mailboxUnknownOp req => Sys2Proof.Machine.execMailboxUnknownOp req s

end Sys2Proof.Machine
end

