-- ==== Sys2Proof/Machine/Schedule.lean ====
section
/-! DEFINITION. Which agent moves when the agenda names none: the events that may be due in turn, between the walks of the
engines. An event that is not enabled changes nothing. -/

namespace Sys2Proof.Machine

/-- An event of the opcode table, as against an instruction word. -/
def isEvent (i : Instr) : Bool :=
  match i with
  | .cGath .. | .cScat .. | .cDrainSel .. | .cRsend .. | .cRrecv .. | .patchWord .. => false
  | i => i.parts.isNone

/-- What an event does. -/
abbrev Event := State → Host.Outcome State Fault Refusal

/-- An event listed where a condition holds. -/
def when (b : Bool) (i : Event) : List Event := if b then [i] else []

/-- Events that may be due on a core that runs a cell. -/
def cellEvents (k : CoreId) (c : Core) (now : Nat) : List Event :=
  let f := c.cell.flight
  let rows (w : Fin 8) : List Event := match c.cell.roll.win[w].missing with
    | [] => []
    | r :: _ => [execWindowRowArrival k w r]
  when (!f.cops.isEmpty) (execCopyUnitPerformed k .text)
    ++ (List.finRange 8).flatMap rows
    ++ when f.mcmd.isSome (execMatrixUnitPerformed k)
    ++ when f.nest.isSome (execNestBodyCommand k)
    ++ when f.fop.isSome (execFLastStep k)
    ++ when f.fop.isSome (execQueueOverflow k .F)
    ++ when (!f.loads.isEmpty) (execAccessPerformed (.load k))
    ++ when c.cell.raised.isSome (execEnginePreciseFault k)
    ++ (match c.cell.status with
      | .rolling _ => [execLayerRollback k]
      | .halted => [execIterationEnd k, execCellEnd k]
      | _ => [])
    ++ (match c.hackReq with
      | none => []
      | some _ => [execHackStop k, execHackStepStop k])
    ++ when c.leave.isSome (execPreemptionStop k)
    ++ when (2 ^ 24 ≤ now - c.cell.progress) (execDeadlock k)
    ++ (match f.cops with
      | o :: _ => when (o.kind == .rrecv) (execReductionTimeout k)
      | [] => [])

/-- Events that may be due on a core. -/
def coreEvents (k : CoreId) (c : Core) (now : Nat) : List Event :=
  (if c.cell.status == .idle then [] else cellEvents k c now)
    ++ (List.finRange 4).flatMap fun q =>
      if c.cq[q].entries.isEmpty then []
      else [execCommandRun k q, execCopyUnitPerformed k (.command q), execCommandComplete k q]

/-- The core that the k-th image of a die may be given first: its spare, one that its gang has taken or can take, or a free one. -/
def State.resumeCores (s : State) (d : DieId) (i : Nat) : List CoreId :=
  match (s.die d).images[i]? with
  | none => []
  | some g =>
    match g.only, (s.die d).board.find? (·.handle == g.cell.ident.handle) with
    | some k, _ => [k]
    | none, none => []
    | none, some l =>
      let taken (s : State) : List CoreId := match (s.die d).board.find? (·.handle == l.handle) with
        | none => []
        | some m => m.resuming.take 1
      if !recGang l.record then (s.freeOn d l).take 1
      else if !l.resuming.isEmpty then taken s
      else match s.gangCores d l with
        | none => []
        | some t => taken t

/-- Events that may be due on a die: those of its launches, its images, its spilled commands and its ring. -/
def State.dieEvents (s : State) (d : DieId) : List Event :=
  let x := s.die d
  when (!x.sevq.isEmpty) (execSupervisorEventPost d)
    ++ (x.spilled.map fun y => execSpillRefill y.core y.queue)
    ++ when (!x.board.isEmpty) (execLaunchIssue d)
    ++ (x.board.flatMap fun l =>
      if l.waiting.isEmpty || !l.issued then []
      else match (l.gang.filter fun k => s.cores[k].cell.status == .idle) ++ s.freeOn d l with
        | [] => [execPriorityPreemption d, execTimeSlicePreemption d]
        | k :: _ => [execCellStart k l.slot])
    ++ ((x.board.filter fun l => l.askedAt.isSome).map fun l => execRampViolation d l.slot)
    ++ when (x.board.any fun l => !l.issued) (execPriorityPreemption d)
    ++ when (x.board.any fun l => !l.issued) (execTimeSlicePreemption d)
    ++ (List.range x.images.length).flatMap fun i => (s.resumeCores d i).map fun k => execCellResume k i

/-- Events that may be due in the device. -/
def State.deviceEvents (s : State) : List Event :=
  let a := s.aedty
  when (a.phase == 0) execPowerOnBoot
    ++ when (!a.dumps.isEmpty) execDump
    ++ when (!s.mailIdle) execMailbox
    ++ when (a.suspending || a.suspended == 1) (execSuspend 0)
    ++ (List.range a.released.length).map execFrameWrite
    ++ (if a.suspended = 1 then (List.finRange 16).map execPortQuiesceTimeout else [])
    ++ when (!s.stores.isEmpty) (execAccessPerformed (.store 0))
    ++ when (!s.peerStores.isEmpty) (execPeerStoreAck 0)
    ++ when (!s.packets.isEmpty) (execReductionInputArrival (.packet 0))
    ++ (s.draining.map fun d => execChannelDrainEnd d.1)
    ++ ((List.range s.segs.length).zip s.segs).flatMap fun (i, g) =>
      [execCopyUnitPerformed g.core (.segment i), execSegmentFinalStep g.core i]

/-- Every event that may be due. -/
def State.candidates (s : State) : List Event :=
  s.deviceEvents ++ s.dieEvents 0 ++ s.dieEvents 1
    ++ (List.finRange 392).flatMap fun k => coreEvents k s.cores[k] s.now

/-- The event that the next step takes: in every second cycle the candidates have their turn. -/
def State.background (s : State) : Option Event :=
  if s.now % 2 = 0 then none
  else
    let l := s.candidates
    l[s.now / 2 % l.length]?

/-- The boundary of the governor's samples or of the 4,096-cycle counter that falls due by a time, and when (R303, R313). -/
def State.boundary (s : State) (t : Nat) : Option (Event × Nat) :=
  let a := Nat.max s.now (s.gov.sampleAt + Config.cyclesPerSample)
  let b := Nat.max s.now (s.gov.staticAt + 4097)
  if s.aedty.phase != 2 || s.aedty.suspended == 2 || (t < a && t < b) then none
  else if a ≤ b then some (execSampleBoundary, a)
  else some (execStaticCharge, b)

/-- Time passes up to a moment before the agenda's next move. -/
def State.passTo (s : State) (t : Nat) : State :=
  { s.elapse t with
    agenda := match s.agenda with
      | [] => []
      | m :: rest => { m with dt := m.dt - (t - s.now) } :: rest }

/-- The first core from a number on, in turn, whose cell's engines work. -/
def State.nextCore (s : State) (k : CoreId) : Nat → CoreId
  | 0 => k
  | n + 1 => if s.cores[k].cell.status == .running then k else s.nextCore (k + 1) n

/-- The next engine in focus (R7): the engines of a core in turn, then those of the next core that runs a cell. -/
def State.nextFocus (s : State) (f : CoreId × Eng) : CoreId × Eng :=
  if f.2 == .F then (s.nextCore (f.1 + 1) 392, .A) else (f.1, f.2.next)

end Sys2Proof.Machine
end

