-- ==== Sys2Proof/Machine/Step.lean ====
section
/-! DEFINITION. One step of the device: the throttle or a boundary where one is due, else the agenda's next move, background work, or the engine in
focus. -/

namespace Sys2Proof.Machine

/-- An engine walks its next word. -/
def walk (s : State) (k : CoreId) (e : Eng) (defer : Bool) : Host.Outcome State Fault Refusal :=
  match s.find k e defer with
  | .done t => .next t
  | .act i t => exec i t

/-- The next move: the agenda's, else background work, else the engine in focus. -/
def move (s : State) : Host.Outcome State Fault Refusal :=
  match s.agenda with
  | m :: rest =>
    let s := ({ s with agenda := rest } : State).elapse (s.now + m.dt)
    match m.act with
    | .walk k e d => walk s k e d
    | .event i => if isEvent i then exec i s else .next s
  | [] =>
    let s := s.elapse (s.now + 1)
    match s.background with
    | some e => e s
    | none =>
      let f := s.focus
      walk { s with focus := s.nextFocus f } f.1 f.2 false

/-- The cycles that pass before the next move. -/
def State.nextDt (s : State) : Nat :=
  match s.agenda with
  | m :: _ => m.dt
  | [] => 1

/-- One step. The throttle holds the engines as soon as the sample's ticks reach the ceiling (R307), and a boundary takes place at its
time (R303, R313); else the next move is made. -/
def step (s : State) : Host.Outcome State Fault Refusal :=
  if s.aedty.phase == 2 && s.ceilingMet then execThrottleHold s
  else
    match s.boundary (s.now + s.nextDt) with
    | some (e, t) => e (s.passTo t)
    | none => move s

/-- The state with an instruction placed where the next step fetches it (log entry 4): the core in focus runs a user cell whose
text lies at address 0 of domain 0, mapped by a translation in the core's micro-TLB, every engine stands at its entry, and the engine that
acts on the word walks next. -/
def State.withFetchWord (s : State) (nbits w : Nat) : State :=
  let bytes := leBytes ((nbits + 7) / 8) w ++ List.replicate (12 - (nbits + 7) / 8) 0
  let id : Ident := { Ident.none with textlen := 16 }
  let k := s.focus.1
  let core := s.cores[k]
  let page : TlbEntry := { domain := 0, vpn := 0, units := 1, ppn := 0, x := true, w := true, r := true }
  { s with
    agenda := [{ dt := 1, act := .walk k (ownerOf (BitVec.ofNat 32 w)) false }]
    mem := Memory.putList s.mem (locPhys 0) bytes
    cores := s.cores.set k { core with cell := Cell.start .running id s.now, micro := page :: core.micro.take 47 }
    aedty := { s.aedty with phase := 2 } }

end Sys2Proof.Machine
end

