-- ==== Sys2Proof/Safety.lean ====
section
/-! DEFINITION. What a sound state is, and the shapes in which the statements speak of an instruction that executes. -/

namespace Sys2Proof.Machine

/-- The memory keeps its canonical form. -/
def State.MemWf (s : State) : Prop := Memory.wf s.mem = true

/-- A word of an engine may execute: its queues are bound as it uses them (R122) and its tokens are there (R126); u is the
state with the tokens taken. -/
def State.Admits (s : State) (e : Eng) (t : Tok) (uses : List (Fin 16 × Bool)) (u : State) : Prop :=
  s.bindAll e uses = .ok () ∧ ∃ l, s.takeTokens e t = .ok (l, u)

/-- An engine has walked past the word that was executed (R93). -/
def State.Passed (s t : State) (e : Eng) : Prop := (t.path e).walk = (s.path e).walk + 1

/-- A word of A posts nothing, or no access of A is outstanding for its posts to wait for (R127). -/
def State.Calm (s : State) (t : Tok) : Prop := postsOf .A t = [] ∨ s.flight.loads = []

/-! ## Results -/

/-- The state in which an engine looks for its next word: the move is taken from the agenda and its cycles have passed. -/
def State.looks (s : State) (rest : List Move) (dt : Nat) (k : CoreId) (e : Eng) (defer : Bool) : State :=
  { ({ s with agenda := rest } : State).elapse (s.now + dt) with cur := { core := k, eng := e, defer := defer, undo := none } }

/-- op d, a, b completes with the result f gives: the sources are read in order, then the destination is written. -/
def Result3 (mk : Tok → Dst → Src → Src → Instr) (cls : Fin 16) (f : Word → Word → Word) : Prop :=
  ∀ (t : Tok) (d : Dst) (a b : Src) (s s1 s2 s3 s4 : State) (u v : Word),
    s.Admits .A t (Src.uses a ++ Src.uses b ++ Dst.uses d) s1 → s1.src a = .ok (u, s2) → s2.src b = .ok (v, s3) →
    s3.dst d (f u v) = .ok s4 → exec (mk t d a b) s = .next (s4.retire .A t cls)

/-- op d, a completes with a result that is in a relation to its source. -/
def Result2 (mk : Tok → Dst → Src → Instr) (cls : Fin 16) (rel : Word → Word → Prop) : Prop :=
  ∀ (t : Tok) (d : Dst) (a : Src) (s s1 s2 s3 : State) (u r : Word),
    s.Admits .A t (Src.uses a ++ Dst.uses d) s1 → s1.src a = .ok (u, s2) → rel u r →
    s2.dst d r = .ok s3 → exec (mk t d a) s = .next (s3.retire .A t cls)

/-- op d, a, imm completes with the result f gives. -/
def ResultI (mk : Tok → Dst → Src → Word → Instr) (cls : Fin 16) (f : Word → Word → Word) : Prop :=
  ∀ (t : Tok) (d : Dst) (a : Src) (imm : Word) (s s1 s2 s3 : State) (u : Word),
    s.Admits .A t (Src.uses a ++ Dst.uses d) s1 → s1.src a = .ok (u, s2) → s2.dst d (f u imm) = .ok s3 →
    exec (mk t d a imm) s = .next (s3.retire .A t cls)

/-- The places of the one bits of a word, ascending (R103). -/
def onesOf (m : Word) : List Nat := (List.range 64).filter fun i => m.getLsbD i

/-- bext (R103): bit j is the bit of the value at the j-th place of the mask. -/
def extracted (a m r : Word) : Prop :=
  ∀ j, j < 64 → r.getLsbD j = match (onesOf m)[j]? with
    | some i => a.getLsbD i
    | none => false

/-- bdep (R103): a place of the mask takes the bit of the value whose number is the count of the mask's places below it. -/
def deposited (a m r : Word) : Prop :=
  ∀ i, i < 64 → r.getLsbD i = (m.getLsbD i && a.getLsbD ((onesOf m).filter (· < i)).length)

/-! ## Steering words -/

/-- A conditional steering word that its owner executes, once its operand is read as v in the state s2: it goes to the target or
on, and every other engine's outcome queue takes the bit (R94). -/
def State.Steers (s s2 : State) (own : Eng) (i : Instr) (off : Word) (taken : Bool) : Prop :=
  s2.outcomeRoom own = true → ∃ w, exec i s = .next w ∧ s.Passed w own
    ∧ (w.path own).pc = (if taken then s.hostPc own + 4 * off else s.nextPc own)
    ∧ ∀ e, e ≠ own → w.path e = { s.path e with outs := (s.path e).outs ++ [taken] }

/-- The lane condition of v.br (R32, R190): some lane, every lane, no lane, or not every lane differs from zero. -/
def laneCond (c : VCond) (x : Tile) : Prop :=
  match c with
  | .any => ∃ i : Fin 1024, x[i] ≠ 0
  | .all => ∀ i : Fin 1024, x[i] ≠ 0
  | .none => ∀ i : Fin 1024, x[i] = 0
  | .nall => ∃ i : Fin 1024, x[i] = 0

/-- A conditional branch of A with its test. -/
def BranchResult (mk : Tok → Src → Word → Instr) (taken : Word → Bool) : Prop :=
  ∀ (t : Tok) (a : Src) (off v : Word) (s s1 s2 : State), s.cur.eng = .A → s.Admits .A t (Src.uses a) s1 → s.Calm t →
    s1.src a = .ok (v, s2) → s.Steers s2 .A (mk t a off) off (taken v)

/-- Another engine at a conditional steering word takes its oldest outcome bit and goes where it says (R94). -/
def FollowResult (own : Eng) (i : Word → Instr) : Prop :=
  ∀ (off : Word) (s : State) (b : Bool) (rest : List Bool), s.cur.eng ≠ own → (s.path s.cur.eng).outs = b :: rest →
    ∃ w, exec (i off) s = .next w ∧ s.Passed w s.cur.eng
      ∧ (w.path s.cur.eng).pc = (if b then s.hostPc s.cur.eng + 4 * off else s.nextPc s.cur.eng)
      ∧ (w.path s.cur.eng).outs = rest ∧ ∀ e, e ≠ s.cur.eng → w.path e = s.path e

/-! ## Memory words -/

/-- The value that n bytes give: extended by zeros, or by the highest bit (R108). -/
def extended (signed : Bool) (n : Nat) (bs : List Byte) : Word :=
  if signed then (BitVec.ofNat (8 * n) (leNat bs)).signExtend 64 else BitVec.ofNat 64 (leNat bs)

/-- The data that a load of n bytes at p reads: after the checks, and after every earlier load of A (R107, R108, R244). The state
in which its destination is written is u. -/
def State.Loads (s : State) (p : Word) (n : Nat) (bs : List Byte) (u : State) : Prop :=
  ∃ x s1 s2, s.reach p n .load = .ok (x, s1) ∧ s1.performLoads s1.flight.loads.length = .ok s2
    ∧ s2.fetchData p x n = .ok bs ∧ u = (s2.peerReceipt .A x).touched x n

/-- A load whose data arrives at once. -/
def LoadResult (mk : Tok → Dst → Src → Word → Instr) (n : Nat) (signed : Bool) : Prop :=
  ∀ (t : Tok) (d : Dst) (base : Src) (imm b : Word) (bs : List Byte) (s s1 s2 s3 s4 : State),
    s.Admits .A t (Src.uses base ++ Dst.uses d) s1 → s1.src base = .ok (b, s2) →
    s2.Loads (b + imm * BitVec.ofNat 64 n) n bs s3 → s.cur.defer = false →
    s3.dst d (extended signed n bs) = .ok s4 → exec (mk t d base imm) s = .next (s4.retire .A t 2)

/-- An access of A that its word leaves outstanding, as the youngest (R108-R112). -/
def State.leaves (s : State) (l : Load) : State := s.setFlight { s.flight with loads := s.flight.loads ++ [l] }

/-- A load into a register that stays outstanding (R108, R109): the register waits for it, and a word that posts nothing reads nothing
yet. -/
def LoadLater (mk : Tok → Dst → Src → Word → Instr) (n : Nat) (signed : Bool) : Prop :=
  ∀ (t : Tok) (r : Fin 32) (base : Src) (imm b : Word) (x : Nat) (s s1 s2 s3 : State),
    s.Admits .A t (Src.uses base) s1 → s1.src base = .ok (b, s2) → s.xBusy r = false →
    s2.reach (b + imm * BitVec.ofNat 64 n) n .load = .ok (x, s3) → s.cur.defer = true →
    spaceOf (b + imm * BitVec.ofNat 64 n) ≠ 0xF → s.flight.loads.length < 32 →
    ∃ u, u = s3.leaves
        { pc := (s.path .A).pc, addr := b + imm * BitVec.ofNat 64 n, loc := x, n := n, signed := signed, dst := .reg r,
          rmw := none, got := none }
      ∧ exec (mk t (.x r) base imm) s = .next (u.retire .A t 2) ∧ (r ≠ 0 → u.xBusy r = true)
      ∧ (postsOf .A t = [] → (∀ k, (u.retire .A t 2).x k = s.x k) ∧ (u.retire .A t 2).flight = u.flight)

/-- A run-ahead load whose data arrives at once: the value is the queue's youngest entry (R110). -/
def LdqResult (mk : Tok → Fin 16 → Src → Word → Instr) (n : Nat) (signed : Bool) : Prop :=
  ∀ (t : Tok) (q : Fin 16) (base : Src) (imm b : Word) (bs : List Byte) (s s1 s2 s3 : State),
    s.Admits .A t (Src.uses base ++ [(q, true)]) s1 → s1.src base = .ok (b, s2) →
    s2.Loads (b + imm * BitVec.ofNat 64 n) n bs s3 → s.cur.defer = false → s3.roomQ .A q 1 = .ok () →
    ∃ w e, exec (mk t q base imm) s = .next w ∧ s.Passed w .A ∧ w.roll.q[q] = s3.roll.q[q] ++ [e]
      ∧ e.value = extended signed n bs ∧ e.arrived = true ∧ ∀ r, w.x r = s3.x r

/-- A run-ahead load that stays outstanding reserves the queue's youngest entry, whose data has not arrived (R110). -/
def LdqLater (mk : Tok → Fin 16 → Src → Word → Instr) (n : Nat) (signed : Bool) : Prop :=
  ∀ (t : Tok) (q : Fin 16) (base : Src) (imm b : Word) (x : Nat) (s s1 s2 s3 : State),
    s.Admits .A t (Src.uses base ++ [(q, true)]) s1 → s1.src base = .ok (b, s2) →
    s2.reach (b + imm * BitVec.ofNat 64 n) n .load = .ok (x, s3) → s.cur.defer = true →
    spaceOf (b + imm * BitVec.ofNat 64 n) ≠ 0xF → s.flight.loads.length < 32 → s3.roomQ .A q 1 = .ok () →
    ∃ (u : State) (e : QEntry), exec (mk t q base imm) s = .next (u.retire .A t 2) ∧ u.roll.q[q] = s3.roll.q[q] ++ [e] ∧ e.arrived = false
      ∧ u.flight.loads = s.flight.loads ++
        [{ pc := (s.path .A).pc, addr := b + imm * BitVec.ofNat 64 n, loc := x, n := n, signed := signed, dst := .slot q,
           rmw := none, got := none }]
      ∧ ∀ k, u.x k = s.x k

/-- A store of n bytes, after the outstanding loads of its granule (R108, R244): A reads the bytes back at once, no observer outside the
core sees a change yet, and of what A reads only the stored bytes change. In system space the store acts at once. -/
def StoreResult (mk : Tok → Src → Src → Word → Instr) (n : Nat) : Prop :=
  ∀ (t : Tok) (src base : Src) (imm b v : Word) (x : Nat) (s s1 s2 s3 s4 s5 : State),
    s.Admits .A t (Src.uses base ++ Src.uses src) s1 → s1.src base = .ok (b, s2) → s2.src src = .ok (v, s3) →
    s3.reach (b + imm * BitVec.ofNat 64 n) n .store = .ok (x, s4) → s4.storesOut .A < 32 → s4.loadsBefore x n = .ok s5 →
    ∃ w, exec (mk t src base imm) s = .next (w.retire .A t 2) ∧ s.Passed (w.retire .A t 2) .A
      ∧ (∀ r, w.x r = s5.x r) ∧ (∀ k, w.tile k = s.tile k)
      ∧ (spaceOf (b + imm * BitVec.ofNat 64 n) ≠ 0xF →
          (∀ i, i < n → w.peekByte (s.obs .A (b + imm * BitVec.ofNat 64 n + BitVec.ofNat 64 i)) (s5.land s.me x + i)
            = v.extractLsb' (8 * i) 8)
          ∧ (∀ o y, (∀ e a, o ≠ .engine s.cur.core e a) → w.peekByte o y = s5.peekByte o y)
          ∧ (∀ a y, (y < s5.land s.me x ∨ s5.land s.me x + n ≤ y) →
            w.peekByte (.engine s.cur.core .A a) y = s5.peekByte (.engine s.cur.core .A a) y))
      ∧ (spaceOf (b + imm * BitVec.ofNat 64 n) = 0xF →
          w = s5.sysWrite s.dieId (offOf (b + imm * BitVec.ofNat 64 n)) (leBytes n v.toNat) (n + 1))

/-- The old bytes of an atomic at p, read at the granule's home after every earlier load of A and after the writes that have their place
there, and the state u in which the new ones are written (R111-R113). -/
def State.Homes (s : State) (p : Word) (n x : Nat) (old : Nat) (u : State) : Prop :=
  ∃ s1 s2 bs, s.reach p n .atomic = .ok (x, s1) ∧ s1.storesOut .A < 32 ∧ s1.performLoads s1.flight.loads.length = .ok s2
    ∧ u = (s2.peerSend .A x).settle (s2.obs .A p) (s2.land s2.me x) n ∧ u.loadBytes .A p x n = .ok bs ∧ old = leNat bs

/-- An access of A is made at its word: it is not left outstanding, or it writes no register. -/
def State.atOnce (s : State) (d : Dst) : Prop := s.cur.defer = false ∨ ∃ q, d = .push q

/-- An atomic of n bytes: the new value is a function of the old value and the operand, and the old value goes to d. -/
def AmoResult (mk : Tok → Dst → Src → Src → Instr) (n : Nat) (f : Nat → Word → Nat) : Prop :=
  ∀ (t : Tok) (d : Dst) (a b : Src) (p v : Word) (x old : Nat) (s s1 s2 s3 s4 s5 : State),
    s.Admits .A t (Src.uses a ++ Src.uses b ++ Dst.uses d) s1 → s1.src a = .ok (p, s2) → s2.src b = .ok (v, s3) →
    s3.Homes p n x old s4 → s.atOnce d →
    (((s4.writeAt (s4.obs .A p) s4.me x (leBytes n (f old v))).peerReceipt .A x).touched x (2 * n)).dst d
      (BitVec.ofNat 64 old) = .ok s5 →
    exec (mk t d a b) s = .next (s5.retire .A t 2)

/-- An atomic into a register that stays outstanding (R109, R111): its read and its write are made later, together. -/
def AmoLater (mk : Tok → Dst → Src → Src → Instr) (op : AmoOp) : Prop :=
  ∀ (t : Tok) (r : Fin 32) (a b : Src) (p v : Word) (x : Nat) (s s1 s2 s3 s4 : State),
    s.Admits .A t (Src.uses a ++ Src.uses b) s1 → s1.src a = .ok (p, s2) → s2.src b = .ok (v, s3) → s.xBusy r = false →
    s3.storesOut .A < 32 → s3.reach p (AmoOp.size op) .atomic = .ok (x, s4) → s.cur.defer = true → s.flight.loads.length < 32 →
    exec (mk t (.x r) a b) s = .next (((s4.peerSend .A x).leaves
      { pc := (s.path .A).pc, addr := p, loc := x, n := AmoOp.size op, signed := false, dst := .reg r, rmw := some (.amo op v),
        got := none }).retire .A t 2)

/-- A queue takes a command (R132): the cell's domain is below its quota there (R137), the barrier object that is charged can be read
(R133, R295), and a ring entry that the command goes to is not behind a channel that drains (R336). -/
def State.Accepts (s : State) (k : CoreId) (q : Fin 4) (c : Cmd) : Prop :=
  s.atQuota k q = false ∧ s.barFlt (some c.owner) c.bar (s.cmdBytes k c) = none
    ∧ (s.spills k q = true → s.spillDrains k (s.spillPlace (dieOf k)) = false)

/-! ## The C engine -/

/-- An operation of C issues with its fields (R151-R153): C walks on, the operation is the youngest in flight, at the progress that
CPROG keeps for it or at none, and one that starts afresh has charged its bytes to its barrier. -/
def State.IssuesC (s : State) (i : Instr) (t : Tok) (k : CKind) (f : CFields) : Prop :=
  ∃ w o, exec i s = .next w ∧ s.Passed w .C ∧ (w.path .C).pc = s.nextPc .C ∧ w.flight.cops = s.flight.cops ++ [o]
    ∧ o.kind = k ∧ o.f = f ∧ o.posts = t ∧ o.path = s.path .C ∧ o.p = (s.resumesAt (s.path .C).pc).getD 0
    ∧ (s.MemWf → s.resumesAt (s.path .C).pc = none → entryValid f.f4 = true → 0 < s.opBytes s.textAgent k f →
        ∀ x, x = s.land s.me (entryLoc f.f4) → s.poisoned .device x 32 = none →
        w.barObj .device x = BarObj.settled
          { (s.settle .device x 32).barObj .device x with
            pend := ((s.settle .device x 32).barObj .device x).pend + BitVec.ofNat 64 (s.opBytes s.textAgent k f) })

/-- An operation of C resumes, or its barrier object can be read, so that its bytes can be charged (R153, R295). -/
def State.mayCharge (s : State) (k : CKind) (f : CFields) : Prop :=
  s.resumesAt (s.path .C).pc = none → s.barFlt s.me f.f4 (s.opBytes s.textAgent k f) = none

/-- A C word with two queues and the template form of its operation: both issue once a place among the sixteen is free and the
operation passes its checks (R151, R152, R155). -/
def CopyResult (mk : Tok → CForm → Instr) (k : CKind) (fill : Word → Word → BitVec 6 → CFields) : Prop :=
  (∀ (t : Tok) (a b : QSrc) (n : BitVec 6) (x y : Word) (p q : List (Fin 16 × QEntry)) (s s1 s2 s3 : State),
    s.Admits .C t (QSrc.uses a ++ QSrc.uses b) s1 → s1.qsrc .C a = .ok (x, p, s2) → s2.qsrc .C b = .ok (y, q, s3) →
    s3.cBusy < 16 → s3.opCheck s3.textAgent true k (fill x y n) = .ok () → s3.mayCharge k (fill x y n) →
    s.IssuesC (mk t (.direct a b n)) t k (fill x y n))
  ∧ ∀ (t : Tok) (f : CFields) (s s1 : State), s.Admits .C t [] s1 → s1.cBusy < 16 →
    s1.opCheck s1.textAgent false k f = .ok () → s1.mayCharge k f → s.IssuesC (mk t (.image f)) t k f

/-- An operation of C that only a template holds. -/
def ImageResult (mk : Tok → CFields → Instr) (k : CKind) : Prop :=
  ∀ (t : Tok) (f : CFields) (s s1 : State), s.Admits .C t [] s1 → s1.cBusy < 16 →
    s1.opCheck s1.textAgent false k f = .ok () → s1.mayCharge k f → s.IssuesC (mk t f) t k f

/-! ## Tiles -/

/-- The tiles that a word of V reads and writes are under no lease (R128). -/
def State.TilesReady (s : State) (reads : List (Fin 16)) (d : Fin 16) : Prop :=
  (∀ r ∈ reads, s.tileOk .V r false = .ok ()) ∧ s.tileOk .V d true = .ok ()

/-- What a word of V on tiles leaves: its tile's lanes, every other tile, the scalar registers and all memory as they were. -/
def State.TileDone (s w : State) (d : Fin 16) (lane : Nat → W32) : Prop :=
  s.Passed w .V ∧ (∀ n, n < 1024 → (w.tile d).at_ n = lane n) ∧ (∀ e, e ≠ d → w.tile e = s.tile e)
    ∧ (∀ r, w.x r = s.x r) ∧ w.mem = s.mem ∧ w.cell.acc = s.cell.acc

/-- A word of V whose lane n is the value f gives, and whose events are counted lane by lane (R68). -/
def LaneResult (i : Tok → Instr) (reads : List (Fin 16)) (d : Fin 16) (f : State → Nat → W32 × Events) : Prop :=
  ∀ (t : Tok) (s s1 : State), s.Admits .V t [] s1 → s.TilesReady reads d →
    ∃ w, exec (i t) s = .next w ∧ s.TileDone w d (fun n => (f s n).1)
      ∧ w.roll.vsatn = holdAdd s.roll.vsatn ((List.range 1024).map fun n => (f s n).2.sat).sum
      ∧ w.roll.vnann = holdAdd s.roll.vnann ((List.range 1024).map fun n => (f s n).2.nan).sum

/-- A word of V that also pops a value. -/
def LaneResultQ (i : Tok → Instr) (reads : List (Fin 16)) (d q : Fin 16) (f : State → Word → Nat → W32) : Prop :=
  ∀ (t : Tok) (u : Word) (s s1 s2 : State), s.Admits .V t [(q, false)] s1 → s.TilesReady reads d →
    s1.pop .V q = .ok (u, s2) → ∃ w, exec (i t) s = .next w ∧ s.TileDone w d (f s u)

/-- v.ld of elements of n bytes (R179): from an address in a queue, or through a window. -/
def TileLoad (mk : Tok → Fin 16 → VSel → Word → Instr) (n : Nat) (signed : Bool) : Prop :=
  (∀ (t : Tok) (d : Fin 16) (sel : VSel) (row base p : Word) (ps : List (Nat × Nat)) (bs : List Byte) (s s1 s2 s3 : State),
    (∀ x, sel ≠ .win x) → s.Admits .V t (VSel.uses sel) s1 → s1.vAddr sel = .ok (base, s2) → s.TilesReady [] d →
    p = base + row * BitVec.ofNat 64 (64 * n) → s2.rangeV p (1024 * n) n .load = .ok (ps, s3) → s3.storesOut .V < 16 →
    s3.readBy .V p ps = .ok bs → bs.length = 1024 * n →
    (s.misc.vctl = false ∨ row = 0 ∧ ∃ u, s3.vTrailer p bs = .ok u) →
    ∃ w, exec (mk t d sel row) s = .next w ∧ s.TileDone w d fun k => elemLane signed ((bs.drop (n * k)).take n))
  ∧ ∀ (t : Tok) (d : Fin 16) (x : Fin 8) (row : Word) (bs : List Byte) (s s1 : State), s.Admits .V t [] s1 →
    s.TilesReady [] d → s1.windowTile x row n = .ok bs → bs.length = 1024 * n →
    ∃ w, exec (mk t d (.win x) row) s = .next w ∧ s.TileDone w d fun k => elemLane signed ((bs.drop (n * k)).take n)

/-- v.st of elements of n bytes (R179): the low bytes of each lane are stored from the address on, and no observer outside the
core sees them yet. -/
def TileStore (mk : Tok → Fin 16 → VSel → Word → Instr) (n : Nat) : Prop :=
  ∀ (t : Tok) (d : Fin 16) (sel : VSel) (row base p : Word) (ps : List (Nat × Nat)) (s s1 s2 s3 : State),
    (∀ x, sel ≠ .win x) → s.Admits .V t (VSel.uses sel) s1 → s1.vAddr sel = .ok (base, s2) →
    s.tileOk .V d false = .ok () → p = base + row * BitVec.ofNat 64 (64 * n) →
    s2.rangeV p (1024 * n) n .store = .ok (ps, s3) → s3.storesOut .V < 16 →
    exec (mk t d sel row) s = .next ((((s3.countStore .V).storeBy .V ((s3.run .V).issued + 1) p
        ((s.tile d).toList.flatMap fun w => leBytes n w.toNat) ps)).retire .V t 11)
      ∧ ∀ o y, (∀ e a, o ≠ .engine s.cur.core e a) → (((s3.countStore .V).storeBy .V ((s3.run .V).issued + 1) p
        ((s.tile d).toList.flatMap fun w => leBytes n w.toNat) ps).retire .V t 11).peekByte o y = s.peekByte o y

/-! ## Functions -/

/-- A word of F that completes at once: its state before the retirement, its class and units. -/
def FDone (i : Instr) (s u : State) (t : Tok) (cls : Fin 16) (units : Nat) : Prop :=
  exec i s = .next (u.retire .F t cls units)

/-- The sum of f.fit for its coefficient k: the samples of a tile times P(k, j), in ascending order, each step rounded once (R227). -/
def fitSum (x : Tile) (n k : Nat) : Val :=
  (List.range n).foldl (fun s j => r64 (s.add false ((f32Val (x.at_ j)).mul (chebAt n k j)))) .zero

/-- The n coefficients that f.fit computes from a tile (R227). -/
def fitted (x : Tile) (n : Nat) : List Word :=
  (List.range n).map fun k =>
    f64Word (r64 ((if k = 0 then fitSum x n k else two.mul (fitSum x n k)).div (Val.ofInt n)))

/-- No pop or peek of another engine is stalled on a queue (R236). -/
def State.noneWaits (s : State) (q : Fin 16) : Prop :=
  ∀ e st, e ≠ .F → (s.run e).stall = some st → st.why ≠ .qEmpty q ∧ st.why ≠ .slot q

/-- A word of F that stays in flight until its last step (R128, R240): F walks on. -/
def State.Leases (s : State) (i : Instr) (t : Tok) (step : FStep) : Prop :=
  ∃ w o, exec i s = .next w ∧ s.Passed w .F ∧ (w.path .F).pc = s.nextPc .F ∧ w.flight.fop = some o ∧ o.step = step
    ∧ o.posts = t ∧ o.path = s.path .F

/-! ## Steps of the machine -/

/-- A stalled engine whose wait has lasted its limit: on w, since a time, with a limit (R123). -/
def State.Expired (s : State) (e : Eng) (w : Why) : Prop :=
  s.canWalk e = true ∧ s.blocked w = true ∧
    ∃ t0 n, (s.run e).stall = some { why := w, since := t0, limit := some n } ∧ n ≤ s.now - t0

/-- A write of a register that the opcode table lists as a step: A stands at the swr that makes it, and it is performed (R115). -/
def RegisterStep (mk : CoreId → Word → Instr) (r : BitVec 12) (sel : Word → Bool) : Prop :=
  ∀ (k : CoreId) (v : Word) (t : Tok) (a : Src) (s u u1 u2 u3 : State), s.find k .A false = .act (.swr t a r) u →
    u.Admits .A t (Src.uses a) u1 → u1.src a = .ok (v, u2) → sel v = true → u2.writeReg r v = .ok u3 →
    exec (mk k v) s = .next (u3.retire .A t 0)

/-- A write of a word of system space that the opcode table lists as a step: A stands at the 8-byte store that makes it (R108). -/
def SystemStep (mk : CoreId → Word → Instr) (off : Nat) (sel : Word → Bool) : Prop :=
  ∀ (k : CoreId) (v : Word) (t : Tok) (src base : Src) (imm b : Word) (x : Nat) (s u u1 u2 u3 u4 u5 : State),
    s.find k .A false = .act (.stN64 t src base imm) u → u.Admits .A t (Src.uses base ++ Src.uses src) u1 →
    u1.src base = .ok (b, u2) → u2.src src = .ok (v, u3) → b + imm * 8 = 0xF000000000000000 + BitVec.ofNat 64 off →
    sel v = true → u3.reach (b + imm * 8) 8 .store = .ok (x, u4) → u4.storesOut .A < 32 →
    u4.loadsBefore x 8 = .ok u5 → exec (mk k v) s = .next ((u5.sysStore u.dieId off v.toNat).retire .A t 2)

/-- The 8 bytes that stand at a word of system space, as a die reaches it. -/
def State.sysWord (s : State) (d : DieId) (off : Nat) : Nat := leNat (Memory.getList s.mem (locSys d off) 8)

/-- A core's cell has been hack-stopped (R356): frozen, with nothing asked of it, F's instruction abandoned; its dump area holds its
state word, the words its engines would walk next, and its scalar registers. The state word counts the operations in flight, where no
trace record of the stop performs a store first. -/
def State.HackStopped (s w : State) (k : CoreId) : Prop :=
  let t := (s.on k).stopF
  let area := s.hackArea k
  w.cores[k].cell.frozen = true ∧ w.cores[k].hackReq = none ∧ w.cores[k].cell.frozenAt = s.now ∧ w.cores[k].cell.frozenOn = k
    ∧ w.cores[k].cell.roll = t.roll ∧ w.cores[k].cell.flight.fop = none
    ∧ (t.misc.trcauto = false → w.peek .device area 8
        = leBytes 8 (1#8 ++ BitVec.ofNat 8 t.flightList.length ++ t.domain ++ t.cell.ident.cellno : Word).toNat)
    ∧ w.peek .device (area + 8) 40 = ([Eng.A, .C, .M, .V, .F].flatMap fun e => leBytes 8 (t.path e).pc.toNat)
    ∧ ∀ i : Fin 32, w.peek .device (area + 0x80 + 8 * i.val) 8 = leBytes 8 (t.x i).toNat

/-- What a pre-emption step does on a die for a launch that alone waits for cores there, with victims by an order (R320). Nothing, where
the cores that it has or will have and those of all its victims do not suffice. Otherwise, where no victim belongs to a gang and a
free image slot translates for each, the first victims in the order leave, as many as are needed and no other, and their cores are kept
for the launch; and in every case the launch is served as State.preemptFor says. -/
def State.Preempts (s u : State) (i : Instr) (d : DieId) (lt : CoreId → CoreId → Bool) (may : Launch → CoreId → Bool) : Prop :=
  ∀ (l : Launch) (vs : List CoreId), (u.die d).board.filter (fun m => u.ready m && decide (0 < u.needsCores d m)) = [l] →
    vs = sortVictims lt ((List.finRange 392).filter fun k => dieOf k == d && u.mayLeave k && may l k) →
    exec i s = .next (u.preemptFor d l vs)
      ∧ ((u.comingOn d l).length + vs.length < u.needsCores d l → exec i s = .next u)
      ∧ ((u.comingOn d l).length < u.needsCores d l → u.needsCores d l ≤ (u.comingOn d l).length + vs.length →
        (∀ k ∈ vs, recGang u.cores[k].cell.ident.record = false ∧ u.cores[k].enabled = true ∧ u.keptFrom k l = false) →
        (∀ k ∈ vs, ∀ n, 196 ≤ n → n < (u.die d).imgcount.toNat → u.slotPieces k n ≠ none) →
        vs.length ≤ ((List.range (u.die d).imgcount.toNat).filter fun n => decide (196 ≤ n) && !u.slotTaken d n).length →
        ∃ w, exec i s = .next w ∧ ∀ k : CoreId,
          (k ∈ vs.take (u.needsCores d l - (u.comingOn d l).length) →
            (∃ n, w.cores[k].leave = some (some n) ∧ 196 ≤ n ∧ n < (u.die d).imgcount.toNat) ∧ w.cores[k].keep = some l.handle)
          ∧ (k ∉ vs.take (u.needsCores d l - (u.comingOn d l).length) → w.cores[k].leave = u.cores[k].leave))

/-- What a boundary of static power adds to a domain's account from one core (R313): the core's pending charges of the domain, the cycles
of F's instruction in flight that are not charged yet, and ESTATIC where the domain holds the core. -/
def State.dueFrom (s : State) (k : CoreId) (d : BitVec 16) : Nat :=
  if s.cores[k].enabled then
    ((s.cores[k].pending.filter fun p => p.1 == d).map (·.2)).sum
      + (if s.cores[k].cell.ident.domain = d then s.unpaidF k else 0) + (if s.holder k = d then s.gov.use.estatic.toNat else 0)
  else 0

/-- What such a boundary adds to a domain's account from every core (R313). -/
def State.due (s : State) (d : BitVec 16) : Nat := ((List.finRange 392).map fun k => s.dueFrom k d).sum

/-- A request of the mailbox is answered with a status: its reply is there, the mailbox is not busy, and vector 2 is signalled
(R369). -/
def State.Answers (s w : State) (status : BitVec 8) : Prop :=
  w.aedty.mailReply = status.setWidth 128 ∧ w.mailIdle = true ∧ w.aedty.msix = s.aedty.msix ++ [2]

/-- The mailbox holds a request that is not answered yet (R369). -/
def State.Holds (s : State) (req : BitVec 512) : Prop := s.mailIdle = false ∧ s.aedty.mailReq = req

/-- A mailbox operation as the host begins it (R369): with busy clear the doorbell submits the request and sets busy, and the Aedty core
does nothing yet; with busy set, a doorbell for another request is ignored. -/
def MailOp (mk : BitVec 512 → Instr) (sel : State → BitVec 512 → Prop) : Prop :=
  ∀ (s : State) (req : BitVec 512), sel s req →
    (s.mailIdle = true → ∃ w, exec (mk req) s = .next w ∧ w.Holds req
      ∧ w = { s with aedty := { s.aedty with mailReq := w.aedty.mailReq, mailStatus := w.aedty.mailStatus } })
    ∧ (s.mailIdle = false → s.aedty.mailReq ≠ req → exec (mk req) s = .next s)

/-! ## Frames -/

/-- What the integer instructions of A leave alone: everything of the cell but its scalar registers, its queues, its tokens, A's path
and running state, A's outstanding loads and the time of the last progress; of the core beside, everything but its pending charges; all
other cores, every die, and the rest of the device but the stores' scopes, the governor's sums and the memory, of which the statement
speaks. -/
def State.KeepsAllButA (s t : State) : Prop :=
  t.dies = s.dies ∧ t.peerStores = s.peerStores ∧ t.aedty = s.aedty ∧ t.ports = s.ports ∧ t.now = s.now ∧ t.cur = s.cur
    ∧ (∀ k, k ≠ s.cur.core → t.cores[k] = s.cores[k])
    ∧ t.core = { s.core with cell := t.cell, pending := t.core.pending }
    ∧ t.cell = { s.cell with
        roll := { s.roll with
          x := t.roll.x, q := t.roll.q, tok := t.roll.tok, paths := { s.roll.paths with a := t.roll.paths.a } }
        run := { s.cell.run with a := t.cell.run.a }
        flight := { s.flight with loads := t.flight.loads }
        progress := t.cell.progress }

/-- An integer instruction of A (R100, R104): its destination and the queues it uses. -/
def integerForm : Instr → Option (Dst × List (Fin 16 × Bool))
  | .add _ d a b | .sub _ d a b | .mul _ d a b | .mulh _ d a b | .mulhn _ d a b | .div _ d a b | .divn _ d a b
  | .rem _ d a b | .remn _ d a b | .and _ d a b | .or _ d a b | .xor _ d a b | .andn _ d a b | .shl _ d a b
  | .shr _ d a b | .sra _ d a b | .min _ d a b | .max _ d a b | .minn _ d a b | .maxn _ d a b | .bext _ d a b
  | .bdep _ d a b | .slt _ d a b | .sltn _ d a b | .seq _ d a b | .addS32 _ d a b | .subS32 _ d a b | .mulS32 _ d a b
  | .shlS32 _ d a b | .shrS32 _ d a b | .sraS32 _ d a b => some (d, Src.uses a ++ Src.uses b ++ Dst.uses d)
  | .sel _ d a b => some (d, Src.uses a ++ Src.uses b ++ Dst.usesRead d)
  | .clz _ d a | .ctz _ d a | .popc _ d a => some (d, Src.uses a ++ Dst.uses d)
  | .addImm _ d a _ | .addS32Imm _ d a _ | .mulImm _ d a _ | .andImm _ d a _ | .orImm _ d a _ | .xorImm _ d a _
  | .shlImm _ d a _ | .shrImm _ d a _ | .sraImm _ d a _ | .sltImm _ d a _ | .sltnImm _ d a _ | .seqImm _ d a _ =>
    some (d, Src.uses a ++ Dst.uses d)
  | .li _ d _ => some (d, Dst.uses d)
  | _ => none

end Sys2Proof.Machine
end

