-- ==== Sys2Proof/Certificates/Slice0/Obligations.lean ====
section
/-! DEFINITION. The statements for the provers. -/

open Sys2Proof Sys2Proof.Machine


/-! ## Integer arithmetic of A -/

/-- R100, R99: the two-source integer instructions on 64 bits, wherever their words execute: each operand in the order of
R28, then the result, computed modulo 2^64, written to the destination; mulh and mulhn take bits 127:64 of the product.
R100: clz and ctz count the zero bits above the highest and below the lowest one bit, 64 where there is none; popc counts
the one bits.
R100, R28: sel reads its two sources and then the old value of its destination, and writes the first source where that
value is not zero. -/
def Obligations.IntegerResults : Prop :=
  (Result3 .add 0 (fun u v => u + v) ∧ Result3 .sub 0 (fun u v => u - v) ∧ Result3 .mul 1 (fun u v => u * v)
      ∧ Result3 .mulh 1 (fun u v => (u.signExtend 128 * v.signExtend 128).extractLsb' 64 64)
      ∧ Result3 .mulhn 1 (fun u v => (u.setWidth 128 * v.setWidth 128).extractLsb' 64 64)
      ∧ Result3 .and 0 (fun u v => u &&& v) ∧ Result3 .or 0 (fun u v => u ||| v) ∧ Result3 .xor 0 (fun u v => u ^^^ v)
      ∧ Result3 .andn 0 (fun u v => u &&& ~~~ v)
      ∧ Result3 .min 0 (fun u v => if u.slt v then u else v) ∧ Result3 .max 0 (fun u v => if u.slt v then v else u)
      ∧ Result3 .minn 0 (fun u v => if u.ult v then u else v) ∧ Result3 .maxn 0 (fun u v => if u.ult v then v else u)
      ∧ Result3 .slt 0 (fun u v => if u.slt v then 1 else 0) ∧ Result3 .sltn 0 (fun u v => if u.ult v then 1 else 0)
      ∧ Result3 .seq 0 (fun u v => if u = v then 1 else 0))
  ∧
  (Result2 .clz 0 (fun u r => r.toNat ≤ 64 ∧ (∀ i, 64 - r.toNat ≤ i → u.getLsbD i = false)
        ∧ (r.toNat < 64 → u.getLsbD (63 - r.toNat) = true))
      ∧ Result2 .ctz 0 (fun u r => r.toNat ≤ 64 ∧ (∀ i, i < r.toNat → u.getLsbD i = false)
        ∧ (r.toNat < 64 → u.getLsbD r.toNat = true))
      ∧ Result2 .popc 0 (fun u r => r.toNat = (onesOf u).length))
  ∧
  (∀ (t : Tok) (d : Dst) (a b : Src) (s s1 s2 s3 s4 s5 : State) (u v c : Word),
      s.Admits .A t (Src.uses a ++ Src.uses b ++ Dst.usesRead d) s1 → s1.src a = .ok (u, s2) → s2.src b = .ok (v, s3) →
      s3.dstRead d = .ok (c, s4) → s4.dst d (if c = 0 then v else u) = .ok s5 →
      exec (.sel t d a b) s = .next (s5.retire .A t 0))

/-- R101: quotients and remainders, signed and natural, for every pair of operands; division never faults.
R102: the shifts; the amount is bits 5:0 of the second source, and bits 4:0 for the .s32 forms, which shift bits 31:0 and
sign-extend the 32-bit result. -/
def Obligations.DivisionAndShiftResults : Prop :=
  (Result3 .div 1 (fun u v =>
        if v = 0 then BitVec.ofInt 64 (-1)
        else if u.toInt = -2 ^ 63 ∧ v.toInt = -1 then BitVec.ofInt 64 (-2 ^ 63)
        else BitVec.ofInt 64 (u.toInt.tdiv v.toInt))
      ∧ Result3 .rem 1 (fun u v =>
        if v = 0 then u
        else if u.toInt = -2 ^ 63 ∧ v.toInt = -1 then 0
        else BitVec.ofInt 64 (u.toInt - v.toInt * u.toInt.tdiv v.toInt))
      ∧ Result3 .divn 1 (fun u v => if v = 0 then BitVec.allOnes 64 else BitVec.ofNat 64 (u.toNat / v.toNat))
      ∧ Result3 .remn 1 (fun u v => if v = 0 then u else BitVec.ofNat 64 (u.toNat % v.toNat)))
  ∧
  (Result3 .shl 0 (fun u v => u <<< (v.extractLsb' 0 6).toNat) ∧ Result3 .shr 0 (fun u v => u >>> (v.extractLsb' 0 6).toNat)
      ∧ Result3 .sra 0 (fun u v => u.sshiftRight (v.extractLsb' 0 6).toNat)
      ∧ Result3 .shlS32 0 (fun u v => (u.extractLsb' 0 32 <<< (v.extractLsb' 0 5).toNat).signExtend 64)
      ∧ Result3 .shrS32 0 (fun u v => (u.extractLsb' 0 32 >>> (v.extractLsb' 0 5).toNat).signExtend 64)
      ∧ Result3 .sraS32 0 (fun u v => ((u.extractLsb' 0 32).sshiftRight (v.extractLsb' 0 5).toNat).signExtend 64))

/-- R99: add.s32, sub.s32 and mul.s32 take bits 31:0 of each source, compute modulo 2^32 and sign-extend.
R104, R118: the instructions with an immediate have the effects of R100 with the immediate as second source, li writes
it, and nop has no effect. -/
def Obligations.ImmediateResults : Prop :=
  (Result3 .addS32 0 (fun u v => ((u + v).extractLsb' 0 32).signExtend 64)
      ∧ Result3 .subS32 0 (fun u v => ((u - v).extractLsb' 0 32).signExtend 64)
      ∧ Result3 .mulS32 1 (fun u v => ((u * v).extractLsb' 0 32).signExtend 64))
  ∧
  (ResultI .addImm 0 (fun u i => u + i) ∧ ResultI .addS32Imm 0 (fun u i => ((u + i).extractLsb' 0 32).signExtend 64)
      ∧ ResultI .mulImm 1 (fun u i => u * i) ∧ ResultI .andImm 0 (fun u i => u &&& i) ∧ ResultI .orImm 0 (fun u i => u ||| i)
      ∧ ResultI .xorImm 0 (fun u i => u ^^^ i) ∧ ResultI .shlImm 0 (fun u i => u <<< (i.extractLsb' 0 6).toNat)
      ∧ ResultI .shrImm 0 (fun u i => u >>> (i.extractLsb' 0 6).toNat)
      ∧ ResultI .sraImm 0 (fun u i => u.sshiftRight (i.extractLsb' 0 6).toNat)
      ∧ ResultI .sltImm 0 (fun u i => if u.slt i then 1 else 0) ∧ ResultI .sltnImm 0 (fun u i => if u.ult i then 1 else 0)
      ∧ ResultI .seqImm 0 (fun u i => if u = i then 1 else 0)
      ∧ (∀ (t : Tok) (d : Dst) (imm : Word) (s s1 s2 : State), s.Admits .A t (Dst.uses d) s1 → s1.dst d imm = .ok s2 →
          exec (.li t d imm) s = .next (s2.retire .A t 0))
      ∧ (∀ (t : Tok) (s s1 : State), s.Admits .A t [] s1 → exec (.nop t) s = .next (s1.retire .A t 0)))

/-- R103: bext packs the bits of the first source at the places of the mask's one bits; bdep spreads them there. -/
def Obligations.BitFieldResults : Prop :=
  ∀ (t : Tok) (d : Dst) (a b : Src) (s s1 s2 s3 s4 : State) (u v r : Word),
    s.Admits .A t (Src.uses a ++ Src.uses b ++ Dst.uses d) s1 → s1.src a = .ok (u, s2) → s2.src b = .ok (v, s3) →
    s3.dst d r = .ok s4 →
    (extracted u v r → exec (.bext t d a b) s = .next (s4.retire .A t 1))
      ∧ (deposited u v r → exec (.bdep t d a b) s = .next (s4.retire .A t 1))

/-- R97, R98: a source that is a register reads it, x0 as zero; a register destination takes the value, x0 discards it; a register
that waits for a load is not read or written yet: the word waits.
R20, R98, R121, R123, R127: a pop selector takes the head of its queue, and a peek selector reads it and leaves it; a push selector
appends the value, after A's earlier accesses. An empty or a full queue makes the word wait, and so does a reserved slot whose data
has not arrived. -/
def Obligations.RegisterOperands : Prop :=
  (∀ (s : State) (r : Fin 32) (v : Word), s.xBusy r = false →
    s.src (.x r) = .ok (s.x r, s) ∧ (r = 0 → s.src (.x r) = .ok (0, s) ∧ s.dst (.x r) v = .ok s)
      ∧ ∃ t, s.dst (.x r) v = .ok t ∧ (r ≠ 0 → t.x r = v) ∧ (∀ k, k ≠ r → t.x k = s.x k) ∧ t.mem = s.mem ∧ t.roll.q = s.roll.q)
  ∧ (∀ (s : State) (r : Fin 32) (v : Word), s.xBusy r = true →
    s.src (.x r) = .error (.wait .data none) ∧ s.dst (.x r) v = .error (.wait .data none)
      ∧ s.dstRead (.x r) = .error (.wait .data none))
  ∧ ∀ (s : State) (q : Fin 16) (v : Word), s.qLeased .A q = false →
    (∀ e rest, s.roll.q[q] = e :: rest → e.arrived = true →
        (∃ t, s.src (.pop q) = .ok (e.value, t) ∧ s.dstRead (.push q) = .ok (e.value, t) ∧ t.roll.q[q] = rest
          ∧ (∀ k, k ≠ q → t.roll.q[k] = s.roll.q[k]) ∧ (∀ r, t.x r = s.x r) ∧ t.mem = s.mem)
        ∧ ∃ t, s.src (.peek q) = .ok (e.value, t) ∧ t.roll.q = s.roll.q ∧ (∀ r, t.x r = s.x r) ∧ t.mem = s.mem)
      ∧ (s.roll.q[q] = [] → s.src (.pop q) = .error (.wait (.qEmpty q) s.qlimit)
        ∧ s.src (.peek q) = .error (.wait (.qEmpty q) s.qlimit))
      ∧ (∀ e rest, s.roll.q[q] = e :: rest → e.arrived = false →
        s.src (.pop q) = .error (.wait (.slot q) none) ∧ s.src (.peek q) = .error (.wait (.slot q) none))
      ∧ (∀ u, s.roll.q[q].length < 4 → s.drain .A = .ok u →
        ∃ t e, s.dst (.push q) v = .ok t ∧ t.roll.q[q] = u.roll.q[q] ++ [e] ∧ e.value = v ∧ e.arrived = true
          ∧ (∀ k, k ≠ q → t.roll.q[k] = u.roll.q[k]) ∧ (∀ r, t.x r = u.x r) ∧ t.mem = u.mem)
      ∧ (4 ≤ s.roll.q[q].length → s.dst (.push q) v = .error (.wait (.qFull q) s.qlimit))

/-- R99, R100: an integer instruction of a running cell that completes without a fault changes, of the scalar registers, only the one it
names (and, where it pushes or posts, those that outstanding loads of A fill), of the queues only those it names (and those that such
loads fill), and of the rest of the cell only A's own path and running state, its tokens, A's outstanding loads and the time of the last
progress; of its core beside, only the pending charges; no other core and no die changes, and no byte of memory, where no atomic of A
is outstanding. -/
def Obligations.IntegerFrame : Prop :=
  ∀ (i : Instr) (d : Dst) (uses : List (Fin 16 × Bool)) (s t : State),
    integerForm i = some (d, uses) → exec i s = .next t → s.Passed t .A → s.cell.status = .running → t.cell.status = .running →
    s.KeepsAllButA t
      ∧ (∀ r, d ≠ .x r → (∀ l ∈ s.flight.loads, l.dst ≠ .reg r) → t.x r = s.x r)
      ∧ (∀ q, (∀ p, (q, p) ∉ uses) → (∀ l ∈ s.flight.loads, l.dst ≠ .slot q) → t.roll.q[q] = s.roll.q[q])
      ∧ ((∀ l ∈ s.flight.loads, l.rmw = none) → t.mem = s.mem ∧ t.poison = s.poison ∧ t.pubs = s.pubs
        ∧ ∀ o x, (∀ k e a, o ≠ .engine k e a) → t.peekByte o x = s.peekByte o x)

/-! ## Control flow -/

/-- R106, R94, R190: a conditional branch of A, and v.br of V, goes to its own address plus four times its offset where its test
holds of the value it reads, and on where it does not; the outcome goes to the other four engines.
R94: an engine that does not own a conditional steering word takes the oldest bit of its outcome queue and follows it; with
none there it waits. -/
def Obligations.BranchResults : Prop :=
  (BranchResult .beq (fun v => v = 0) ∧ BranchResult .bne (fun v => v ≠ 0) ∧ BranchResult .blt (fun v => v.toInt < 0)
      ∧ BranchResult .bge (fun v => 0 ≤ v.toInt) ∧ BranchResult .bgt (fun v => 0 < v.toInt)
      ∧ BranchResult .ble (fun v => v.toInt ≤ 0)
      ∧ ∀ (t : Tok) (a : Fin 16) (c : VCond) (off : Word) (s s1 : State), s.cur.eng = .V → s.Admits .V t [] s1 →
          s.tileLeased .V a false = false →
          ∀ b : Bool, (b = true ↔ laneCond c (s.tile a)) → s.Steers s1 .V (.vBr t a c off) off b)
  ∧
  ((∀ (t : Tok) (a : Src), FollowResult .A (.beq t a) ∧ FollowResult .A (.bne t a) ∧ FollowResult .A (.blt t a)
        ∧ FollowResult .A (.bge t a) ∧ FollowResult .A (.bgt t a) ∧ FollowResult .A (.ble t a))
      ∧ (∀ (t : Tok) (a : Fin 16) (c : VCond), FollowResult .V (.vBr t a c))
      ∧ ∀ (t : Tok) (a : Src) (off : Word) (s : State), s.cur.eng ≠ .A → (s.path s.cur.eng).outs = [] →
          ∃ w, exec (.beq t a off) s = .next w ∧ ∀ e, w.path e = s.path e)

/-- R106, R95: jmp goes to its target in every engine; call pushes the address of the word after it on the engine's link stack,
writes it to x31 in A, and goes to its target; ret pops the link stack and goes to the address popped, which x31 must equal in A.
R95: a call of A with sixteen links takes the link-depth fault 1, a ret with none 2, and a ret whose address x31 does not
equal 3. -/
def Obligations.JumpsAndLinks : Prop :=
  ((∀ (t : Tok) (off : Word) (s s1 : State), (s.cur.eng = .A → s.Admits .A t [] s1 ∧ s.Calm t) →
        ∃ w, exec (.jmp t off) s = .next w ∧ s.Passed w s.cur.eng
          ∧ (w.path s.cur.eng).pc = s.hostPc s.cur.eng + 4 * off ∧ (∀ e, e ≠ s.cur.eng → w.path e = s.path e))
      ∧ (∀ (t : Tok) (off : Word) (s s1 : State), s.cur.eng = .A → s.Admits .A t [] s1 → s.Calm t → s.xBusy 31 = false →
          (s.path .A).links.length < 16 →
          ∃ w, exec (.call t off) s = .next w ∧ s.Passed w .A ∧ (w.path .A).pc = s.hostPc .A + 4 * off
            ∧ (w.path .A).links = s.nextPc .A :: (s.path .A).links ∧ w.x 31 = s.nextPc .A
            ∧ (∀ r, r ≠ 31 → w.x r = s.x r) ∧ ∀ e, e ≠ .A → w.path e = s.path e)
      ∧ (∀ (t : Tok) (off : Word) (s : State), s.cur.eng ≠ .A → (s.path s.cur.eng).walk < (s.path .A).walk →
          ∃ w, exec (.call t off) s = .next w ∧ s.Passed w s.cur.eng ∧ (w.path s.cur.eng).pc = s.hostPc s.cur.eng + 4 * off
            ∧ (w.path s.cur.eng).links = s.nextPc s.cur.eng :: (s.path s.cur.eng).links ∧ ∀ r, w.x r = s.x r)
      ∧ (∀ (t : Tok) (s s1 : State) (ra : Word) (rest : List Word), s.cur.eng = .A → s.Admits .A t [] s1 → s.Calm t → s.xBusy 31 = false →
          (s.path .A).links = ra :: rest → s.x 31 = ra →
          ∃ w, exec (.ret t) s = .next w ∧ s.Passed w .A ∧ (w.path .A).pc = ra ∧ (w.path .A).links = rest
            ∧ (∀ r, w.x r = s.x r) ∧ ∀ e, e ≠ .A → w.path e = s.path e)
      ∧ (∀ (t : Tok) (s : State) (ra : Word) (rest : List Word), s.cur.eng ≠ .A →
          (s.path s.cur.eng).walk < (s.path .A).walk → (s.path s.cur.eng).links = ra :: rest →
          ∃ w, exec (.ret t) s = .next w ∧ s.Passed w s.cur.eng ∧ (w.path s.cur.eng).pc = ra
            ∧ (w.path s.cur.eng).links = rest ∧ ∀ e, e ≠ s.cur.eng → w.path e = s.path e))
  ∧
  (∀ (t : Tok) (off : Word) (s s1 : State), s.cur.eng = .A → s.Admits .A t [] s1 → s.xBusy 31 = false →
      ((s.path .A).links.length ≥ 16 →
          exec (.call t off) s = .next ((s.undoTemplate .A s.cur.undo).fault .A { kind := .linkDepth, code := 1 }))
        ∧ ((s.path .A).links = [] →
          exec (.ret t) s = .next ((s.undoTemplate .A s.cur.undo).fault .A { kind := .linkDepth, code := 2 }))
        ∧ ∀ ra rest, (s.path .A).links = ra :: rest → s.x 31 ≠ ra →
          exec (.ret t) s = .next ((s.undoTemplate .A s.cur.undo).fault .A { kind := .linkDepth, code := 3 }))

/-! ## Exceptions -/

/-- R116, R283, R285, R286: trap, in a cell whose text has a handler that the route of kind 0 names, takes the exception: the EPC
registers take each engine's address (A's is the word after the trap), TRAPCAUSE takes ACT, the mode, A's code, kind 0 and the
trap's code, the paths are set aside, every engine starts at HTRAP with nothing walked, held or owed, the record stands at
fault-page offset 0x200, and the scalar registers and tiles stay.
R116, R286, R287: a trap with no handler, with its route bit 0, or while the trap handler runs is reported to the supervisor:
the cell of a user is held and the die's event queue takes an event of type 1, or of type 2 for a double fault, with the record;
a double fault leaves the EPC registers and TRAPCAUSE. -/
def Obligations.TrapEntry : Prop :=
  (∀ (t : Tok) (code : BitVec 18) (s s1 : State) (h : Word), s.Admits .A t [] s1 → s.cell.raised = none →
      s.flight.quiet = true → s.flight.fop = none → s.flight.loads = [] → s.cell.traps.active = false → s.trapEntry = some h →
      s.cell.traps.vec.getLsbD 0 = true → s.misc.trcauto = false →
      ∃ (w : State) (beat : BitVec 48), exec (.trap t code) s = .next w
        ∧ w.cell.traps.cause = 1#1 ++ BitVec.ofBool s.supv ++ 0#3 ++ 0#3 ++ 0#8 ++ 0#16 ++ code.setWidth 32
        ∧ w.cell.traps.epc = ⟨s.nextPc .A &&& ~~~3#64, (s.path .C).pc &&& ~~~3#64, (s.path .M).pc &&& ~~~3#64,
            (s.path .V).pc &&& ~~~3#64, (s.path .F).pc &&& ~~~3#64⟩
        ∧ (∃ p, w.cell.traps.aside = some p
            ∧ p.a = { s.path .A with pc := s.nextPc .A, walk := (s.path .A).walk + 1, exts := [] }
            ∧ ∀ e, e ≠ .A → p.get e
              = { s.path e with walk := (s.path e).walk - (s.path e).exts.length, exts := [] })
        ∧ (∀ e, w.path e = { pc := h, walk := 0, exts := [], links := [], outs := [], halted := false })
        ∧ (∀ r, w.x r = s.x r) ∧ (∀ k, w.tile k = s.tile k) ∧ w.cell.status = s.cell.status
        ∧ (s.MemWf → w.peek .device (locPad s.cur.core 0x17F200) 64
            = recordBytes (trapRecord { kind := .software, code := code.setWidth 32 } .A (s.path .A).pc beat s.supv)))
  ∧
  (∀ (t : Tok) (code : BitVec 18) (s s1 : State), s.Admits .A t [] s1 → s.cell.raised = none →
      s.flight.quiet = true → s.flight.fop = none → s.flight.loads = [] → s.misc.trcauto = false → s.supv = false →
      (s.trapEntry = none ∨ s.cell.traps.vec.getLsbD 0 = false ∨ s.cell.traps.active = true) →
      ∃ (w : State) (h : Hold) (ev : SupEvent) (beat : BitVec 48), exec (.trap t code) s = .next w ∧ w.cell.status = .held h
        ∧ h.flt = { kind := .software, code := code.setWidth 32 } ∧ h.eng = .A ∧ h.pc = (s.path .A).pc
        ∧ h.double = s.cell.traps.active ∧ h.resume.a = s.nextPc .A ∧ (∀ e, e ≠ .A → h.resume.get e = (s.path e).pc)
        ∧ (w.die s.dieId).sevq = (s.die s.dieId).sevq ++ [ev]
        ∧ ev.head.extractLsb' 0 8 = (if s.cell.traps.active then 2 else 1)
        ∧ ev.record = trapRecord { kind := .software, code := code.setWidth 32 } .A (s.path .A).pc beat false
        ∧ (s.cell.traps.active = true → w.cell.traps = s.cell.traps))

/-- R117, R286: eret, while the trap handler runs, restores the paths set aside, each engine's at its EPC register, and clears ACT;
the registers, tiles, queues and memory that the handler left stay. While none runs it is the privilege fault with code 3. That an engine
whose path was set aside at a halt is not halted after the return is the model's choice (log entry 10): R117 does not say it. -/
def Obligations.EretReturns : Prop :=
  ∀ (t : Tok) (s s1 : State), s.Admits .A t [] s1 →
    (∀ p, s.cell.traps.active = true → s.cell.traps.aside = some p → s.Calm t →
        ∃ w, exec (.eret t) s = .next w ∧ w.cell.traps.cause = s.cell.traps.cause &&& 0x7FFFFFFFFFFFFFFF
          ∧ w.cell.traps.aside = none ∧ w.cell.traps.epc = s.cell.traps.epc ∧ w.cell.traps.vec = s.cell.traps.vec
          ∧ (∀ e, w.path e = { p.get e with pc := s.cell.traps.epc.get e, halted := false })
          ∧ (∀ r, w.x r = s.x r) ∧ (∀ k, w.tile k = s.tile k) ∧ w.roll.q = s1.roll.q ∧ w.mem = s.mem)
      ∧ (s.cell.traps.active = false →
        exec (.eret t) s = .next ((s.undoTemplate .A s.cur.undo).fault .A { kind := .privilege, code := 3 }))

/-- R25, R89, R271, R276: an engine other than A that reaches halt stops there for good, and at lcmt or rply it stands; neither
changes any path's address. While a context handler runs, lcmt and halt in A are the privilege fault with code 5; while none runs,
rply is the privilege fault with code 4.
R271, R89: lcmt, when the engines stand at it and their work is done, and halt, when they have reached it, commit: DEPTH falls to
0, the checkpoint's number rises by one, the barrier log and the mailbox staging are empty, and the checkpoint is the state as it
stands; after lcmt every engine goes on at the word after it, and after halt every engine is at the entry with nothing walked and
the iteration or the cell ends.
R276, R270: rply, when every engine stands at it, A's loads are performed and no segment copy of the cell is in flight, restores the
checkpoint, clears ACTIVE and raises the count of replays; DEPTH, the checkpoint's number and the barrier log stay. -/
def Obligations.HoldingWords : Prop :=
  (∀ (t : Tok) (s : State),
    (s.cur.eng ≠ .A →
        (∃ w, exec (.halt t) s = .next w ∧ w.path s.cur.eng = { s.path s.cur.eng with halted := true }
          ∧ ∀ e, e ≠ s.cur.eng → w.path e = s.path e)
        ∧ (∃ w, exec (.lcmt t) s = .next w ∧ ∀ e, w.path e = s.path e)
        ∧ ∃ w, exec (.rply t) s = .next w ∧ ∀ e, w.path e = s.path e)
      ∧ ∀ s1, s.cur.eng = .A → s.Admits .A t [] s1 →
        (s.cell.ctx.active = true →
          exec (.lcmt t) s = .next ((s.undoTemplate .A s.cur.undo).fault .A { kind := .privilege, code := 5 })
            ∧ exec (.halt t) s = .next ((s.undoTemplate .A s.cur.undo).fault .A { kind := .privilege, code := 5 }))
          ∧ (s.cell.ctx.active = false →
            exec (.rply t) s = .next ((s.undoTemplate .A s.cur.undo).fault .A { kind := .privilege, code := 4 })))
    ∧ ((∀ (t : Tok) (s s1 s2 : State), s.cur.eng = .A → s.Admits .A t [] s1 → s.cell.ctx.active = false →
      s1.performLoads s1.flight.loads.length = .ok s2 → s2.peersAcked s (fun _ => true) = .ok () → s2.workDone = true →
      s2.workOut = true → s2.versionDrains = false → s2.versionFlt = none → s2.stagingRoom = true →
      (s2.allStand = true → ∃ w, exec (.lcmt t) s = .next w ∧ w.cell.ctx.depth = 0
          ∧ w.cell.ctx.number = s.cell.ctx.number + 1 ∧ w.cell.blog = [] ∧ w.roll.staging = [] ∧ w.cell.ckpt = w.roll
          ∧ w.cell.status = s.cell.status
          ∧ ∀ e, (w.path e).pc = s.nextPc .A ∧ (w.path e).walk = (s.path .A).walk + 1
              ∧ (w.path e).links = (s.path e).links ∧ (w.path e).outs = (s.path e).outs)
        ∧ (s2.allHalted = true → ∃ w, exec (.halt t) s = .next w ∧ w.cell.ctx.depth = 0
          ∧ w.cell.ctx.number = s.cell.ctx.number + 1 ∧ w.cell.blog = [] ∧ w.roll.staging = [] ∧ w.cell.ckpt = w.roll
          ∧ w.cell.status = .halted
          ∧ ∀ e, (w.path e).pc = s.cell.ident.entry ∧ (w.path e).walk = 0 ∧ (w.path e).halted = false))
  ∧
  (∀ (t : Tok) (s s1 s2 : State), s.cur.eng = .A → s.Admits .A t [] s1 → s.cell.ctx.active = true →
      s1.performLoads s1.flight.loads.length = .ok s2 → s2.allStand = true → s2.segsOut = true → s.ckFlt = none →
      ∃ w, exec (.rply t) s = .next w ∧ w.cell.ctx = { s.cell.ctx with active := false, rply := s.cell.ctx.rply + 1 }
        ∧ (∀ e, w.path e = s.cell.ckpt.paths.get e) ∧ w.roll.x = s.cell.ckpt.x ∧ w.roll.q = s.cell.ckpt.q
        ∧ w.roll.v = s.cell.ckpt.v ∧ w.roll.f = s.cell.ckpt.f ∧ w.roll.rndctr = s.cell.ckpt.rndctr
        ∧ w.roll.fmtq = s.cell.ckpt.fmtq ∧ w.roll.arrivals = s.cell.ckpt.arrivals ∧ w.roll.staging = []
        ∧ w.cell.blog = s.cell.blog ∧ w.cell.acc = s.cell.acc
        ∧ w.cell.ckpt = s.cell.ckpt))
/-! ## System words of A -/

/-- R249, R248: pub of an enabled slot that a commit does not publish, once its accesses are performed at its scope and no command
still writes the buffer: the owner and every other observer exchange the backings they reach, over the whole name range, wherever its
addresses keep their translations.
R246, R242, R245: mark completes once every access ordered before it is performed at its scope: after it no store that A knows
of is pending below that scope, and none at all for the host scope.
R91, R90: ltrig completes once A's accesses are performed at device scope, and makes the cell's DONE arrival: the object that
DONE names takes one arrival and the test of R253; a cell that has made its arrival, and one with DONE.V = 0, makes none. -/
def Obligations.PublishAndMark : Prop :=
  (∀ (t : Tok) (a : Src) (scope : BitVec 3) (k : Fin 8) (s s1 s2 s3 s4 : State) (x : Nat), s.Admits .A t (Src.uses a) s1 →
    s1.src a = .ok (BitVec.ofNat 64 k, s2) → (s.cell.slots[k]).en = true → (s.cell.slots[k]).lc = false →
    (if scope.toNat = 4 ∧ (s.cell.slots[k]).ver ≠ 0 then s2.reach (s.cell.slots[k]).ver 8 .store = .ok (x, s3) else s3 = s2) →
    s3.waitScope s scope.toNat = .ok s4 → s4.cmdWrites k = false →
    (scope.toNat ≠ 4 ∨ (s.cell.slots[k]).ver = 0) →
    ∃ w, exec (.pub t a scope) s = .next w ∧ s.Passed w .A
      ∧ ((∀ q b, w.backLoc q b = s4.backLoc q b) → (∀ y, w.home y = s4.home y) →
        ∀ (y off : Nat) (p : Pub) (who : Option Nat), who ≠ some p.owner → s4.pubAt who y = some (p, off) →
        s4.pubAt (some p.owner) y = some (p, off) → p.owner = s.cell.ident.serial → p.slot = k →
        w.land who y = s4.land (some p.owner) y ∧ w.land (some p.owner) y = s4.land who y))
    ∧ (∀ (t : Tok) (a : Src) (scope : BitVec 3) (k : Fin 8) (s s1 s2 s3 s4 u w : State) (x : Nat) (bs : List Byte),
      s.Admits .A t (Src.uses a) s1 → s1.src a = .ok (BitVec.ofNat 64 k, s2) → (s.cell.slots[k]).en = true →
      (s.cell.slots[k]).lc = false → scope.toNat = 4 → (s.cell.slots[k]).ver ≠ 0 →
      s2.reach (s.cell.slots[k]).ver 8 .store = .ok (x, s3) → s3.waitScope s 4 = .ok s4 →
      s4.cmdWrites k = false → s4.loadBytes .A (s.cell.slots[k]).ver x 8 = .ok bs → u = s4.publish k 4 →
      u.countVersion (s.cell.slots[k]).ver x = .ok w → exec (.pub t a scope) s = .next (w.retire .A t 2))
    ∧ ((∀ (t : Tok) (scope : BitVec 3) (s s1 s2 : State), s.Admits .A t [] s1 → scope.toNat ≤ 4 →
      s1.waitScope s scope.toNat = .ok s2 →
      exec (.mark t scope) s = .next (s2.retire .A t 2) ∧ s2.flight.loads = []
        ∧ ∀ p ∈ s2.stores, p.serial = s.cell.ident.serial → p.seq ≤ ((s2.run .A).carries .A).get p.eng →
          scope.toNat + 1 ≤ p.level ∧ scope.toNat < 4)
  ∧
  (∀ (t : Tok) (s s1 s2 : State), s.Admits .A t [] s1 → s1.drainKnown .A 3 = .ok s2 → s2.peersAcked s s2.knowsPeer = .ok () →
      (s2.cell.ident.done = false → s2.barFlt s2.me (s2.cell.ident.record.extractLsb' 96 32) 1 = none) →
      ∃ u, exec (.ltrig t) s = .next (u.retire .A t 2) ∧ u.cell.ident.done = true
        ∧ (s.cell.ident.done = true → u = s2)
        ∧ (s.cell.ident.done = false → entryValid (s.cell.ident.record.extractLsb' 96 32) = false → u.mem = s2.mem)
        ∧ (s.cell.ident.done = false → entryValid (s.cell.ident.record.extractLsb' 96 32) = true → s2.MemWf →
            ∀ x v, x = s2.land s2.me (entryLoc (s.cell.ident.record.extractLsb' 96 32)) →
            v = s2.perform (fun p => p.serial == s.cell.ident.serial) 3 → v.poisoned .device x 32 = none →
            u.barObj .device x = BarObj.settled
              { (v.settle .device x 32).barObj .device x with arrived := ((v.settle .device x 32).barObj .device x).arrived + 1 })))

/-- R119, R79: rnd writes the mix of RNDCTR under the core's keys and raises RNDCTR by one; with d = x0 the counter still
advances; to a queue it pushes the value.
R352: trc with no trace buffer only counts its beat; with one it stores the 32-byte record of its value at the next place, and TRCPOS
advances; where that write would fault, TRCLOST counts it.
R355, R356, R357: hack, from a supervisor to another core, completes at once where that core runs no cell, and a stop asked of it marks
the dump area empty: its state word is 0. A stop of a running cell and a step of a stopped one wait until they are performed, and then
the word completes; a resume of a stopped cell completes at once.
R315: rslot of no slots, or with PINWAIT zero, returns 0, and otherwise it waits with its request queued. -/
def Obligations.RandomTraceHackSlots : Prop :=
  (∀ (t : Tok) (k : Fin 32) (s s1 : State), s.Admits .A t [] s1 → s.xBusy k = false →
    ∃ w, exec (.rnd t (.x k)) s = .next w ∧ s.Passed w .A ∧ w.roll.rndctr = s.roll.rndctr + 1
      ∧ (k ≠ 0 → w.x k = rndgen s.roll.rndctr s.core.rndkey0 s.core.rndkey1 4)
      ∧ (∀ r, r ≠ k → s.xBusy r = false → w.x r = s.x r))
    ∧ (∀ (t : Tok) (q : Fin 16) (s s1 u : State), s.Admits .A t [(q, true)] s1 → s1.roomQ .A q 1 = .ok () →
      s1.drain .A = .ok u →
      ∃ w e, exec (.rnd t (.push q)) s = .next w ∧ s.Passed w .A ∧ w.roll.rndctr = s.roll.rndctr + 1
        ∧ w.roll.q[q] = u.roll.q[q] ++ [e] ∧ e.value = rndgen s.roll.rndctr s.core.rndkey0 s.core.rndkey1 4)
    ∧ ((∀ (t : Tok) (a : Src) (v : Word) (s s1 s2 : State), s.Admits .A t (Src.uses a) s1 → s1.src a = .ok (v, s2) →
      (s.misc.trcsize = 0 ∨ s.misc.trcbase = 0) → exec (.trc t a) s = .next ((s2.send .A).retire .A t 0))
    ∧ (∀ (t : Tok) (a : Src) (v p : Word) (s s1 s2 u u1 : State) (x : Nat), s.Admits .A t (Src.uses a) s1 →
      s1.src a = .ok (v, s2) → s.misc.trcsize ≠ 0 → s.misc.trcbase ≠ 0 →
      p = s.misc.trcbase + BitVec.ofNat 64 (32 * (s.misc.trcpos.toNat % s.misc.trcsize.toNat)) →
      (s2.send .A).access p 32 .store = .ok (x, u) → u.undrained x = .ok () → u.storesOut .A < 32 →
      u.loadsBefore x 32 = .ok u1 →
      ∃ w : State, exec (.trc t a) s = .next (w.retire .A t 0) ∧ w.misc = { s.misc with trcpos := s.misc.trcpos + 1 }
        ∧ ∀ i, i < 32 → w.peekByte (s.obs .A (p + BitVec.ofNat 64 i)) (u1.land s.me (x + i / 8 * 8) + i % 8)
          = (traceRecord (u1.run .A).beat 1 .A s.cell.ident.cellno s.domain (s.path .A).pc v).extractLsb' (8 * i) 8)
    ∧ (∀ (t : Tok) (a : Src) (v p : Word) (s s1 s2 : State) (f : Flt), s.Admits .A t (Src.uses a) s1 →
      s1.src a = .ok (v, s2) → s.misc.trcsize ≠ 0 → s.misc.trcbase ≠ 0 →
      p = s.misc.trcbase + BitVec.ofNat 64 (32 * (s.misc.trcpos.toNat % s.misc.trcsize.toNat)) →
      (s2.send .A).access p 32 .store = .error f →
      exec (.trc t a) s = .next (((s2.send .A).setMisc { s.misc with trclost := s.misc.trclost + 1 }).retire .A t 0))
    ∧ (∀ (t : Tok) (a : Src) (w0 : Word) (k : CoreId) (s s1 s2 : State), s.Admits .A t (Src.uses a) s1 →
      s1.src a = .ok (w0, s2) → s.supv = true → w0.extractLsb' 3 29 = 0 → w0.extractLsb' 41 19 = 0 →
      (w0.extractLsb' 60 4 = 1 ∨ w0.extractLsb' 60 4 = 2 ∨ w0.extractLsb' 60 4 = 3) → (w0.extractLsb' 0 3).toNat ≤ 4 →
      coreAt (if w0.getLsbD 40 then 1 else 0) (w0.toNat / 2 ^ 32 % 256) = some k → k ≠ s.cur.core →
      (s.die (if w0.getLsbD 40 then 1 else 0)).hackbase ≠ 0 → s.cores[k].cell.status = .idle → s.cores[k].hackReq = none →
      s.hackAsked = false → s.Calm t →
      ∃ w, exec (.hack t a) s = .next w ∧ s.Passed w .A ∧ w.cores[k].cell.status = .idle
        ∧ (w0.extractLsb' 60 4 = 1 → s.MemWf → w.peek .device (s.hackArea k) 8 = leBytes 8 0))
    ∧ (∀ (t : Tok) (a : Src) (w0 : Word) (k : CoreId) (s s1 s2 : State), s.Admits .A t (Src.uses a) s1 →
      s1.src a = .ok (w0, s2) → s.hackOk w0 = .ok () → hackTarget w0 = some k → s.cores[k].hackReq = none →
      (s.hackAsked = true → exec (.hack t a) s = .next (s2.retire .A t 0))
        ∧ (s.hackAsked = false → s.cores[k].cell.status = .running → (s.on k).dumping = false →
          s.cores[k].cell.frozen = decide (hackAction w0 = 3) → hackAction w0 ≠ 2 →
          ∃ w, exec (.hack t a) s = .next w ∧ w.path .A = s.path .A ∧ w.hackAsked = true ∧ w.cores[k].hackReq = some w0
            ∧ w.cores[k].cell.frozen = false)
        ∧ (s.hackAsked = false → s.cores[k].cell.status = .running → (s.on k).dumping = false →
          s.cores[k].cell.frozen = true → hackAction w0 = 2 → s.Calm t →
          ∃ w, exec (.hack t a) s = .next w ∧ s.Passed w .A ∧ w.cores[k].cell.frozen = false))
    ∧ ∀ (t : Tok) (d : Dst) (a : Src) (n : Word) (s s1 s2 s3 : State), s.Admits .A t (Src.uses a ++ Dst.uses d) s1 →
      s1.src a = .ok (n, s2) → s2.dstReady d = .ok () → n.toNat ≤ 480 → s.rslotReq = none →
      ((n = 0 ∨ (s.die s.dieId).pinUse = 0) →
        (s2.setMisc { s2.misc with rreq := n.setWidth 10, rgrant := 0 }).dst d 0 = .ok s3 →
        exec (.rslot t d a) s = .next (s3.retire .A t 0))
        ∧ (n ≠ 0 → (s.die s.dieId).pinUse ≠ 0 → ∃ w q, exec (.rslot t d a) s = .next w ∧ w.path .A = s.path .A
          ∧ (w.die s.dieId).ramp = (s.die s.dieId).ramp ++ [q] ∧ q.want = n.toNat ∧ q.got = 0 ∧ q.core = some s.cur.core))

/-- R115 and the registers' tables: srd completes with the register's value in the cell's view. The values of the registers of
identity, traps, contexts, counters and modes are the cell's own; a user cell reads zero where the table gives a privileged
register: R325 says it of IMGBASE, and that a user reads SEVBASE as zero is the model's reading (log entry 25). Before ENERGY is read
the cycles that F's instruction in flight has run are charged (R312, R316). -/
def Obligations.RegisterReads : Prop :=
  ∀ (t : Tok) (k : Fin 32) (s s1 : State), s.Admits .A t [] s1 → s.xBusy k = false → k ≠ 0 →
    (∀ r u, u = (if r = 0x140 then s1.payF s.cur.core else s1) →
        ∃ w, exec (.srd t (.x k) r) s = .next w ∧ s.Passed w .A ∧ w.x k = u.readReg r
          ∧ ∀ i, i ≠ k → s.xBusy i = false → w.x i = s.x i)
      ∧ s1.readReg 0x000 = s.cell.ident.domain ++ 0#7 ++ BitVec.ofNat 1 (dieOf s.cur.core).val
          ++ BitVec.ofNat 8 (siteOf s.cur.core) ++ s.cell.ident.cellno
      ∧ s1.readReg 0x00D = s.cell.ident.lrec ∧ s1.readReg 0x00E = s.misc.slipw.setWidth 64
      ∧ s1.readReg 0x040 = s.misc.qstall.setWidth 64 ∧ s1.readReg 0x044 = 0
      ∧ s1.readReg 0x080 = s.cell.traps.vec.setWidth 64 ∧ s1.readReg 0x081 = s.cell.traps.cause
      ∧ s1.readReg 0x082 = s.cell.traps.epc.a ∧ s1.readReg 0x083 = s.cell.traps.epc.c
      ∧ s1.readReg 0x084 = s.cell.traps.epc.m ∧ s1.readReg 0x085 = s.cell.traps.epc.v
      ∧ s1.readReg 0x086 = s.cell.traps.epc.f ∧ s1.readReg 0x087 = s.core.dperr.setWidth 64
      ∧ s1.readReg 0x088 = (if s.supv then (s.die s.dieId).sevBase.setWidth 64 else 0)
      ∧ s1.readReg 0x08A = 0 ∧ s1.readReg 0x08B = 0
      ∧ s1.readReg 0x0C0 = s.misc.ftol ∧ s1.readReg 0x0C1 = s.misc.fmaxlen.setWidth 64
      ∧ s1.readReg 0x101 = s.cell.ctx.ctxrec ∧ s1.readReg 0x102 = s.cell.ctx.ctoken
      ∧ s1.readReg 0x103 = s.cell.ctx.rply ++ s.cell.ctx.number ∧ s1.readReg 0x104 = s.cell.ctx.ckslot
      ∧ s1.readReg 0x180 = 0 ∧ s1.readReg 0x181 = (s.die s.dieId).slice.setWidth 64
      ∧ s1.readReg 0x183 = (if s.supv then (s.die s.dieId).imgbase else 0)
      ∧ s1.readReg 0x200 = s.roll.vsatn.setWidth 64 ∧ s1.readReg 0x208 = s.roll.rndctr
      ∧ s1.readReg 0x209 = (if s.supv then s.core.rndkey0 else 0)
      ∧ s1.readReg 0x221 = s.misc.smtheta.setWidth 64 ∧ s1.readReg 0x222 = s.misc.smtag ++ 0#24

/-- R115, R93, R125, R285, R220, R268, R314: swr writes a register as its table says: SLIPW no lower than 16, QSTALL no lower than 64,
TRAPVEC without its fixed bits, EPCA without its low two, FTOL as +0 for a NaN or a negative value, CTOKEN, RNDCTR, SMTHETA and the
keys whole, a supervisor's ramp limits no lower than 5, and the rest of the cell as it was.
R115: a swr to a register marked read-only, in either mode, and a user cell's swr to one that only a supervisor may write, is the
privilege fault with code 2; that this holds of any value written by a user to 0x043, 0x045, 0x046, 0x088, 0x089 and 0x08B is the model's
reading (log entry 25), and so is that FTOL takes -0 as +0 (log entry 9). -/
def Obligations.RegisterWrites : Prop :=
  (∀ (t : Tok) (a : Src) (v : Word) (s s1 s2 : State), s.Admits .A t (Src.uses a) s1 → s1.src a = .ok (v, s2) →
      (∃ w : State, exec (.swr t a 0x00E) s = .next (w.retire .A t 0) ∧ s.Passed (w.retire .A t 0) .A
          ∧ w.misc = { s.misc with slipw := if v.toNat % 65536 < 16 then 16 else v.setWidth 16 })
        ∧ (∃ w : State, exec (.swr t a 0x040) s = .next (w.retire .A t 0) ∧ s.Passed (w.retire .A t 0) .A
          ∧ w.misc = { s.misc with qstall := if v.toNat % 2 ^ 32 < 64 then 64 else v.setWidth 32 })
        ∧ (∃ w : State, exec (.swr t a 0x080) s = .next (w.retire .A t 0) ∧ s.Passed (w.retire .A t 0) .A
          ∧ w.cell.traps = { s.cell.traps with vec := v.setWidth 27 &&& ~~~0x60E4000#27 })
        ∧ (∃ w : State, exec (.swr t a 0x082) s = .next (w.retire .A t 0) ∧ s.Passed (w.retire .A t 0) .A
          ∧ w.cell.traps = { s.cell.traps with epc := { s.cell.traps.epc with a := v &&& ~~~3#64 } })
        ∧ (∃ w : State, exec (.swr t a 0x0C0) s = .next (w.retire .A t 0) ∧ s.Passed (w.retire .A t 0) .A
          ∧ w.misc = { s.misc with ftol := if v.getLsbD 63 || 0x7FF0000000000000 < v.toNat % 2 ^ 63 then 0 else v })
        ∧ (∃ w : State, exec (.swr t a 0x102) s = .next (w.retire .A t 0) ∧ s.Passed (w.retire .A t 0) .A ∧ w.cell.ctx = { s.cell.ctx with ctoken := v })
        ∧ (∃ w : State, exec (.swr t a 0x208) s = .next (w.retire .A t 0) ∧ s.Passed (w.retire .A t 0) .A ∧ w.roll.rndctr = v ∧ ∀ i, w.x i = s.x i)
        ∧ (∃ w : State, exec (.swr t a 0x221) s = .next (w.retire .A t 0) ∧ s.Passed (w.retire .A t 0) .A ∧ w.misc = { s.misc with smtheta := v.setWidth 32 })
        ∧ (s.supv = true → ∃ w : State, exec (.swr t a 0x209) s = .next (w.retire .A t 0) ∧ s.Passed (w.retire .A t 0) .A ∧ w.core.rndkey0 = v)
        ∧ (s.supv = true → ∃ w : State, exec (.swr t a 0x144) s = .next (w.retire .A t 0) ∧ s.Passed (w.retire .A t 0) .A
          ∧ w.gov.set.rlimus.extractLsb' 0 16 = (if v.toNat % 65536 < 5 then 5 else v.extractLsb' 0 16)
          ∧ w.gov.set.rlimus.extractLsb' 16 16 = (if v.toNat / 65536 % 65536 < 5 then 5 else v.extractLsb' 16 16)
          ∧ w.gov.use = s.gov.use))
  ∧
  (∀ (t : Tok) (a : Src) (r : BitVec 12) (v : Word) (s s1 s2 : State), s.Admits .A t (Src.uses a) s1 → s1.src a = .ok (v, s2) →
      r ∈ ([0x000, 0x00D, 0x00F, 0x041, 0x042, 0x081, 0x087, 0x0C6, 0x103, 0x140, 0x142, 0x14D, 0x14E, 0x14F, 0x185, 0x186, 0x1C0,
          0x1C3, 0x1C6, 0x1C8, 0x210, 0x217, 0x229, 0x240, 0x241] : List (BitVec 12))
        ∨ (s.supv = false ∧ r ∈ ([0x043, 0x044, 0x045, 0x046, 0x088, 0x089, 0x08A, 0x08B, 0x141, 0x143, 0x144, 0x145, 0x146, 0x147,
          0x14A, 0x14B, 0x14C, 0x150, 0x180, 0x181, 0x182, 0x183, 0x184, 0x1C4, 0x209, 0x20A] : List (BitVec 12))) →
      exec (.swr t a r) s = .next ((s.undoTemplate .A s.cur.undo).fault .A { kind := .privilege, code := 2 }))


/-! ## Memory words of A -/

/-- R108, R107, R2: the loads, at base plus the displacement times the access size: the bytes read, little-endian, extended by zeros
for ld.n and by the sign for ld.s, go to the destination.
R108, R109: a load into a register that the machine leaves outstanding retires, and the register waits for its data.
R110: the run-ahead loads append their value to the queue, or an entry whose data is still to arrive. -/
def Obligations.LoadResults : Prop :=
  ((LoadResult .ldN8 1 false ∧ LoadResult .ldN16 2 false ∧ LoadResult .ldN32 4 false ∧ LoadResult .ldN64 8 false
      ∧ LoadResult .ldS8 1 true ∧ LoadResult .ldS16 2 true ∧ LoadResult .ldS32 4 true)
  ∧
  (LoadLater .ldN8 1 false ∧ LoadLater .ldN16 2 false ∧ LoadLater .ldN32 4 false ∧ LoadLater .ldN64 8 false
      ∧ LoadLater .ldS8 1 true ∧ LoadLater .ldS16 2 true ∧ LoadLater .ldS32 4 true))
    ∧ (LdqResult .ldqN8 1 false ∧ LdqResult .ldqN16 2 false ∧ LdqResult .ldqN32 4 false ∧ LdqResult .ldqN64 8 false
    ∧ LdqResult .ldqS8 1 true ∧ LdqResult .ldqS16 2 true ∧ LdqResult .ldqS32 4 true
    ∧ LdqLater .ldqN8 1 false ∧ LdqLater .ldqN16 2 false ∧ LdqLater .ldqN32 4 false ∧ LdqLater .ldqN64 8 false
    ∧ LdqLater .ldqS8 1 true ∧ LdqLater .ldqS16 2 true ∧ LdqLater .ldqS32 4 true)

/-- R108, R244, R2: the stores, at base plus the displacement times the access size, with base read first: A reads the stored bytes
back, what it reads elsewhere stays, and every observer outside the core reads every byte as before. -/
def Obligations.StoreResults : Prop :=
  StoreResult .stN8 1 ∧ StoreResult .stN16 2 ∧ StoreResult .stN32 4 ∧ StoreResult .stN64 8

/-- R107: the access check of A's memory words, in its order: alignment first, then the space, then the mode, then the bounds. -/
def Obligations.AccessChecks : Prop :=
  ∀ (s : State) (p : Word) (n : Nat) (a : Acc),
    (p.toNat % n ≠ 0 → s.access p n a = .error (accFlt .alignment 0 p a))
      ∧ (p.toNat % n = 0 → spaceOf p ∉ [0x0, 0x8, 0xA, 0xF] → s.access p n a = .error (accFlt .protection 1 p a))
      ∧ (p.toNat % n = 0 → spaceOf p ∈ [0x8, 0xF] → a = .atomic ∨ a = .await → s.access p n a = .error (accFlt .protection 2 p a))
      ∧ (p.toNat % n = 0 → spaceOf p = 0xF → a = .load ∨ a = .store → s.supv = false →
          s.access p n a = .error { kind := .privilege, code := 1 })
      ∧ (p.toNat % n = 0 → spaceOf p = 0x8 → a = .load ∨ a = .store → offOf p + n > 0x180000 →
          s.access p n a = .error (accFlt .protection 3 p a))
      ∧ (p.toNat % n = 0 → spaceOf p = 0x8 → a = .load ∨ a = .store → offOf p + n ≤ 0x180000 →
          s.access p n a = .ok (locPad s.cur.core (offOf p), s))

/-- R111, R112, R113: the atomics write the granule's new value at its home and give the old one to d; fadd and fmax work on 32-bit
codes. cas writes its second source only where the old value is the one that d held. R109: one into a register that the machine leaves
outstanding retires, and its read and its write are made later.
R114: await, after A's earlier accesses of the granule, completes with its value once it differs from the one that d held, or once its
timeout has passed; until then it waits. -/
def Obligations.AtomicResults : Prop :=
  (AmoResult .amoAdd 8 (fun o v => (o + v.toNat) % 2 ^ 64)
      ∧ AmoResult .amoMin 8 (fun o v => if (BitVec.ofNat 64 o).slt v then o else v.toNat)
      ∧ AmoResult .amoMax 8 (fun o v => if (BitVec.ofNat 64 o).slt v then v.toNat else o)
      ∧ AmoResult .amoAnd 8 (fun o v => o &&& v.toNat) ∧ AmoResult .amoOr 8 (fun o v => o ||| v.toNat)
      ∧ AmoResult .amoXor 8 (fun o v => o ^^^ v.toNat) ∧ AmoResult .amoXchg 8 (fun _ v => v.toNat)
      ∧ AmoResult .amoFaddF32 4 (fun o v => FFmt.f32.rne (Val.add false (FFmt.f32.decode o) (FFmt.f32.decode (v.toNat % 2 ^ 32))))
      ∧ AmoResult .amoFmaxF32 4 (fun o v => FFmt.f32.rne (Val.max (FFmt.f32.decode o) (FFmt.f32.decode (v.toNat % 2 ^ 32))))
      ∧ AmoLater .amoAdd .add ∧ AmoLater .amoMin .min ∧ AmoLater .amoMax .max ∧ AmoLater .amoAnd .and ∧ AmoLater .amoOr .or
      ∧ AmoLater .amoXor .xor ∧ AmoLater .amoXchg .xchg ∧ AmoLater .amoFaddF32 .faddF32 ∧ AmoLater .amoFmaxF32 .fmaxF32
      ∧ (∀ (t : Tok) (d : Dst) (a b : Src) (p v e : Word) (x old : Nat) (s s1 s2 s3 s4 s5 s6 : State),
        s.Admits .A t (Src.uses a ++ Src.uses b ++ Dst.usesRead d) s1 → s1.src a = .ok (p, s2) → s2.src b = .ok (v, s3) →
        s3.dstRead d = .ok (e, s4) → s4.Homes p 8 x old s5 → s.atOnce d →
        (((if old = e.toNat then s5.writeAt (s5.obs .A p) s5.me x (leBytes 8 v.toNat) else s5).peerReceipt .A x).touched x 16).dst d
          (BitVec.ofNat 64 old) = .ok s6 →
        exec (.cas t d a b) s = .next (s6.retire .A t 2))
      ∧ ∀ (t : Tok) (r : Fin 32) (a b : Src) (p v : Word) (x : Nat) (s s1 s2 s3 s4 : State),
        s.Admits .A t (Src.uses a ++ Src.uses b) s1 → s1.src a = .ok (p, s2) → s2.src b = .ok (v, s3) → s.xBusy r = false →
        s3.storesOut .A < 32 → s3.reach p 8 .atomic = .ok (x, s4) → s.cur.defer = true → s.flight.loads.length < 32 →
        exec (.cas t (.x r) a b) s = .next (((s4.peerSend .A x).leaves
          { pc := (s.path .A).pc, addr := p, loc := x, n := 8, signed := false, dst := .reg r, rmw := some (.cas (s3.x r) v),
            got := none }).retire .A t 2))
  ∧
  (∀ (t : Tok) (d : Dst) (a b : Src) (p tmo e : Word) (x : Nat) (bs : List Byte) (s s1 s2 s3 s4 s5 s6 s7 : State),
      s.Admits .A t (Src.uses a ++ Src.uses b ++ Dst.usesRead d) s1 → s1.src a = .ok (p, s2) → s2.src b = .ok (tmo, s3) →
      s3.dstRead d = .ok (e, s4) → s4.reach p 8 .await = .ok (x, s5) → s5.performLoads s5.flight.loads.length = .ok s6 →
      s7 = s6.settle (s6.obs .A p) (s6.land s6.me x) 8 → s7.loadBytes .A p x 8 = .ok bs →
      (∀ s8, (leWord bs ≠ e ∨ tmo.toNat ≤ s.now - s.stallSince .A .await) → ((s7.peerReceipt .A x).touched x 8).dst d (leWord bs) = .ok s8 →
          exec (.await t d a b) s = .next (s8.retire .A t 2))
        ∧ (leWord bs = e → s.now - s.stallSince .A .await < tmo.toNat → s.cur.undo = none →
          ∃ w, exec (.await t d a b) s = .next w ∧ ∀ k, w.path k = s.path k))

/-! ## Barrier objects, launches and commands -/

/-- R254, R255, R256, R259: bar.init sets the fields of its object from the word and the cell's launch and leaves GEN; bar.arr, once
C is past it and its accesses are performed, adds an arrival and keeps the object's generation; bar.add adds to PEND. Each acts on the
object at the bank where the cell's accesses reach it, after A's earlier loads. Each appends an
entry to the barrier log; one that finds a credit of its kind consumes it and does not reach the bank, or adds the difference.
R252, R253: an operation on a barrier object at its bank: the update, then the test; a well-formed object with enough arrivals
and nothing pending completes, its extra arrivals counting toward the next generation. Every agent outside the cores reads the new
object at once. That bar.init acts on a malformed object too, and keeps its reserved bits, is the model's reading (log entry 18). -/
def Obligations.BarrierWords : Prop :=
  ((∀ (t : Tok) (a b : Src) (p w : Word) (x : Nat) (o : BarObj) (s s1 s2 s3 s4 s5 : State),
    s.Admits .A t (Src.uses a ++ Src.uses b) s1 → s1.src a = .ok (p, s2) → s2.src b = .ok (w, s3) →
    s3.reach p 32 .barrier = .ok (x, s4) → w.extractLsb' 0 32 ≠ 0 → (w.extractLsb' 32 3).toNat ≤ 4 →
    (∀ e, s4.creditOf p .init = some e → exec (.barInit t a b) s = .next ((s4.consume e 0).retire .A t 2))
      ∧ (s4.creditOf p .init = none → s4.cell.blog.length < 32 → s4.objectHere p x = .ok (o, s5) →
        ∃ u : State, exec (.barInit t a b) s = .next (u.retire .A t 2)
          ∧ u.cell.blog = s.cell.blog ++ [{ obj := p, kind := .init, value := 0, credit := false }]
          ∧ (s.MemWf → u.barObj .device (s5.land s5.me x) = BarObj.settled
              { o with
                pend := 0, expect := w.extractLsb' 0 32, arrived := 0, timeout := (w.extractLsb' 35 29).setWidth 32,
                launch := launchBits s.cell.ident.handle, lv := true, scope := w.extractLsb' 32 3, tout := false })))
    ∧ (∀ (t : Tok) (a : Src) (p : Word) (x : Nat) (s s1 s2 s3 s4 : State),
      s.Admits .A t (Src.uses a) s1 → s1.src a = .ok (p, s2) → s2.reach p 32 .barrier = .ok (x, s3) →
      ((∃ g, (p, g) ∈ s.roll.arrivals) ∨ s.roll.arrivals.length < 8) → s3.cPast = true →
      s3.waitScope s (Nat.min 4 (s3.barObj (s3.obs .A p) (s3.land s3.me x)).scope.toNat) = .ok s4 →
      (∀ e, s4.creditOf p .arr = some e →
          exec (.barArr t a) s = .next (((s4.consume e e.value).setArrival p (e.value.setWidth 32)).retire .A t 2))
        ∧ ∀ (o : BarObj) (s5 : State), s4.creditOf p .arr = none → s4.cell.blog.length < 32 → s4.objectAt p x = .ok (o, s5) →
          ¬ (o.lv = true ∧ o.launch = launchBits s.cell.ident.handle ∧ s.cell.ident.multiWave = true) →
          ∃ u : State, exec (.barArr t a) s = .next (u.retire .A t 2)
            ∧ u.roll.arrivals = (s.roll.arrivals.filter fun e => e.1 != p) ++ [(p, o.gen)]
            ∧ u.cell.blog = s.cell.blog ++ [{ obj := p, kind := .arr, value := o.gen.setWidth 64, credit := false }]
            ∧ (s.MemWf → u.barObj .device (s5.land s5.me x) = BarObj.settled { o with arrived := o.arrived + 1 }))
    ∧ (∀ (t : Tok) (a b : Src) (p v : Word) (x : Nat) (o : BarObj) (s s1 s2 s3 s4 s5 : State),
      s.Admits .A t (Src.uses a ++ Src.uses b) s1 → s1.src a = .ok (p, s2) → s2.src b = .ok (v, s3) →
      s3.reach p 32 .barrier = .ok (x, s4) →
      (∀ e, s4.creditOf p .add = some e → s4.objectHere p x = .ok (o, s5) →
          ∃ u : State, exec (.barAdd t a b) s = .next (u.retire .A t 2)
          ∧ (s.MemWf → u.barObj .device (s5.land s5.me x) = BarObj.settled { o with pend := o.pend + (v - e.value) }))
        ∧ (s4.creditOf p .add = none → s4.cell.blog.length < 32 → s4.objectAt p x = .ok (o, s5) →
          ∃ u : State, exec (.barAdd t a b) s = .next (u.retire .A t 2)
            ∧ u.cell.blog = s.cell.blog ++ [{ obj := p, kind := .add, value := v, credit := false }]
            ∧ (s.MemWf → u.barObj .device (s5.land s5.me x) = BarObj.settled { o with pend := o.pend + v }))))
    ∧ (∀ (s : State) (o : Obs) (x : Nat) (f : BarObj → BarObj), s.MemWf →
    (s.updateObj o x f).barObj .device x =
      (let b := f ((s.settle o x 32).barObj o x)
       if b.resv = 0 ∧ b.expect ≠ 0 ∧ b.scope.toNat ≤ 4 ∧ b.expect.toNat ≤ b.arrived.toNat ∧ b.pend = 0 then
         { b with gen := b.gen + 1, arrived := b.arrived - b.expect }
       else b))
    ∧ ∀ (p : Word) (x : Nat) (s s1 : State), s.performLoads s.flight.loads.length = .ok s1 →
      (s1.settle (s1.obs .A p) (s1.land s1.me x) 32).poisoned (s1.obs .A p) (s1.land s1.me x) 32 = none →
      ∃ o s2, s.objectHere p x = .ok (o, s2) ∧ s2 = s1.settle (s1.obs .A p) (s1.land s1.me x) 32
        ∧ o = s2.barObj (s2.obs .A p) (s1.land s1.me x)
        ∧ (o.malformed = false → s.objectAt p x = .ok (o, s2))
        ∧ (o.malformed = true → s.objectAt p x = .error (.fault { kind := .shape, code := 0x560, addr := p }))

/-- R257, R258: bar.wait returns once the object's generation is not the one it waits from, and removes its arrival-table entry;
else, while its timeout has not passed, it waits. bar.test gives the object's status and waits for nothing. -/
def Obligations.BarrierWaits : Prop :=
  (∀ (t : Tok) (a : Src) (p : Word) (x : Nat) (o : BarObj) (s s1 s2 s3 s4 : State),
    (s.uncountWait.firstRead a).Admits .A t (Src.uses a) s1 → s1.src a = .ok (p, s2) → s2.reach p 32 .barrier = .ok (x, s3) →
    s3.objectAt p x = .ok (o, s4) →
    ¬ (o.lv = true ∧ o.launch = launchBits s.cell.ident.handle ∧ s.cell.ident.multiWave = true) →
    (o.gen ≠ (s.roll.arrivals.lookup p).getD s4.misc.waitGen →
        ∃ w : State, exec (.barWait t a) s = .next (w.retire .A t 2) ∧ s.Passed (w.retire .A t 2) .A
          ∧ w.roll.arrivals = s.roll.arrivals.filter fun e => e.1 != p)
      ∧ (o.gen = (s.roll.arrivals.lookup p).getD s4.misc.waitGen → s.cur.undo = none →
        (o.timeout = 0 ∨ s.now - s.stallSince .A .barWait < o.timeout.toNat * Config.cyclesPerUs) →
        ∃ w : State, exec (.barWait t a) s = .next w ∧ (∀ e, w.path e = s.path e) ∧ w.roll.arrivals = s.roll.arrivals))
    ∧ (∀ (t : Tok) (d : Dst) (a : Src) (p : Word) (x : Nat) (o : BarObj) (s s1 s2 s3 s4 s5 : State),
      s.Admits .A t (Src.uses a ++ Dst.uses d) s1 → s1.src a = .ok (p, s2) → s2.reach p 32 .barrier = .ok (x, s3) →
      s3.objectAt p x = .ok (o, s4) →
      s4.dst d (BitVec.ofBool (match s.roll.arrivals.lookup p with | some g => o.gen != g | none => false)
          ++ BitVec.ofBool (s.roll.arrivals.lookup p).isSome ++ BitVec.ofBool (o.pend.slt 0) ++ BitVec.ofBool o.tout
          ++ 0#28 ++ o.gen) = .ok s5 →
      exec (.barTest t d a) s = .next (s5.retire .A t 2))

/-- R132, R136: push and renq read the block once their earlier accesses are performed, and the queue accepts the command it
describes; one that waited for its quota accepts the block that it read before the wait; qstat gives the counts of the cell's domain.
R130, R132, R137: a block with a reserved bit set is no command; an accepted command goes to its queue's end, or to the spill ring
behind the queue's 16 entries, and its domain's outstanding count rises by one, no other's. -/
def Obligations.CommandWords : Prop :=
  ((∀ (t : Tok) (a b : Src) (adr : Word) (q : Fin 4) (x : Nat) (bs : List Byte) (c : Cmd) (s s1 s2 s3 s4 s5 s6 : State),
      s.Admits .A t (Src.uses a ++ Src.uses b) s1 → s1.src a = .ok (adr, s2) → s2.src b = .ok (BitVec.ofNat 64 q, s3) →
      s3.performLoads s3.flight.loads.length = .ok s4 → s.blockRead (queueName s.cur.core q) = none →
      (s4.perform (fun p => p.serial == s.cell.ident.serial && p.eng == .A) 1).reach adr 64 .tset = .ok (x, s5) →
      s5.loadBytes .A adr x 64 = .ok bs → s6 = (s5.peerReceipt .A x).touched x 64 →
      s6.cmdOf (BitVec.ofNat 512 (leNat bs)) = some c →
      s6.entryCheck s.domain s.supv c.bar = .ok () → s6.Accepts s.cur.core q c →
      exec (.push t a b) s = .next ((s6.acceptCmd s.cur.core q c (BitVec.ofNat 512 (leNat bs))).retire .A t 2))
      ∧ (∀ (t : Tok) (a b : Src) (adr n : Word) (k : CoreId) (q : Fin 4) (x : Nat) (bs : List Byte) (c : Cmd)
          (s s1 s2 s3 s4 s5 s6 : State),
        s.Admits .A t (Src.uses a ++ Src.uses b) s1 → s1.src a = .ok (adr, s2) → s2.src b = .ok (n, s3) →
        s3.queueNamed n = some (k, q) → s3.performLoads s3.flight.loads.length = .ok s4 →
        s.blockRead (queueName k q) = none →
        (s4.perform (fun p => p.serial == s.cell.ident.serial && p.eng == .A) 3).reach adr 64 .tset = .ok (x, s5) →
        s5.loadBytes .A adr x 64 = .ok bs → s6 = (s5.peerReceipt .A x).touched x 64 →
        s6.cmdOf (BitVec.ofNat 512 (leNat bs)) = some c →
        s6.entryCheck s.domain s.supv c.bar = .ok () → s6.Accepts k q c →
        exec (.renq t a b) s = .next ((s6.acceptCmd k q c (BitVec.ofNat 512 (leNat bs))).retire .A t 2))
      ∧ (∀ (t : Tok) (a b : Src) (adr n : Word) (k : CoreId) (q : Fin 4) (block : BitVec 512) (c : Cmd) (since : Nat)
          (lim : Option Nat) (s s1 s2 s3 s4 s5 : State),
        s.Admits .A t (Src.uses a ++ Src.uses b) s1 → s1.src a = .ok (adr, s2) → s2.src b = .ok (n, s3) →
        s3.queueNamed n = some (k, q) → s3.performLoads s3.flight.loads.length = .ok s4 →
        (s.run .A).stall = some { why := .quota (queueName k q) block, since := since, limit := lim } → s.cmdOf block = some c →
        s5 = s4.perform (fun p => p.serial == s.cell.ident.serial && p.eng == .A) 3 → s5.Accepts k q c →
        exec (.renq t a b) s = .next ((s5.acceptCmd k q c block).retire .A t 2))
      ∧ (∀ (t : Tok) (d : Dst) (a : Src) (n : Word) (k : CoreId) (q : Fin 4) (s s1 s2 s3 : State),
        s.Admits .A t (Src.uses a ++ Dst.uses d) s1 → s1.src a = .ok (n, s2) → s2.queueNamed n = some (k, q) →
        s2.dst d (((s.queue k q).count s.domain).done ++ BitVec.ofNat 16 ((s.queue k q).count s.domain).out
          ++ BitVec.ofBool (s.queue k q).halted ++ 0#2 ++ s.misc.cqquota) = .ok s3 →
        exec (.qstat t d a) s = .next (s3.retire .A t 0))
      ∧ (∀ (k : CoreId) (q : Fin 4) (s : State), s.cores[k].enabled = true → s.queueNamed ((queueName k q).setWidth 64) = some (k, q)))
  ∧
  ((∀ (s : State) (b : BitVec 512), (b.extractLsb' 192 32 ≠ 0 ∨ b.extractLsb' 0 128 ≠ 0 ∨ b.extractLsb' 501 4 ≠ 0) →
      s.cmdOf b = none)
      ∧ ∀ (s : State) (k : CoreId) (q : Fin 4) (c : Cmd) (block : BitVec 512),
        let t := s.acceptCmd k q c block
        let ring := (s.die (dieOf k)).spilled.any fun y => y.core == k && y.queue == q
        ((t.queue k q).count c.domain).out = ((s.queue k q).count c.domain).out + 1
          ∧ (∀ d, d ≠ c.domain → (t.queue k q).count d = (s.queue k q).count d)
          ∧ (∀ k' q', (k', q') ≠ (k, q) → t.queue k' q' = s.queue k' q')
          ∧ ((s.queue k q).entries.length < 16 → ring = false →
              (t.queue k q).entries = (s.queue k q).entries ++ [c] ∧ (t.die (dieOf k)).spilled = (s.die (dieOf k)).spilled)
          ∧ (16 ≤ (s.queue k q).entries.length ∨ ring = true →
              (t.queue k q).entries = (s.queue k q).entries
                ∧ ∃ y, (t.die (dieOf k)).spilled = (s.die (dieOf k)).spilled ++ [y] ∧ y.core = k ∧ y.queue = q ∧ y.cmd = c
                  ∧ ((s.die (dieOf k)).spilled.length < (s.die (dieOf k)).spillSize.toNat →
                    y.place < (s.die (dieOf k)).spillSize.toNat ∧ ∀ z ∈ (s.die (dieOf k)).spilled, z.place ≠ y.place)))


/-- R198, R45, R47: fpush appends a word to the format queue. A patch word whose template has no earlier tset under way runs the
operation that the template holds, amended where a field is named, and the template keeps the amendment; one of A whose template holds
li writes the immediate that the template then holds.
R120, R47: tset loads the 32 bytes at its address into the template, once the engine's earlier patch words that name it are
past; no other template changes. -/
def Obligations.TemplateWords : Prop :=
  ((∀ (t : Tok) (a : Src) (v : Word) (s s1 s2 : State), s.Admits .A t (Src.uses a) s1 → s1.src a = .ok (v, s2) →
      s.roll.fmtq.length < 16 →
      ∃ w : State, exec (.fpush t a) s = .next (w.retire .A t 0) ∧ s.Passed (w.retire .A t 0) .A ∧ w.roll.fmtq = s.roll.fmtq ++ [v])
      ∧ (∀ (e : Eng) (n : BitVec 6) (img : BitVec 256) (i : Instr) (s : State), s.tsetAhead e n = false →
        s.template e n = some img → decodeImage e img = .ok i → exec (.patchWord e n 0 0) s = exec i s)
      ∧ (∀ (e : Eng) (n : BitVec 6) (fsel : BitVec 4) (value : BitVec 74) (img : BitVec 256) (i0 i : Instr) (lo w : Nat) (s : State),
        s.tsetAhead e n = false → s.template e n = some img → decodeImage e img = .ok i0 → fsel ≠ 0 →
        fieldSpan e (img.extractLsb' 249 7).toNat fsel.toNat = some (lo, w) → value.toNat < 2 ^ w →
        decodeImage e (amendImage img lo w value.toNat) = .ok i →
        ∀ u : State, u = s.setTemplate e n (amendImage img lo w value.toNat) →
          exec (.patchWord e n fsel value) s = exec i { u with cur := { u.cur with undo := some (n, img) } })
      ∧ (∀ (n : BitVec 6) (img : BitVec 256) (t : Tok) (k : Fin 32) (imm : Word) (s s1 : State), s.tsetAhead .A n = false →
        s.template .A n = some img → decodeImage .A img = .ok (.li t (.x k) imm) → s.Admits .A t [] s1 → s.xBusy k = false →
        exec (.patchWord .A n 0 0) s = .next ((s1.setX k imm).retire .A t 0))
      ∧ (∀ (e : Eng) (n : BitVec 6) (fsel : BitVec 4) (value : BitVec 74) (s : State),
        s.tsetAhead e n = false → s.template e n = none →
        exec (.patchWord e n fsel value) s = .next (s.fault e (Flt.mk' .illegal 0)))
      ∧ ∀ (img : BitVec 256) (lo w v : Nat), lo + w ≤ 256 → v < 2 ^ w → (amendImage img lo w v).extractLsb' lo w = BitVec.ofNat w v
        ∧ ∀ i, i < 256 → (i < lo ∨ lo + w ≤ i) → (amendImage img lo w v).getLsbD i = img.getLsbD i)
  ∧
  (∀ (t : Tok) (n : BitVec 6) (a : Src) (e : Eng) (p : Word) (x : Nat) (bs : List Byte) (s s1 s2 s3 s4 : State),
      s.Admits .A t (Src.uses a) s1 → s1.src a = .ok (p, s2) → s2.reach p 32 .tset = .ok (x, s3) →
      s3.aheadHas e .A (isPatch e n) = false → s3.performLoads s3.flight.loads.length = .ok s4 →
      s4.loadBytes .A p x 32 = .ok bs →
      ∃ w, exec (.tset t n a e) s = .next w ∧ s.Passed w .A ∧ w.template e n = some (BitVec.ofNat 256 (leNat bs))
        ∧ ∀ e' m, (e', m) ≠ (e, n) → w.template e' m = s.template e' m)

/-- R277: sgin and sgout check the record, the segment number and the barrier, read the TIER addresses and touch every page, and then
make the one step on the descriptor. An absent segment with a free slot becomes arriving in the lowest free slot, whose bit of SLOTMAP
is set, the resident count rises by one, and its copy starts; a resident unpinned one becomes leaving and its copy starts; otherwise
only the status tells why not. Each change of a word is one read and one write at its home. -/
def Obligations.SegmentWords : Prop :=
  (∀ (inward : Bool) (t : Tok) (d : Dst) (a b : Src) (adr arg v : Word) (r : CtxRec) (ts : List Word)
      (s s1 s2 s3 s4 s5 s6 s7 s8 : State),
    s.Admits .A t (Src.uses a ++ Src.uses b ++ Dst.uses d) s1 → s1.src a = .ok (adr, s2) → s2.src b = .ok (arg, s3) →
    s3.ctxRecord adr = .ok (r, s4) → arg.toNat % 4294967296 < r.nseg → entryBad (arg.extractLsb' 32 32) true = false →
    s4.entryCheck s.domain s.supv (arg.extractLsb' 32 32) = .ok () →
    s4.tiers r (arg.toNat % 4294967296) 0 r.blocks = .ok (ts, s5) →
    s5.touchAll (if inward then .load else .store) r.blockBytes ts = .ok s6 →
    s6.touchAll (if inward then .store else .load) (r.blocks * r.blockBytes) ((List.range r.limit).map r.slotAt) = .ok s7 →
    s7.drainKnown .A 3 = .ok s8 → s8.dstReady d = .ok () →
    s8.barFlt s8.me (arg.extractLsb' 32 32) (r.blocks * r.blockBytes) = none →
    (∀ s9 s10, (if inward then s8.stepIn r (arg.toNat % 4294967296) ts (arg.extractLsb' 32 32)
        else s8.stepOut r (arg.toNat % 4294967296) ts (arg.extractLsb' 32 32)) = .ok (v, s9) → s9.dst d v = .ok s10 →
      exec (if inward then .sgin t d a b else .sgout t d a b) s = .next (s10.retire .A t 2))
    ∧ (∀ (c i : Nat) (bs : List Byte) (s9 s10 u1 u2 u3 u4 : State), inward = true →
      s8.atomic (r.descAt (arg.toNat % 4294967296)) 8 (fun _ => none) = .ok (c, s9) → c / 262144 % 4 = 0 →
      s9.readRecord (r.adr + 16) 8 = .ok (bs, s10) → leNat bs / 281474976710656 ≠ r.limit →
      s10.freeSlot r 0 r.limit = .ok (some i) →
      s10.rmwA (r.descAt (arg.toNat % 4294967296))
        (fun w => w / 1048576 * 1048576 + 262144 + w / 65536 % 4 * 65536 + i) = .ok u1 →
      u1.rmwA (r.mapAt i) (fun w => if w.testBit (i % 64) then w else w + 2 ^ (i % 64)) = .ok u2 →
      u2.rmwA (r.adr + 16) (fun w => (w + 281474976710656) % 2 ^ 64) = .ok u3 →
      (u3.startSeg r true true (arg.toNat % 4294967296) i ts (arg.extractLsb' 32 32)).dst d (BitVec.ofNat 64 i) = .ok u4 →
      exec (.sgin t d a b) s = .next (u4.retire .A t 2))
    ∧ ∀ (c : Nat) (s9 u1 u2 : State), inward = false →
      s8.atomic (r.descAt (arg.toNat % 4294967296)) 8 (fun _ => none) = .ok (c, s9) → c / 262144 % 4 = 2 →
      c / 281474976710656 = 0 →
      s9.rmwA (r.descAt (arg.toNat % 4294967296))
        (fun w => w / 1048576 * 1048576 + 3 * 262144 + w / 65536 % 4 * 65536 + c % 65536) = .ok u1 →
      (u1.startSeg r false (c.testBit 17) (arg.toNat % 4294967296) (c % 65536) ts (arg.extractLsb' 32 32)).dst d
        (BitVec.ofNat 64 (c % 65536)) = .ok u2 →
      exec (.sgout t d a b) s = .next (u2.retire .A t 2))
    ∧ (∀ (r : CtxRec) (j : Nat) (ts : List Word) (bar : W32) (v : Nat) (s s1 : State),
      s.atomic (r.descAt j) 8 (fun _ => none) = .ok (v, s1) →
      (v / 262144 % 4 ≠ 0 → s.stepIn r j ts bar = .ok (1#2 ++ BitVec.ofNat 62 (v % 65536), s1))
        ∧ (v / 262144 % 4 ≠ 2 → s.stepOut r j ts bar = .ok (0x4000000000000000#64, s1))
        ∧ (v / 262144 % 4 = 2 → v / 281474976710656 ≠ 0 → s.stepOut r j ts bar = .ok (0x8000000000000000#64, s1))
        ∧ (∀ u x, r.limit < 65536 → v / 262144 % 4 = 0 → s.stepIn r j ts bar = .ok (x, u) → x.extractLsb' 62 2 = 0 →
          ∃ c, u.segs = s.segs ++ [c] ∧ c.seg = j ∧ c.slot = x.toNat ∧ c.inward = true ∧ c.tiers = ts ∧ c.unit = 0)
        ∧ (∀ u x, v / 262144 % 4 = 2 → v / 281474976710656 = 0 → s.stepOut r j ts bar = .ok (x, u) →
          ∃ c, u.segs = s.segs ++ [c] ∧ c.seg = j ∧ c.slot = v % 65536 ∧ c.inward = false ∧ c.move = v.testBit 17))
    ∧ (∀ (p : Word) (x old : Nat) (f : Nat → Nat) (s u : State), s.Homes p 8 x old u →
      s.rmwA p f = .ok (((u.writeAt (u.obs .A p) u.me x (leBytes 8 (f old))).peerReceipt .A x).touched x 16))
    ∧ ∀ (r : CtxRec) (n i : Nat) (s : State), s.freeSlot r 0 n = .ok (some i) → i < n
      ∧ (∃ bs u, s.readRecord (r.mapAt i) 8 = .ok (bs, u) ∧ (leNat bs).testBit (i % 64) = false)
      ∧ ∀ k, k < i → ∃ bs u, s.readRecord (r.mapAt k) 8 = .ok (bs, u) ∧ (leNat bs).testBit (k % 64) = true

/-! ## The C engine -/

/-- R151, R152, R153, R155, R157, R159, R343: every operation of C issues once its operands are there and a place is free, charges its
barrier and walks on: the words with two queues take their fields from the queues' values, a drain its address, every template form
its image's fields. -/
def Obligations.CopyIssue : Prop :=
  CopyResult .cCopy .copy (fun d src n => { CFields.zero with f1 := d, f2 := src, f3 := BitVec.ofNat 32 (64 * (n.toNat + 1)) })
    ∧ CopyResult .cFill .fill (fun d v n => { CFields.zero with f1 := d, f2 := v, f3 := BitVec.ofNat 32 (64 * (n.toNat + 1)) })
    ∧ CopyResult .cConvF32 (.conv .f32) (fun d v n => { CFields.zero with f1 := d, f2 := v, f3 := 1024, f5 := n.setWidth 16 })
    ∧ CopyResult .cConvBf16 (.conv .bf16) (fun d v n => { CFields.zero with f1 := d, f2 := v, f3 := 1024, f5 := n.setWidth 16 })
    ∧ CopyResult .cConvF16 (.conv .f16) (fun d v n => { CFields.zero with f1 := d, f2 := v, f3 := 1024, f5 := n.setWidth 16 })
    ∧ ImageResult .cGath .gath ∧ ImageResult .cScat .scat ∧ ImageResult .cDrainSel .drainSel
    ∧ ImageResult .cRsend .rsend ∧ ImageResult .cRrecv .rrecv ∧ ImageResult (fun t f => .cDrain t (.image f)) .drain
    ∧ ∀ (t : Tok) (n : BitVec 6) (q : QSrc) (x : Word) (p : List (Fin 16 × QEntry)) (s s1 s2 : State),
      s.Admits .C t (QSrc.uses q) s1 → s1.qsrc .C q = .ok (x, p, s2) → s2.cBusy < 16 →
      s2.opCheck s2.textAgent true .drain { CFields.zero with f1 := x, f2 := n.setWidth 64, f3 := 1 } = .ok () →
      s2.mayCharge .drain { CFields.zero with f1 := x, f2 := n.setWidth 64, f3 := 1 } →
      s.IssuesC (.cDrain t (.direct n q)) t .drain { CFields.zero with f1 := x, f2 := n.setWidth 64, f3 := 1 }

/-- R155, R156, R157, R159, R343, R76: what one unit of an operation does: a chunk of c.copy writes the bytes it reads, or updates the
elements at their bank with them, after the check of its trailer where asked; c.fill writes its pattern; 32 elements of c.conv are
converted, and with the last of them come the padding and the trailer; an element of c.gath comes from the source at its index and one of
c.scat goes to the destination at it; a tile of c.drain is written and, where asked, zeroed; c.drain.sel writes the record of its
selection and zeroes its tiles where asked; c.rsend gives its node the values it reads, and c.rrecv writes the result that its node has.
What counts as one unit of c.conv, c.drain and c.drain.sel is the model's choice (log entry 32). -/
def Obligations.CopyUnits : Prop :=
  ∀ (g : Agent) (f : CFields) (p : Nat) (s s1 s2 s3 : State) (kept bs ix : List Byte) (ps : List (Nat × Nat)),
    (p < opUnits .copy f → f.f5 = 0 → f.f6 = 0 →
      s.readC g (f.f2 + BitVec.ofNat 64 (4096 * p)) (Nat.min 4096 (f.f3.toNat - 4096 * p)) = .ok (bs, s1) →
      s1.range g (f.f1 + BitVec.ofNat 64 (4096 * p)) (Nat.min 4096 (f.f3.toNat - 4096 * p)) .store = .ok (ps, s2) →
      s2.writeC g (f.f1 + BitVec.ofNat 64 (4096 * p)) bs = .ok s3 →
      ∃ u, s.opUnit g .copy f kept p = .ok u ∧ u.s = s3 ∧ u.p = p + 1 ∧ u.bytes = Nat.min 4096 (f.f3.toNat - 4096 * p)
        ∧ u.last = decide (opUnits .copy f ≤ p + 1))
      ∧ (p < opUnits .fill f → bs.length = Nat.min 4096 (f.f3.toNat - 4096 * p) →
        (∀ i, i < bs.length → bs[i]? = some (f.f2.extractLsb' (8 * (i % 8)) 8)) →
        s.writeC g (f.f1 + BitVec.ofNat 64 (4096 * p)) bs = .ok s3 →
        ∃ u, s.opUnit g .fill f kept p = .ok u ∧ u.s = s3 ∧ u.p = p + 1 ∧ u.bytes = bs.length
          ∧ u.last = decide (opUnits .fill f ≤ p + 1))
      ∧ (p < f.f5.toNat → s.readC g (0x8000000000000000 + f.f3.setWidth 64 + BitVec.ofNat 64 (4 * p)) 4 = .ok (ix, s1) →
        (s1.readC g (f.f2 + BitVec.ofNat 64 (leNat ix) <<< f.f7.toNat) f.f6.toNat = .ok (bs, s2) →
          s2.writeC g (f.f1 + BitVec.ofNat 64 (f.f6.toNat * p)) bs = .ok s3 →
          ∃ u, s.opUnit g .gath f kept p = .ok u ∧ u.s = s3 ∧ u.p = p + 1 ∧ u.bytes = f.f6.toNat
            ∧ u.last = decide (f.f5.toNat ≤ p + 1))
          ∧ (s1.readC g (f.f2 + BitVec.ofNat 64 (f.f6.toNat * p)) f.f6.toNat = .ok (bs, s2) →
            s2.writeC g (f.f1 + BitVec.ofNat 64 (leNat ix) <<< f.f7.toNat) bs = .ok s3 →
            ∃ u, s.opUnit g .scat f kept p = .ok u ∧ u.s = s3 ∧ u.p = p + 1 ∧ u.bytes = f.f6.toNat
              ∧ u.last = decide (f.f5.toNat ≤ p + 1)))
      ∧ (1024 * p < opUnits .drain f →
        bs = (s.accTile (f.f2.toNat + p)).toList.flatMap (fun w => leBytes 4 w.toNat) →
        s.writeC g (f.f1 + BitVec.ofNat 64 (4096 * p)) bs = .ok s3 →
        ∃ u, s.opUnit g .drain f kept (1024 * p) = .ok u ∧ u.p = 1024 * (p + 1) ∧ u.bytes = 4096 ∧ u.charge = 4096
          ∧ u.s.accTile (f.f2.toNat + p) = (if f.f5 = 1 then Tile.zero else s.accTile (f.f2.toNat + p))
          ∧ u.last = decide (f.f3.toNat ≤ p + 1))
      ∧ (p < opUnits .copy f → f.f5 ≠ 0 → f.f6 = 0 →
        s.readC g (f.f2 + BitVec.ofNat 64 (4096 * p)) (Nat.min 4096 (f.f3.toNat - 4096 * p)) = .ok (bs, s1) →
        s1.range g (f.f1 + BitVec.ofNat 64 (4096 * p)) (Nat.min 4096 (f.f3.toNat - 4096 * p)) .store = .ok (ps, s2) →
        s2.updates g f.f5.toNat (f.f1 + BitVec.ofNat 64 (4096 * p)) bs (Nat.min 4096 (f.f3.toNat - 4096 * p) / 4) = .ok s3 →
        ∃ u, s.opUnit g .copy f kept p = .ok u ∧ u.s = s3 ∧ u.p = p + 1 ∧ u.bytes = Nat.min 4096 (f.f3.toNat - 4096 * p)
          ∧ u.last = decide (opUnits .copy f ≤ p + 1))
      ∧ (f.f6 = 1 → s.range g f.f2 f.f3.toNat .load = .ok (ps, s1) → s1.readPieces g f.f2 ps = .ok bs →
        (f.f3.toNat < 64 ∨ trailerOk (bs.take (f.f3.toNat - 64)) (BitVec.ofNat 512 (leNat (bs.drop (f.f3.toNat - 64)))) none = false) →
        s.opUnit g .copy f kept 0 = .error (trailerFlt f.f2 ps))
      ∧ (∀ (t : Ty) (codes scales : List Nat) (ev : Events) (s4 : State), p % 32 = 0 → p + 32 < f.f3.toNat →
        kept.length = srcBytes t * p →
        s.readC g (f.f2 + BitVec.ofNat 64 (srcBytes t * p)) (srcBytes t * 32) = .ok (bs, s1) →
        quant32 f.f5.toNat (srcVals t bs) = (codes, scales, ev) →
        s1.writeC g (f.f1 + BitVec.ofNat 64 (elemBytes f.f5.toNat p)) (packBytes f.f5.toNat codes) = .ok s2 →
        s2.writeC g (f.f1 + BitVec.ofNat 64 (pad64 (elemBytes f.f5.toNat f.f3.toNat) + scaleCount f.f5.toNat p))
          (scales.map fun x => BitVec.ofNat 8 x) = .ok s4 →
        ∃ u, s.opUnit g (.conv t) f kept p = .ok u ∧ u.s = s4 ∧ u.p = p + 32 ∧ u.kept = kept ++ bs ∧ u.last = false
          ∧ u.bytes = (packBytes f.f5.toNat codes).length + scales.length)
      ∧ (∀ (k : Nat) (st : Sel), k = f.f7.toNat + 1 → 0 < f.f6.toNat → f.f8.getLsbD 1 = false →
        st = s.selTiles (FFmt.f32.decode f.f3.toNat)
          { m := .inf true, sum := .zero, nan := 0, cand := List.replicate k (.inf true, 0xFFFFFFFF) } f.f5.toNat f.f2.toNat f.f6.toNat →
        s.writeC g f.f1 (selRecord k st) = .ok s1 →
        ∃ u, s.opUnit g .drainSel f kept 0 = .ok u ∧ u.s.mem = s1.mem ∧ u.s.stores = s1.stores ∧ u.last = true
          ∧ u.bytes = 16 + 8 * k ∧ u.charge = 4096 * f.f6.toNat ∧ u.read = 4096 * f.f6.toNat
          ∧ ∀ i, i < 64 → f.f5.toNat + f.f6.toNat ≤ 64 → u.s.accTile i
            = (if f.f8.getLsbD 0 = true ∧ f.f5.toNat ≤ i ∧ i < f.f5.toNat + f.f6.toNat then Tile.zero else s.accTile i))
      ∧ (∀ (t : Fin 256) (n : Nat), t = Fin.ofNat 256 f.f5.toNat → n = s.treeElems t (dieOf g.core) →
        s.readC g f.f1 (4 * n) = .ok (bs, s1) → s2 = s1.send .C →
        ∃ u, s.opUnit g .rsend f kept 0 = .ok u ∧ u.p = 1 ∧ u.bytes = 4 * n ∧ u.last = true
          ∧ u.s = s2.nodeInput (dieOf g.core) t (siteOf g.core) 0 f.f2.toNat (f32List bs n) (s2.run .C).beat)
      ∧ ∀ (t : Fin 256) (node : Node) (vals : List W32) (beat : BitVec 48), t = Fin.ofNat 256 f.f5.toNat →
        node = s.nodeState (dieOf g.core) t (siteOf g.core) → (node.failed.find? fun x => x.1 == f.f2.toNat) = none →
        node.resultOf f.f2.toNat = some (vals, beat) →
        s.writeC g f.f1 (vals.flatMap fun w => leBytes 4 w.toNat) = .ok s1 →
        ∃ u, s.opUnit g .rrecv f kept 0 = .ok u ∧ u.p = 1 ∧ u.bytes = 4 * vals.length ∧ u.last = true
          ∧ u.s = (s1.setNode (dieOf g.core) (node.deliver f.f2.toNat)).receive .C beat Known.none

/-- R133, R153, R277: COPY_UNIT_PERFORMED, at the turn of C's oldest operation, of the command that runs on a queue, or of a segment copy,
performs its next unit: memory afterwards is what that unit leaves, with the operation's bytes taken from its barrier, and no observer
outside the core finds anything else; an operation that is complete leaves. A chunk of a segment copy writes the bytes that it reads. The
turns (log entry 32) and the form of a chunk of a segment copy (log entry 23) are the model's choices. R96: a completed operation is
progress. R336: a unit that a drain of a channel holds up has no turn.
R133, R137, R139, R140: the head of a queue runs once its checks pass, else it halts its queue; when all its units are performed, and
acknowledged by the peers they went to, it completes: it leaves the queue and its domain's counts change; the oldest spilled command of
a queue moves into a free entry, as the ring holds its block; CQCTL resumes a halted queue at its progress, or discards its head. -/
def Obligations.QueueAndCopySteps : Prop :=
  ((∀ (k : CoreId) (s m : State) (o : COp) (rest : List COp) (u : UnitDone), s.workReady k .text = true →
    s.turn k = placeOf .text → m = (s.moved k (placeOf .text) (s.workSize k .text)).on k →
    (s.on k).flight.cops = o :: rest → m.opUnit (m.opAgent o) o.kind o.f o.kept o.p = .ok u →
    m.barFlt m.me o.f.f4 (u.charge + u.bytes) = none →
    ∃ w : State, exec (.copyUnitPerformed k .text) s = .next w
      ∧ w.mem = (u.s.settleBytes (m.opAgent o) u).mem ∧ w.poison = (u.s.settleBytes (m.opAgent o) u).poison
      ∧ w.peerStores = (u.s.settleBytes (m.opAgent o) u).peerStores ∧ w.cell.acc = u.s.cell.acc
      ∧ (∀ o' y, (∀ e a, o' ≠ .engine k e a) → w.peekByte o' y = (u.s.settleBytes (m.opAgent o) u).peekByte o' y)
      ∧ (u.last = true → w.flight.cops = rest ∧ w.cell.progress = s.now)
      ∧ (u.last = false →
        w.flight.cops = { o with p := u.p, left := o.left + u.charge - u.read - u.bytes, kept := u.kept } :: rest))
    ∧ (∀ (k : CoreId) (q : Fin 4) (s m : State) (c : Cmd) (rest : List Cmd) (u : UnitDone), s.workReady k (.command q) = true →
      s.turn k = placeOf (.command q) → m = (s.moved k (placeOf (.command q)) (s.workSize k (.command q))).on k →
      (s.queue k q).entries = c :: rest →
      m.opUnit (cmdAgent k q c) c.kind c.f (s.queue k q).kept (s.queue k q).p = .ok u →
      ∃ w : State, exec (.copyUnitPerformed k (.command q)) s = .next w ∧ w.mem = u.s.mem ∧ w.stores = u.s.stores
        ∧ w.poison = u.s.poison ∧ w.peerStores = u.s.peerStores ∧ (w.queue k q).p = u.p
        ∧ (w.queue k q).kept = u.kept ∧ (w.queue k q).entries = c :: rest)
    ∧ (∀ (k : CoreId) (n : Nat) (s : State) (c : SegCopy), s.workReady k (.segment n) = true → s.turn k = 5 → s.segs[n]? = some c →
      ∃ w : State, exec (.copyUnitPerformed k (.segment n)) s = .next w ∧ w.segs = s.segs.set n { c with unit := c.unit + 1 })
    ∧ (∀ (k : CoreId) (n : Nat) (s m s1 s2 v : State) (c : SegCopy) (ps qs : List (Nat × Nat)) (bs : List Byte),
      s.workReady k (.segment n) = true → s.turn k = 5 → s.segs[n]? = some c →
      m = { s.moved k 5 c.chunk.2.2 with segs := s.segs.set n { c with unit := c.unit + 1 } } → m.range c.agent c.chunk.1 c.chunk.2.2 .load = .ok (ps, s1) →
      s1.range c.agent c.chunk.2.1 c.chunk.2.2 .store = .ok (qs, s2) →
      (∀ x ∈ granulesOf ps, s2.badAt (c.agent.obs c.chunk.1) c.agent.who x 8 = none) →
      bs = (granulesOf ps).flatMap (fun x => s2.readAt (c.agent.obs c.chunk.1) c.agent.who x 8) →
      v = (s2.touchPieces c.agent ps).writePieces c.agent c.chunk.2.1 bs qs → v.barFlt c.agent.who c.agent.bar c.chunk.2.2 = none →
      ∃ w : State, exec (.copyUnitPerformed k (.segment n)) s = .next w
        ∧ w.mem = (v.deliveredBy 0 c.agent c.chunk.2.2).mem ∧ w.stores = (v.deliveredBy 0 c.agent c.chunk.2.2).stores
        ∧ w.poison = (v.deliveredBy 0 c.agent c.chunk.2.2).poison)
    ∧ ∀ (k : CoreId) (n : Nat) (s : State) (c : SegCopy), s.awake = true → s.segs[n]? = some c → c.core = k → c.units ≤ c.unit →
      s.segBehind c = false → (∀ w ∈ s.peerStores, c.agent.wrote 0 w = false) →
      ∃ w : State, exec (.segmentFinalStep k n) s = .next w ∧ w.segs = s.segs.eraseIdx n)
    ∧ (∀ (s : State) (k : CoreId) (q : Fin 4) (c : Cmd) (rest : List Cmd),
    ((s.queue k q).entries = c :: rest → (s.queue k q).running = false → (s.queue k q).halted = false → s.awake = true →
        (∀ u, s.opCheck (cmdAgent k q c) false c.kind c.f = .ok u →
          ∃ w : State, exec (.commandRun k q) s = .next w ∧ (w.queue k q).running = true ∧ (w.queue k q).entries = c :: rest)
        ∧ (∀ f, s.opCheck (cmdAgent k q c) false c.kind c.f = .error f →
          ∃ w : State, exec (.commandRun k q) s = .next w ∧ (w.queue k q).halted = true ∧ (w.queue k q).entries = c :: rest))
      ∧ ((s.queue k q).entries = c :: rest → (s.queue k q).running = true → opUnits c.kind c.f ≤ (s.queue k q).p → s.awake = true →
        (∀ w ∈ s.peerStores, (cmdAgent k q c).wrote 0 w = false) → s.barFlt (some c.owner) c.bar (s.cmdBytes k c) = none →
        ∃ w : State, exec (.commandComplete k q) s = .next w ∧ (w.queue k q).entries = rest ∧ (w.queue k q).running = false
          ∧ ((w.queue k q).count c.domain).done = ((s.queue k q).count c.domain).done + 1
          ∧ ((w.queue k q).count c.domain).out = ((s.queue k q).count c.domain).out - 1)
      ∧ (∀ (pre post : List Spilled) (y : Spilled) (bs : List Byte) (u : State), (s.die (dieOf k)).spilled = pre ++ y :: post →
        y.core = k → y.queue = q → (∀ z ∈ pre, z.core ≠ k ∨ z.queue ≠ q) → (s.queue k q).entries.length < 16 → s.awake = true →
        s.readC (spillAgent k) ((s.die (dieOf k)).spillBase + BitVec.ofNat 64 (64 * y.place)) 64 = .ok (bs, u) →
        s.spillDrains k y.place = false →
        cmdFrom y.cmd.domain y.cmd.supv y.cmd.owner y.cmd.pc (BitVec.ofNat 512 (leNat bs)) = some c →
        ∃ w : State, exec (.spillRefill k q) s = .next w ∧ (w.queue k q).entries = (s.queue k q).entries ++ [c]
          ∧ (w.die (dieOf k)).spilled = pre ++ post)
      ∧ (∀ v : Word, coreAt (dieOf k) (v.toNat / 4 % 256) = some k → Fin.ofNat 4 v.toNat = q → v.toNat / 2 ^ 12 = 0 →
        (s.queue k q).halted = true → (s.queue k q).entries = c :: rest →
        (v.extractLsb' 10 2 = 1 → ((s.writeCqctl (dieOf k) v).queue k q) = { s.queue k q with halted := false, running := false })
        ∧ (v.extractLsb' 10 2 = 2 → ((s.writeCqctl (dieOf k) v).queue k q).halted = false ∧ ((s.writeCqctl (dieOf k) v).queue k q).entries = rest)))

/-- R162, R164, R165, R166: c.wmap maps a window from a sound record: its head is 0 and every row of its ring is to arrive; c.wadv moves
the head on, never past the tensor's rows, and asks for the rows that enter; c.wret unmaps.
R170: c.pfx changes no memory and places a translation of every page of its run that the tables map and the device reaches, or finds it
cached; a page that they do not map is left out. The caches of the other die stay; the translations that the die's cache held stay where
it has room, and which one a full cache drops is the model's choice (log entry 26).
R360: c.mbx appends a value for an open stream of the domain to the staging queue. -/
def Obligations.WindowWords : Prop :=
  ((∀ (t : Tok) (n : Fin 8) (q : QSrc) (p : Word) (ps : List (Fin 16 × QEntry)) (bs : List Byte) (s s1 s2 s3 s4 : State),
      s.Admits .C t (QSrc.uses q) s1 → s1.qsrc .C q = .ok (p, ps, s2) → s.cBusy < 16 → p.toNat % 64 = 0 →
      s2.behindDrain s2.textAgent p 64 = false → s2.readC s2.textAgent p 64 = .ok (bs, s3) → s3.shapeBad n (BitVec.ofNat 512 (leNat bs)) = none →
      s.roll.win[n].busy = false → (s3.setWin n Window.none).translateRows (shapeOf (BitVec.ofNat 512 (leNat bs))) 0
        (shapeOf (BitVec.ofNat 512 (leNat bs))).ringrows = .ok s4 →
      ∃ w : State, exec (.cWmap t n q) s = .next w ∧ s.Passed w .C
        ∧ w.roll.win[n].shape = some (shapeOf (BitVec.ofNat 512 (leNat bs))) ∧ w.roll.win[n].head = 0
        ∧ w.roll.win[n].missing = List.range (shapeOf (BitVec.ofNat 512 (leNat bs))).ringrows
        ∧ ∀ m, m ≠ n → w.roll.win[m] = s.roll.win[m])
      ∧ (∀ (t : Tok) (n : Fin 8) (c : BitVec 6) (sh : Shape) (h : Nat) (s s1 s2 : State),
        s.Admits .C t [] s1 → s.cBusy < 16 → s.roll.win[n].shape = some sh →
        h = Nat.min (s.roll.win[n].head + c.toNat + 1) sh.rows →
        s1.translateRows sh (s.roll.win[n].head + sh.ringrows) (h - s.roll.win[n].head) = .ok s2 →
        ∃ w : State, exec (.cWadv t n c) s = .next w ∧ s.Passed w .C ∧ w.roll.win[n].shape = some sh ∧ w.roll.win[n].head = h
          ∧ (∀ row, row ∈ w.roll.win[n].missing ↔ row ∈ s.roll.win[n].missing
              ∨ (s.roll.win[n].head + sh.ringrows ≤ row ∧ h ≤ row ∧ row < h + sh.ringrows))
          ∧ ∀ m, m ≠ n → w.roll.win[m] = s.roll.win[m])
      ∧ (∀ (t : Tok) (n : Fin 8) (s s1 : State), s.Admits .C t [] s1 → s.roll.win[n].busy = false →
        ∃ w : State, exec (.cWret t n) s = .next w ∧ s.Passed w .C ∧ w.roll.win[n] = Window.none
          ∧ ∀ m, m ≠ n → w.roll.win[m] = s.roll.win[m])
      ∧ ∀ (k : CoreId) (n : Fin 8) (row : Nat) (sh : Shape) (bs : List Byte) (s s1 s2 : State), (s.on k).working = true →
        (s.on k).roll.win[n].canArrive row = true → (s.on k).rowHeld n row = false → (s.on k).roll.win[n].shape = some sh →
        (if row < sh.rows then (s.on k).readC (s.on k).textAgent (sh.base + BitVec.ofNat 64 (row * sh.stride.toNat)) sh.rowlen
          = .ok (bs, s1) else bs = [] ∧ s1 = s.on k) →
        s1.writeC (s.on k).textAgent (0x8000000000000000 + BitVec.ofNat 64 (sh.ring + row % sh.ringrows * sh.pitch))
          (bs ++ List.replicate (sh.pitch - bs.length) 0) = .ok s2 →
        ∃ w : State, exec (.windowRowArrival k n row) s = .next w ∧ w.roll.win[n].shape = some sh
          ∧ w.roll.win[n].head = (s.on k).roll.win[n].head
          ∧ w.roll.win[n].missing = (s.on k).roll.win[n].missing.filter (· != row))
  ∧
  ((∀ (t : Tok) (q : QSrc) (n : BitVec 6) (v : Word) (ps : List (Fin 16 × QEntry)) (s s1 s2 : State),
      s.Admits .C t (QSrc.uses q) s1 → s1.qsrc .C q = .ok (v, ps, s2) →
      ∃ w : State, exec (.cPfx t q n) s = .next w ∧ s.Passed w .C ∧ w.mem = s.mem
        ∧ (∀ d, d ≠ s.dieId → (w.die d).tlb = (s.die d).tlb)
        ∧ ((s.die s.dieId).tlb.length + (n.toNat + 1) ≤ 32768 → (∀ x ∈ s.core.micro, x ∈ (s.die s.dieId).tlb) →
          (∀ x ∈ (s.die s.dieId).tlb, x ∈ (w.die s.dieId).tlb)
          ∧ ∀ (i : Nat) (p : Word) (x : TlbEntry), i ≤ n.toNat → p = v + BitVec.ofNat 64 (65536 * i) → p.toNat < 2 ^ 57 →
            s.walkTables s.domain p.toNat p .load = .ok x → s.physCheck (x.phys p.toNat) p .load = .ok () →
            (w.cached (some s.cur.core) s.dieId s.domain p.toNat).isSome = true))
      ∧ ∀ (t : Tok) (q : QSrc) (k : BitVec 6) (v : Word) (ps : List (Fin 16 × QEntry)) (s s1 s2 : State),
        s.Admits .C t (QSrc.uses q) s1 → s1.qsrc .C q = .ok (v, ps, s2) →
        ((s.streamOf s.domain k).isSome = true ∨ s.waitsStaging = true) → s.roll.staging.length < 64 →
        ∃ w : State, exec (.cMbx t q k) s = .next w ∧ s.Passed w .C
          ∧ w.roll.staging = s.roll.staging ++ [{ stream := k, value := v }])

/-! ## The matrix engine -/

/-- R198-R202, R206, R208, R209: m.mma and m.mmas issue with the format word at the head of its queue and their operands, once M is
free and the operands pass their checks; m.zero zeroes its run of tiles and no other; m.lvl sets a level of the nest to be; m.go starts
the nest that is configured; m.stop ends the issue of a live nest's bodies. -/
def Obligations.MatrixWords : Prop :=
  (∀ (sparse : Bool) (t : Tok) (shape : Fin 8) (o : MForm) (fw a b am bm : Word) (rest : List Word) (n fa fb : Nat)
      (s s1 s2 : State),
    s.Admits .M t (MForm.uses o) s1 → s.flight.mcmd = none → s.flight.nest = none → s.roll.fmtq = fw :: rest →
    formatsOf fw = some (fa, fb) → (s1.setRoll { s1.roll with fmtq := rest }).mAddrs sparse o = .ok ((n, a, b, am, bm), s2) →
    n + shapeTiles shape ≤ 64 →
    operandsOk (s2.mOperands shape fa fb (a, a) (b, b) (am, am) (bm, bm)).1
      (s2.mOperands shape fa fb (a, a) (b, b) (am, am) (bm, bm)).2.1
      (if sparse then some ((s2.mOperands shape fa fb (a, a) (b, b) (am, am) (bm, bm)).2.2.1,
        (s2.mOperands shape fa fb (a, a) (b, b) (am, am) (bm, bm)).2.2.2) else none) = .ok () →
    s.drainHolds n (shapeTiles shape) = false →
    ∃ w c, exec (if sparse then .mMmas t shape o else .mMma t shape o) s = .next w ∧ s.Passed w .M ∧ w.roll.fmtq = rest
      ∧ w.flight.mcmd = some c ∧ c.sparse = sparse ∧ c.shape = shape ∧ c.n = n ∧ c.a = a ∧ c.b = b ∧ c.am = am ∧ c.bm = bm
      ∧ c.fmt = fw ∧ c.unit = 0 ∧ c.posts = postsOf .M t ∧ w.cell.acc = s.cell.acc)
    ∧ (∀ (t : Tok) (n c : BitVec 6) (s s1 : State), s.Admits .M t [] s1 → n.toNat + c.toNat < 64 → s.flight.mcmd = none →
      s.flight.nest = none → s.drainHolds n.toNat (c.toNat + 1) = false →
      ∃ w : State, exec (.mZero t n c) s = .next w ∧ s.Passed w .M
        ∧ ∀ i : Fin 64, w.cell.acc[i] = if n.toNat ≤ i.val ∧ i.val ≤ n.toNat + c.toNat then Tile.zero else s.cell.acc[i])
    ∧ (∀ (t : Tok) (q : Fin 16) (k : Fin 6) (v : Word) (s s1 s2 : State), s.Admits .M t [(q, false)] s1 →
      s1.pop .M q = .ok (v, s2) → v.getLsbD 0 = false →
      ∃ w : State, exec (.mLvl t q k) s = .next w ∧ s.Passed w .M ∧ w.roll.shadow.levels = s.roll.shadow.levels.set k v
        ∧ w.roll.shadow.body = s.roll.shadow.body)
    ∧ (∀ (t : Tok) (body : Option MBody) (fw : Word) (rest : List Word) (n : Nest) (fa fb : Nat) (s s1 : State),
      s.Admits .M t [] s1 → s.flight.nest = none → s.roll.fmtq = fw :: rest → formatsOf fw = some (fa, fb) →
      n = (match body with | none => s.roll.shadow | some b => { s.roll.shadow with body := b }) → s1.nestOk n fa fb = .ok () →
      ∃ w l, exec (.mGo t body) s = .next w ∧ s.Passed w .M ∧ w.roll.fmtq = rest ∧ w.flight.nest = some l ∧ l.nest = n
        ∧ l.fmt = fw ∧ l.next = 0 ∧ l.posts = postsOf .M t ∧ w.misc.iter = 0 ∧ w.flight.mcmd = s.flight.mcmd)
    ∧ ∀ (t : Tok) (s s1 : State), s.Admits .M t [] s1 →
      ∃ w : State, exec (.mStop t) s = .next w ∧ s.Passed w .M ∧ w.flight.nest = none ∧ w.cell.acc = s.cell.acc

/-- R210, R208, R73, R74: a unit of M's command adds one k-group of products to each element of one tile; after its last unit the
command is done. On the integer path the sum is exact and saturates; on the float path NaN and opposed infinities give the canonical
NaN. A live nest issues its bodies in order, at the addresses and tile that its steps give. -/
def Obligations.MatrixSteps : Prop :=
  (∀ (k : CoreId) (s u : State) (c : MCmd) (fa fb : Nat), (s.on k).working = true → (s.on k).flight.mcmd = some c →
    formatsOf c.fmt = some (fa, fb) → (s.on k).mUnit c fa fb = .ok u →
    ∃ w : State, exec (.matrixUnitPerformed k) s = .next w ∧ w.cell.acc = u.cell.acc ∧ w.roll.msatn = u.roll.msatn
      ∧ w.flight.mcmd = (if c.unit + 1 < (shapeDims c.shape).2.2 / 32 * shapeTiles c.shape then some { c with unit := c.unit + 1, early := [] }
          else none))
    ∧ (∀ (s : State) (c : MCmd) (fa fb m n k : Nat) (as_ bs : List Group), shapeDims c.shape = (m, n, k) → c.sparse = false →
      (c.unit = 0 → s.misc.mctl = 0) →
      s.mGroups fa (m * k) k (c.unit / shapeTiles c.shape) c.a none (16 * (c.unit % shapeTiles c.shape / (n / 64))) 16 = .ok as_ →
      s.mGroups fb (k * n) k (c.unit / shapeTiles c.shape) c.b none (64 * (c.unit % shapeTiles c.shape % (n / 64))) 64 = .ok bs →
      as_.length = 16 → bs.length = 64 →
      ∃ u, s.mUnit c fa fb = .ok u ∧ ∀ (r col : Nat) (x y : Group), as_[r]? = some x → bs[col]? = some y →
        (u.accTile (c.n + c.unit % shapeTiles c.shape)).at_ (64 * r + col) =
          (if fa ≤ 8 ∧ fb ≤ 8 then
            (intStep ((s.accTile (c.n + c.unit % shapeTiles c.shape)).at_ (64 * r + col)) (products (fa == 27) x y)).1
          else floatStep ((s.accTile (c.n + c.unit % shapeTiles c.shape)).at_ (64 * r + col)) (products (fa == 27) x y)))
    ∧ (∀ (acc : W32) (ps : List Val) (v : Int), v = acc.toInt + (ps.map Val.int0).sum →
      (intStep acc ps).1.toInt = max (-2147483648) (min 2147483647 v)
        ∧ (intStep acc ps).2 = (if v < -2147483648 ∨ 2147483647 < v then 1 else 0))
    ∧ (∀ (acc : W32) (ps : List Val), ((FFmt.f32.decode acc.toNat).isNan = true ∨ (∃ p ∈ ps, p.isNan = true)
          ∨ (Val.inf false ∈ ps ∧ Val.inf true ∈ ps)) → floatStep acc ps = 0x7FC00000)
    ∧ ∀ (k : CoreId) (s : State) (l : LiveNest), (s.on k).working = true → (s.on k).throttled .M = false →
      (s.on k).flight.mcmd = none → (s.on k).flight.nest = some l →
      (s.on k).drainHolds (l.body l.next).n (shapeTiles (l.body l.next).shape) = false →
      ∃ w c, exec (.nestBodyCommand k) s = .next w ∧ w.flight.mcmd = some c ∧ c.a = (l.body l.next).a ∧ c.b = (l.body l.next).b
        ∧ c.n = (l.body l.next).n ∧ c.shape = l.nest.body.shape ∧ c.sparse = l.nest.body.sparse ∧ c.fmt = l.fmt
        ∧ c.posts = (if l.total ≤ l.next + 1 then l.posts else [])
        ∧ w.flight.nest = (if l.total ≤ l.next + 1 then none else some { l with next := l.next + 1 })
        ∧ w.misc.iter = BitVec.ofNat 48 (l.next + 1)

/-! ## The vector engine -/

/-- R175, R177, R178, R75: the arithmetic of lanes: each result is the exact value converted to the type, with its events counted.
R176: the bit operations, shifts by the low five bits of b, selection by the old lane of d, and comparisons of lanes. -/
def Obligations.LaneResults : Prop :=
  (∀ (d a b : Fin 16) (m : Mod),
    LaneResult (fun t => .vAdd t d a b m) [a, b] d (fun s n =>
        modResult m ((modVal m ((s.tile a).at_ n)).add (m.rnd == .rdn) (modVal m ((s.tile b).at_ n))))
      ∧ LaneResult (fun t => .vSub t d a b m) [a, b] d (fun s n =>
        modResult m ((modVal m ((s.tile a).at_ n)).add (m.rnd == .rdn) (modVal m ((s.tile b).at_ n)).neg))
      ∧ LaneResult (fun t => .vMul t d a b m) [a, b] d (fun s n =>
        modResult m ((modVal m ((s.tile a).at_ n)).mul (modVal m ((s.tile b).at_ n))))
      ∧ LaneResult (fun t => .vFma t d a b m) [a, b] d (fun s n =>
        modResult m (((modVal m ((s.tile a).at_ n)).mul (modVal m ((s.tile b).at_ n))).add (m.rnd == .rdn)
          (modVal m ((s.tile d).at_ n))))
      ∧ LaneResult (fun t => .vMin t d a b m) [a, b] d (fun s n =>
        modResult m ((modVal m ((s.tile a).at_ n)).min (modVal m ((s.tile b).at_ n))))
      ∧ LaneResult (fun t => .vMax t d a b m) [a, b] d (fun s n =>
        modResult m ((modVal m ((s.tile a).at_ n)).max (modVal m ((s.tile b).at_ n))))
      ∧ LaneResult (fun t => .vAbs t d a m) [a] d (fun s n => modResult m (modVal m ((s.tile a).at_ n)).abs)
      ∧ LaneResult (fun t => .vNeg t d a m) [a] d (fun s n => modResult m (modVal m ((s.tile a).at_ n)).neg)
      ∧ LaneResult (fun t => .vExp2 t d a m) [a] d (fun s n => modResult m (modVal m ((s.tile a).at_ n)).exp2)
      ∧ LaneResult (fun t => .vLog2 t d a m) [a] d (fun s n => modResult m (modVal m ((s.tile a).at_ n)).log2)
      ∧ LaneResult (fun t => .vRcp t d a m) [a] d (fun s n => modResult m (modVal m ((s.tile a).at_ n)).rcp)
      ∧ LaneResult (fun t => .vRsq t d a m) [a] d (fun s n => modResult m (modVal m ((s.tile a).at_ n)).rsq)
      ∧ (∀ (dty sty : Ty) (rnd : Rnd) (sat : Bool), LaneResult (fun t => .vCvt t d a dty sty rnd sat) [a] d (fun s n =>
          dty.convert rnd sat (sty.val ((s.tile a).at_ n))))
      ∧ LaneResult (fun t => .vIota t d m) [] d (fun _ n => modResult m (Val.ofInt n)))
    ∧ (∀ (d a b : Fin 16) (m : Mod),
    LaneResult (fun t => .vAnd t d a b m) [a, b] d (fun s n => ((s.tile a).at_ n &&& (s.tile b).at_ n, Events.none))
      ∧ LaneResult (fun t => .vOr t d a b m) [a, b] d (fun s n => ((s.tile a).at_ n ||| (s.tile b).at_ n, Events.none))
      ∧ LaneResult (fun t => .vXor t d a b m) [a, b] d (fun s n => ((s.tile a).at_ n ^^^ (s.tile b).at_ n, Events.none))
      ∧ LaneResult (fun t => .vShl t d a b m) [a, b] d (fun s n =>
        modResult m (Val.ofInt (m.ty.int ((s.tile a).at_ n) * 2 ^ (((s.tile b).at_ n).toNat % 32))))
      ∧ LaneResult (fun t => .vShr t d a b m) [a, b] d (fun s n =>
        (m.ty.lane (m.ty.int ((s.tile a).at_ n) / 2 ^ (((s.tile b).at_ n).toNat % 32)), Events.none))
      ∧ LaneResult (fun t => .vSel t d a b m) [a, b] d (fun s n =>
        (if (s.tile d).at_ n = 0 then (s.tile b).at_ n else (s.tile a).at_ n, Events.none))
      ∧ LaneResult (fun t => .vCmpEq t d a b m) [a, b] d (fun s n =>
        (if (modVal m ((s.tile a).at_ n)).eq (modVal m ((s.tile b).at_ n)) then 1 else 0, Events.none))
      ∧ LaneResult (fun t => .vCmpNe t d a b m) [a, b] d (fun s n =>
        (if (modVal m ((s.tile a).at_ n)).eq (modVal m ((s.tile b).at_ n)) then 0 else 1, Events.none))
      ∧ LaneResult (fun t => .vCmpLt t d a b m) [a, b] d (fun s n =>
        (if (modVal m ((s.tile a).at_ n)).lt (modVal m ((s.tile b).at_ n)) then 1 else 0, Events.none))
      ∧ LaneResult (fun t => .vCmpLe t d a b m) [a, b] d (fun s n =>
        (if (modVal m ((s.tile a).at_ n)).lt (modVal m ((s.tile b).at_ n))
          || (modVal m ((s.tile a).at_ n)).eq (modVal m ((s.tile b).at_ n)) then 1 else 0, Events.none)))

/-- R182, R184-R186: rotations and broadcasts by a popped count, splat, packing and unpacking of the low bits of lanes, and the
partition of the lane numbers by whether their lanes are zero, whose count of the others is pushed. -/
def Obligations.LaneLayout : Prop :=
  ∀ (d a q : Fin 16) (m : Mod),
    LaneResultQ (fun t => .vRotr t d a q m) [a] d q (fun s u n =>
        (s.tile a).at_ (64 * (n / 64) + (n % 64 + 64 - u.toNat % 64) % 64))
      ∧ LaneResultQ (fun t => .vRotc t d a q m) [a] d q (fun s u n =>
        (s.tile a).at_ (64 * ((n / 64 + 16 - u.toNat % 16) % 16) + n % 64))
      ∧ LaneResultQ (fun t => .vBcr t d a q m) [a] d q (fun s u n => (s.tile a).at_ (64 * (u.toNat % 16) + n % 64))
      ∧ LaneResultQ (fun t => .vBcc t d a q m) [a] d q (fun s u n => (s.tile a).at_ (64 * (n / 64) + u.toNat % 64))
      ∧ LaneResultQ (fun t => .vSplat t d q m) [] d q (fun _ u _ => rawLane m.ty u.toNat)
      ∧ (∀ (t : Tok) (s s1 : State), s.Admits .V t [] s1 → s.TilesReady [a] d →
        ∃ w : State, exec (.vPack t d a m) s = .next w ∧ s.TileDone w d (w.tile d).at_
          ∧ ∀ n i, n < 1024 → i < 32 → ((w.tile d).at_ n).getLsbD i =
            (decide (n < 1024 / (32 / m.ty.width))
              && ((s.tile a).at_ (32 / m.ty.width * n + i / m.ty.width)).getLsbD (i % m.ty.width)))
      ∧ LaneResult (fun t => .vUnpack t d a m) [a] d (fun s n =>
        (rawLane m.ty (((s.tile a).at_ (n / (32 / m.ty.width))).toNat / 2 ^ (m.ty.width * (n % (32 / m.ty.width)))), Events.none))
      ∧ ∀ (t : Tok) (s s1 s2 : State) (on : List Nat), s.Admits .V t [(q, true)] s1 → s.TilesReady [a] d →
        on = (List.range 1024).filter (fun i => (s.tile a).at_ i != 0) → s1.push .V q (BitVec.ofNat 64 on.length) = .ok s2 →
        ∃ w e, exec (.vPart t d a q m) s = .next w ∧ s.Passed w .V ∧ w.roll.q[q] = s.roll.q[q] ++ [e]
          ∧ e.value = BitVec.ofNat 64 on.length
          ∧ (∀ n, n < 1024 → (w.tile d).at_ n = BitVec.ofNat 32
              ((on ++ (List.range 1024).filter fun i => (s.tile a).at_ i == 0).getD n 0))
          ∧ ∀ x, x ≠ d → w.tile x = s.tile x

/-- R183: the reductions along rows and columns by the fixed tree, whose results stand in the first lanes with zeros after them, and the
running sums along rows, in order, from a first lane that the type's bits fill (R173). -/
def Obligations.LaneReductions : Prop :=
  ∀ (t : Tok) (d a : Fin 16) (m : Mod) (s s1 : State), s.Admits .V t [] s1 → s.TilesReady [a] d →
    (∃ w : State, exec (.vRedrAdd t d a m) s = .next w ∧ s.TileDone w d fun n =>
        if n % 64 = 0 then (treeRed (addLane m) 6 ((s.tile a).row (n / 64))).1 else 0)
      ∧ (∃ w : State, exec (.vRedrMax t d a m) s = .next w ∧ s.TileDone w d fun n =>
        if n % 64 = 0 then (treeRed (maxLane m) 6 ((s.tile a).row (n / 64))).1 else 0)
      ∧ (∃ w : State, exec (.vRedrMin t d a m) s = .next w ∧ s.TileDone w d fun n =>
        if n % 64 = 0 then (treeRed (minLane m) 6 ((s.tile a).row (n / 64))).1 else 0)
      ∧ (∃ w : State, exec (.vRedcAdd t d a m) s = .next w ∧ s.TileDone w d fun n =>
        if n < 64 then (treeRed (addLane m) 4 ((s.tile a).col n)).1 else 0)
      ∧ (∃ w : State, exec (.vRedcMax t d a m) s = .next w ∧ s.TileDone w d fun n =>
        if n < 64 then (treeRed (maxLane m) 4 ((s.tile a).col n)).1 else 0)
      ∧ (∃ w : State, exec (.vRedcMin t d a m) s = .next w ∧ s.TileDone w d fun n =>
        if n < 64 then (treeRed (minLane m) 4 ((s.tile a).col n)).1 else 0)
      ∧ ∃ w : State, exec (.vScanr t d a m) s = .next w ∧ s.TileDone w d (w.tile d).at_
        ∧ ∀ r, r < 16 → (w.tile d).at_ (64 * r) = rawLane m.ty ((s.tile a).at_ (64 * r)).toNat
          ∧ ∀ c, c < 63 → (w.tile d).at_ (64 * r + c + 1) =
            (addLane m ((w.tile d).at_ (64 * r + c)) ((s.tile a).at_ (64 * r + c + 1))).1

/-- R179, R181, R191: the tile loads and stores, with an address from a queue or through a window, and the indexed ones: every lane's
element is at the base plus the lane's index times its size, and lanes store in ascending order. -/
def Obligations.TileMemory : Prop :=
  TileLoad .vLdN8 1 false ∧ TileLoad .vLdS8 1 true ∧ TileLoad .vLdN16 2 false ∧ TileLoad .vLdS16 2 true ∧ TileLoad .vLd 4 false
    ∧ TileStore .vStN8 1 ∧ TileStore .vStN16 2 ∧ TileStore .vSt 4
    ∧ (∀ (t : Tok) (d a q : Fin 16) (e : Elem) (b : Word) (ps : List (Word × List (Nat × Nat))) (ws : List W32)
        (s s1 s2 s3 : State),
      s.Admits .V t [(q, false)] s1 → s1.pop .V q = .ok (b, s2) → s.TilesReady [a] d → b.toNat % e.size = 0 →
      s2.checkLanes b e.size .load 0 (s.tile a).toList = .ok (ps, s3) → s3.storesOut .V < 16 → s3.loadLanes e.signed ps = .ok ws → ws.length = 1024 →
      ∃ w : State, exec (.vLdx t d a q e) s = .next w ∧ s.TileDone w d fun n => ws.getD n 0)
    ∧ (∀ (t : Tok) (d a q : Fin 16) (e : Elem) (b : Word) (ps : List (Word × List (Nat × Nat))) (s s1 s2 s3 : State),
      s.Admits .V t [(q, false)] s1 → s1.pop .V q = .ok (b, s2) → s.tileOk .V a false = .ok () → s.tileOk .V d false = .ok () →
      b.toNat % e.size = 0 → s2.checkLanes b e.size .store 0 (s.tile a).toList = .ok (ps, s3) → s3.storesOut .V < 16 →
      exec (.vStx t d a q e) s = .next (((s3.countStore .V).storeLanes ((s3.run .V).issued + 1) e.size
        (ps.zip (s.tile d).toList)).retire .V t 11))
    ∧ ∀ (s s' : State) (b : Word) (n : Nat) (a : Acc) (i k : Nat) (ws : List W32) (ps : List (Word × List (Nat × Nat))) (w : W32),
      s.checkLanes b n a i ws = .ok (ps, s') → ws[k]? = some w →
      ∃ x, ps[k]? = some (b + BitVec.ofNat 64 (w.toNat * n), x)

/-- R188, R189: v.smass with its threshold positive gives the shares, the maximum and the sum, unless the largest share is above the
threshold, which is the context fault with its lane; with a NaN among its scores, or as the sum, it gives NaN in every lane and counts
one. v.stub adds the rows to the sums and the count, and where asked to finish gives the means and the logarithm of the count. -/
def Obligations.StubWords : Prop :=
  (∀ (t : Tok) (d a b : Fin 16) (s s1 : State) (vb : List Val), s.Admits .V t [] s1 → s.TilesReady [a, b] d →
    Val.zero.lt (f32Val s.misc.smtheta) = true → vb = ((s.tile b).toList.take 1022).map f32Val →
    (((f32Val ((s.tile a).at_ 0)).isNan = true ∨ (f32Val ((s.tile a).at_ 1)).isNan = true ∨ vb.any Val.isNan = true
        ∨ massOf (f32Val ((s.tile a).at_ 0)) (f32Val ((s.tile a).at_ 1)) vb = none) →
      ∃ w : State, exec (.vSmass t d a b) s = .next w ∧ (s.TileDone w d fun _ => 0x7FC00000)
        ∧ w.roll.vnann = holdAdd s.roll.vnann 1)
    ∧ ∀ (sh : List Val) (top z : Val), (f32Val ((s.tile a).at_ 0)).isNan = false → (f32Val ((s.tile a).at_ 1)).isNan = false →
      vb.any Val.isNan = false → massOf (f32Val ((s.tile a).at_ 0)) (f32Val ((s.tile a).at_ 1)) vb = some (top, z, sh) →
      ((f32Val s.misc.smtheta).lt (largest sh.tail 1 (0, sh.headD .zero)).2 = false →
        ∃ w : State, exec (.vSmass t d a b) s = .next w ∧ s.TileDone w d fun n =>
          if n < 1022 then f32Lane (sh.getD n .zero) else if n = 1022 then f32Lane top else f32Lane z)
      ∧ ∀ g v, largest sh.tail 1 (0, sh.headD .zero) = (g, v) → (f32Val s.misc.smtheta).lt v = true →
        exec (.vSmass t d a b) s = .next ((s.undoTemplate .V s.cur.undo).fault .V
          { kind := .context, code := BitVec.ofNat 32 g, seg := (s.tile a).at_ (2 + g), share := f32Lane v,
            lane := BitVec.ofNat 10 g }))
    ∧ ∀ (t : Tok) (d a q : Fin 16) (m : Mod) (u : Word) (old : Tile) (sum : Nat → W32) (n : Nat) (s s1 s2 : State),
      s.Admits .V t [(q, false)] s1 → s.TilesReady [a] d → s1.pop .V q = .ok (u, s2) → u.extractLsb' 10 54 = 0 →
      u.extractLsb' 4 4 = 0 → old = (if u.getLsbD 9 then Tile.zero else s.tile d) →
      n = min ((old.at_ 64).toNat + u.toNat % 16 + 1) 4294967295 →
      (∀ c, c < 64 → sum c = (List.range (u.toNat % 16 + 1)).foldl (fun acc r =>
          f32Lane ((f32Val acc).add false (m.ty.val ((s.tile a).at_ (64 * r + c))))) (old.at_ c)) →
      ∃ w : State, exec (.vStub t d a q m) s = .next w ∧ s.TileDone w d (w.tile d).at_
        ∧ (w.tile d).at_ 64 = BitVec.ofNat 32 n
        ∧ (u.getLsbD 8 = false → (∀ c, c < 64 → (w.tile d).at_ c = sum c) ∧ (w.tile d).at_ 65 = old.at_ 65)
        ∧ (u.getLsbD 8 = true →
          (∀ c, c < 64 → (w.tile d).at_ c = (m.ty.convert .rne true ((f32Val (sum c)).div (Val.ofInt n))).1)
            ∧ (w.tile d).at_ 65 = f32Lane (lnNat n))
        ∧ ∀ i, 66 ≤ i → i < 1024 → (w.tile d).at_ i = old.at_ i

/-! ## The function engine -/

/-- R218, R220, R223: a working result is cut by its tolerance, and where it is longer still to FMAXLEN, which sets FTRC.TRC, and stored
on its domain where it fits in the pool; one that does not fit is the pool fault, or with FPOLICY and some room is cut to the room. No
other register changes.
R225: f.ld reads a function image whose header is sound from the address popped, and f.st stores one: its bytes are the domain, the
count, eight zero bytes and the coefficients. -/
def Obligations.FunctionRegisters : Prop :=
  ((∀ (s : State) (d : Fin 16) (r : FReg), r.chunks ≤ s.poolFree + (s.freg d).chunks → s.alloc d r = .ok (s.setFreg d r))
    ∧ (∀ (s : State) (d : Fin 16) (r : FReg), s.poolFree + (s.freg d).chunks < r.chunks →
      (s.misc.fpolicy = false ∨ s.poolFree + (s.freg d).chunks = 0) →
      s.alloc d r = .error (.fault { kind := .pool, code := BitVec.ofNat 32 d.val }))
    ∧ (∀ (s : State) (d : Fin 16) (r : FReg), s.poolFree + (s.freg d).chunks < r.chunks → s.misc.fpolicy = true →
      s.poolFree + (s.freg d).chunks ≠ 0 → ∃ u, s.alloc d r = .ok u
        ∧ u.freg d = { r with coef := r.coef.take (16 * (s.poolFree + (s.freg d).chunks)) }
        ∧ u.roll.ftrc.getLsbD 0 = true ∧ ∀ e, e ≠ d → u.freg e = s.freg e)
    ∧ (∀ (s : State) (d : Fin 16) (lo hi : Word) (c : List Word) (cut : List Val) (wild : Bool),
      truncTol (f64Val s.misc.ftol) (c.map f64Val) = (cut, wild) → cut.length ≤ s.misc.fmaxlen.toNat →
      (cut.length + 15) / 16 ≤ s.poolFree + (s.freg d).chunks →
      ∃ u, s.produce d lo hi c = .ok u ∧ u.freg d = { lo := lo, hi := hi, coef := c.take cut.length }
        ∧ (∀ e, e ≠ d → u.freg e = s.freg e) ∧ u.roll.ftrc = s.roll.ftrc ||| (BitVec.ofBool wild ++ 0#1))
    ∧ (∀ (s : State) (d : Fin 16) (lo hi : Word) (c : List Word) (cut : List Val) (wild : Bool),
      truncTol (f64Val s.misc.ftol) (c.map f64Val) = (cut, wild) → s.misc.fmaxlen.toNat < cut.length →
      (s.misc.fmaxlen.toNat + 15) / 16 ≤ s.poolFree + (s.freg d).chunks →
      ∃ u, s.produce d lo hi c = .ok u ∧ u.freg d = { lo := lo, hi := hi, coef := c.take s.misc.fmaxlen.toNat }
        ∧ (∀ e, e ≠ d → u.freg e = s.freg e) ∧ u.roll.ftrc = s.roll.ftrc ||| (BitVec.ofBool wild ++ 1#1))
    ∧ ∀ (s : State) (d e : Fin 16) (r : FReg), (s.setFreg d r).freg e = if e = d then r else s.freg e)
    ∧ (∀ (t : Tok) (d q : Fin 16) (p lo hi : Word) (n : Nat) (ps qs : List (Nat × Nat)) (hd bs : List Byte)
        (s s1 s2 s3 s4 u : State),
    s.flight.fop = none → s.Admits .F t [(q, false)] s1 → s1.pop .F q = .ok (p, s2) →
    (s2.rangeV p 32 64 .load = .ok (ps, s3) → s3.storesOut .F < 8 → s3.readBy .F p ps = .ok hd →
        hd = leBytes 8 lo.toNat ++ leBytes 8 hi.toNat ++ leBytes 8 n ++ leBytes 8 0 → 0 < n → n ≤ 1024 →
        domainOk (f64Val lo) (f64Val hi) = true → s3.rangeV (p + 32) (8 * n) 1 .load = .ok (qs, s4) →
        s4.readBy .F (p + 32) qs = .ok bs → bs.length = 8 * n →
        (s4.answers .F (ps ++ qs)).alloc d
          { lo := lo, hi := hi, coef := (List.range n).map fun i => leWord ((bs.drop (8 * i)).take 8) } = .ok u →
        exec (.fLd t d q) s = .next (u.retire .F t 13))
      ∧ ((s.freg d).coef ≠ [] → n = (s.freg d).coef.length → s2.rangeV p (32 + 8 * n) 64 .store = .ok (ps, s3) →
        s3.storesOut .F < 8 →
        exec (.fSt t d q) s = .next (((s3.countStore .F).storeBy .F ((s3.run .F).issued + 1) p
          (leBytes 8 (s.freg d).lo.toNat ++ leBytes 8 (s.freg d).hi.toNat ++ leBytes 8 n ++ leBytes 8 0
            ++ (s.freg d).coef.flatMap fun c => leBytes 8 c.toNat) ps).retire .F t 13)))

/-- R225, R226, R228-R233: the words of F that complete at once: each checks its sources, its queue values and its domains, and then
allocates or produces its register. -/
def Obligations.FunctionWords : Prop :=
  ∀ (t : Tok) (d a b q : Fin 16) (v lo hi n : Word) (s s1 s2 s3 s4 u : State), s.flight.fop = none →
    (s.Admits .F t [] s1 →
      ((s.freg a).coef ≠ [] → s1.alloc d (s.freg a) = .ok u → FDone (.fMov t d a) s u t 13 1)
        ∧ ((s.freg a).coef ≠ [] → (s.freg b).coef ≠ [] → (s.freg a).lo = (s.freg b).lo → (s.freg a).hi = (s.freg b).hi →
          (s1.produceVals d (s.freg a).lo (s.freg a).hi (addSeries false (s.freg a).vals (s.freg b).vals) = .ok u →
              ∃ k, FDone (.fAdd t d a b) s u t 12 k)
            ∧ (s1.produceVals d (s.freg a).lo (s.freg a).hi (addSeries true (s.freg a).vals (s.freg b).vals) = .ok u →
              ∃ k, FDone (.fSub t d a b) s u t 12 k)
            ∧ (s1.produceVals d (s.freg a).lo (s.freg a).hi (mulSeries (s.freg a).vals (s.freg b).vals 2047) = .ok u →
              ∃ k, FDone (.fMul t d a b) s u t 12 k))
        ∧ ((s.freg a).coef ≠ [] → (s.freg b).coef ≠ [] → (boundsOf (s.freg b).vals).1.lt (f64Val (s.freg a).lo) = false →
          (f64Val (s.freg a).hi).lt (boundsOf (s.freg b).vals).2 = false →
          s1.produceVals d (s.freg b).lo (s.freg b).hi (compose (f64Val s.misc.ftol) (s.freg a).vals
            (innerSeries (f64Val (s.freg a).lo) (f64Val (s.freg a).hi) (s.freg b).vals)) = .ok u →
          ∃ k, FDone (.fComp t d a b) s u t 12 k)
        ∧ ((s.freg a).coef ≠ [] →
          (s1.produceVals d (s.freg a).lo (s.freg a).hi
              (intSeries (f64Val (s.freg a).lo) (f64Val (s.freg a).hi) (s.freg a).vals) = .ok u →
              ∃ k, FDone (.fInt t d a) s u t 12 k)
            ∧ (s1.produceVals d (s.freg a).lo (s.freg a).hi
              (derSeries (f64Val (s.freg a).lo) (f64Val (s.freg a).hi) (s.freg a).vals) = .ok u →
              ∃ k, FDone (.fDer t d a) s u t 12 k)))
      ∧ (s.Admits .F t [(q, false)] s1 →
        (s1.pop .F q = .ok (v, s2) → (s.freg a).coef ≠ [] →
            s2.produceVals d (s.freg a).lo (s.freg a).hi ((s.freg a).vals.map fun c => r64 ((f64Val v).mul c)) = .ok u →
            ∃ k, FDone (.fScal t d a q) s u t 12 k)
          ∧ (s1.pop .F q = .ok (n, s2) →
            (n = 0 → FDone (.fTrunc t d a q) s (s2.setFreg d FReg.empty) t 13 1)
              ∧ ((s.freg a).coef ≠ [] → n ≠ 0 → n.toNat ≤ 1024 →
                s2.alloc d { s.freg a with coef := (s.freg a).coef.take n.toNat } = .ok u → FDone (.fTrunc t d a q) s u t 13 1))
          ∧ (s1.pop .F q = .ok (v, s2) → s2.pop .F q = .ok (lo, s3) → s3.pop .F q = .ok (hi, s4) →
            domainOk (f64Val lo) (f64Val hi) = true → s4.produce d lo hi [v] = .ok u →
            ∃ k, FDone (.fConst t d q) s u t 12 k)
          ∧ (s1.pop .F q = .ok (lo, s2) → s2.pop .F q = .ok (hi, s3) → (s.freg a).coef ≠ [] →
            domainOk (f64Val lo) (f64Val hi) = true →
            (s3.alloc d { lo := lo, hi := hi, coef := (s.freg a).coef } = .ok u → ∃ k, FDone (.fDomRescale t d a q) s u t 12 k)
              ∧ ((f64Val (s.freg a).lo).le (f64Val lo) = true → (f64Val hi).le (f64Val (s.freg a).hi) = true →
                s3.produceVals d lo hi (compose (f64Val s.misc.ftol) (s.freg a).vals
                  (restrictInner (f64Val (s.freg a).lo) (f64Val (s.freg a).hi) (f64Val lo) (f64Val hi))) = .ok u →
                ∃ k, FDone (.fDomRestrict t d a q) s u t 12 k)))

/-- R226, R227, R235-R238, R240, R128: f.len, f.fit, f.eval, f.root and f.ext read their inputs at issue and stay in flight under a
lease; f.fit with the series that R227 computes from the samples, truncated under the registers that it read; a pop that is already
stalled on the queue of a new lease takes the lease fault. Their last step writes the tile or the register, or pushes the values where
the queue has room for all, after F's earlier stores (R127), and ends the lease. -/
def Obligations.FunctionsInFlight : Prop :=
  (∀ (t : Tok) (d a b q : Fin 16) (s s1 s2 s3 s4 : State) (lo hi len : QEntry), s.flight.fop = none →
    (s.Admits .F t [(q, true)] s1 →
      (s.noneWaits q → s.Leases (.fLen t a q) t (.push q [BitVec.ofNat 64 (s.freg a).coef.length] none false)
        ∧ ((s.freg a).coef ≠ [] →
          (∀ rs, rs = rootsOf (f64Val s.misc.ftol) (f64Val (s.freg a).lo) (f64Val (s.freg a).hi) (s.freg a).vals →
            s.Leases (.fRoot t a q) t (.push q (BitVec.ofNat 64 (s.misc.rootStart.toNat * 256
                + (if 16 < rs.length then 32 else 0) + min 16 rs.length)
              :: (((rs.take 16).drop s.misc.rootStart.toNat).take 3).map f64Word) (some (BitVec.ofNat 5 (min 16 rs.length)))
              (decide (16 < rs.length))))
          ∧ ∀ vs ovf, extremesOf (f64Val s.misc.ftol) (f64Val (s.freg a).lo) (f64Val (s.freg a).hi) (s.freg a).vals = (vs, ovf) →
            s.Leases (.fExt t a q) t (.push q (vs.map f64Word) none ovf)))
        ∧ (∀ st, (s.run .A).stall = some st → st.why = .qEmpty q → s.flight.loads = [] → s.cell.raised = none →
          ∃ w r, exec (.fLen t a q) s = .next w ∧ s.Passed w .F ∧ w.cell.raised = some r ∧ r.eng = .A
            ∧ r.flt = Flt.mk' .lease (16 + q.val) ∧ w.flight.fop.isSome = true))
      ∧ (s.Admits .F t [] s1 → (s.freg a).coef ≠ [] →
        ∃ l ood, s.Leases (.fEval t d a b) t (.tile d l ood)
          ∧ (∀ n, n < 1024 → l.at_ n =
              (evalLane (f64Val (s.freg a).lo) (f64Val (s.freg a).hi) (s.freg a).vals ((s.tile b).at_ n)).1)
          ∧ ood = ((List.range 1024).filter fun n =>
              (evalLane (f64Val (s.freg a).lo) (f64Val (s.freg a).hi) (s.freg a).vals ((s.tile b).at_ n)).2).length)
      ∧ (s.Admits .F t [(q, false)] s1 → s1.popE .F q = .ok (lo, s2) → s2.popE .F q = .ok (hi, s3) →
        s3.popE .F q = .ok (len, s4) → domainOk (f64Val lo.value) (f64Val hi.value) = true → len.value ≠ 0 →
        len.value.toNat ≤ 1024 →
        ∀ c, c = fitted (s.tile a) len.value.toNat → s.Leases (.fFit t d a q) t
          (.reg d a lo.value hi.value (s.truncF c).1 (s.truncF c).2.1 (s.truncF c).2.2 s.misc.fpolicy)))
    ∧ ∀ (k : CoreId) (s : State) (o : FOp), (s.on k).working = true → (s.on k).flight.fop = some o →
      (∀ d l ood, o.step = .tile d l ood → ∃ w : State, exec (.fLastStep k) s = .next w ∧ w.flight.fop = none ∧ w.tile d = l
          ∧ w.roll.food = holdAdd (s.on k).roll.food ood)
        ∧ (∀ d src lo hi c cut wild fit u, o.step = .reg d src lo hi c cut wild fit →
          ((s.on k).flagF cut wild).allocBy fit d { lo := lo, hi := hi, coef := c } = .ok u →
          ∃ w : State, exec (.fLastStep k) s = .next w ∧ w.flight.fop = none ∧ ∀ e, w.freg e = u.freg e)
        ∧ ∀ q vals last ovf, o.step = .push q vals last ovf →
          ((s.on k).roll.q[q].length + vals.length ≤ 4 → ∃ w : State, exec (.fLastStep k) s = .next w ∧ w.flight.fop = none
              ∧ w.roll.q[q].map QEntry.value = (s.on k).roll.q[q].map QEntry.value ++ vals
              ∧ ∀ p ∈ w.stores, p.serial = (s.on k).cell.ident.serial → p.eng = .F → 1 ≤ p.level)
            ∧ (4 < (s.on k).roll.q[q].length + vals.length → ∃ w o', exec (.fLastStep k) s = .next w
              ∧ w.flight.fop = some o' ∧ o'.step = o.step ∧ w.roll.q[q] = (s.on k).roll.q[q])

/-! ## Steps that end waits, take faults and roll back -/

/-- R114, R257, R315: an await, a bar.wait and an rslot at which A waits are executed again: what they do then is what their words do;
a bar.wait whose timeout has passed sets TOUT and is the barrier-timeout fault.
R123, R125, R132, R198, R199, R236, R360, R96: a stall that has lasted its limit ends in the fault of what it waits for; so does F's
last step whose queue has had no room; a cell without progress for 2^24 cycles takes the deadlock fault. -/
def Obligations.WaitsEnd : Prop :=
  ((∀ (k : CoreId) (t : Tok) (d : Dst) (a b : Src) (s u : State) (st : Stall), ((s.on k).run .A).stall = some st →
    st.why = .await → s.find k .A false = .act (.await t d a b) u →
    ∃ w : State, exec (.await t d a b) u = .next w ∧ exec (.awaitWake k) s = .next w ∧ exec (.awaitTimeout k) s = .next w)
    ∧ (∀ (k : CoreId) (t : Tok) (a : Src) (s u : State) (st : Stall), ((s.on k).run .A).stall = some st →
      st.why = .barWait → s.find k .A false = .act (.barWait t a) u →
      ∃ w : State, exec (.barWait t a) u = .next w ∧ exec (.barrierTimeout k) s = .next w)
    ∧ (∀ (k : CoreId) (t : Tok) (d : Dst) (a : Src) (s u : State) (st : Stall), ((s.on k).run .A).stall = some st →
      st.why = .rslot → s.find k .A false = .act (.rslot t d a) u →
      ∃ w : State, exec (.rslot t d a) u = .next w ∧ exec (.rslotWaitExpiry k) s = .next w)
    ∧ (∀ (t : Tok) (a : Src) (p : Word) (x : Nat) (o : BarObj) (s s1 s2 s3 s4 : State),
      (s.uncountWait.firstRead a).Admits .A t (Src.uses a) s1 → s1.src a = .ok (p, s2) → s2.reach p 32 .barrier = .ok (x, s3) →
      s3.objectAt p x = .ok (o, s4) →
      ¬ (o.lv = true ∧ o.launch = launchBits s.cell.ident.handle ∧ s.cell.ident.multiWave = true) →
      o.gen = (s.roll.arrivals.lookup p).getD s4.misc.waitGen → o.timeout ≠ 0 →
      o.timeout.toNat * Config.cyclesPerUs ≤ s.now - s.stallSince .A .barWait →
      exec (.barWait t a) s = .next ((((s.uncountWait.firstRead a).changeObj p x fun o => { o with tout := true }).undoTemplate .A s.cur.undo).fault .A { kind := .barrierTimeout, code := 0, addr := p, info := o.expect ++ o.arrived, info2 := o.pend }))
    ∧ ∀ (t : Tok) (d : Dst) (a : Src) (n : Word) (q : RampReq) (s s1 s2 s3 : State), s.Admits .A t (Src.uses a ++ Dst.uses d) s1 →
      s1.src a = .ok (n, s2) → n.toNat ≤ 480 → s.rslotReq = some q →
      (q.want ≤ q.got ∨ (s.die s.dieId).pinUse.toNat ≤ s.usSince q.since) →
      ((s2.dropRslot).setMisc { s.misc with rreq := BitVec.ofNat 10 q.want, rgrant := BitVec.ofNat 10 q.got }).dst d
        (BitVec.ofNat 64 q.got) = .ok s3 →
      exec (.rslot t d a) s = .next (s3.retire .A t 0))
    ∧ (∀ (k : CoreId) (s : State),
    (∀ e q, (s.on k).Expired e (.qFull q) → s.expireF k = none →
      exec (.queueOverflow k e) s = .next ((s.on k).takeFault e (Flt.mk' .overflow q.val)))
      ∧ (∀ o q vals last ovf t0 n, (s.on k).working = true → (s.on k).cell.raised = none → (s.on k).flight.fop = some o →
        o.step = .push q vals last ovf → o.full = some (t0, some n) → n ≤ s.now - t0 →
        4 < (s.on k).roll.q[q].length + vals.length →
        exec (.queueOverflow k .F) s = .next ((s.on k).takeFault .F (Flt.mk' .overflow q.val)))
      ∧ (∀ e q, (s.on k).Expired e (.qEmpty q) →
        exec (.queueUnderflow k e) s = .next ((s.on k).takeFault e (Flt.mk' .underflow q.val)))
      ∧ ((s.on k).Expired .A .fmtFull → exec (.formatQueueOverflow k) s = .next ((s.on k).takeFault .A (Flt.mk' .overflow 0x40)))
      ∧ ((s.on k).Expired .M .fmtEmpty → exec (.formatUnderflow k) s = .next ((s.on k).takeFault .M (Flt.mk' .formatUnderflow 0)))
      ∧ (∀ n block, (s.on k).Expired .A (.quota n block) → exec (.quotaTimeout k) s = .next ((s.on k).takeFault .A
          { kind := .quota, code := BitVec.ofNat 32 (n.toNat % 4), addr := n.setWidth 64 }))
      ∧ ((s.on k).Expired .C .staging → exec (.mailboxStagingOverflow k) s = .next ((s.on k).takeFault .C (Flt.mk' .overflow 0x41)))
      ∧ ((s.on k).working = true → (s.on k).cell.raised = none → 0x1000000 ≤ s.now - (s.on k).uncountWait.cell.progress →
        s.unwatched k = false → ∃ f, exec (.deadlock k) s = .next ((s.on k).takeFault .A f) ∧ f.kind = .deadlock ∧ f.code = 0))

/-- R283, R284, R294, R296, R273, R274: a fault that was taken enters the trap handler once its cycle is over and nothing is in flight that
it waits for; a context fault taken in a cycle with other moves stops the cell then, for its rollback; a detected
error is a layer-precise fault and counts in DPERR for codes 1 and 3; a rollback, once the cell's commands and copies have ended,
restores the checkpoint, and the cell runs on, or is held as by a double fault where its trap handler was running. -/
def Obligations.FaultSteps : Prop :=
  (∀ (k : CoreId) (s : State) (r : Raised), (s.on k).cell.raised = some r → (s.on k).working = true →
    (s.on k).sameCycle = false →
    (r.flt.kind ≠ .context → (s.on k).stopReady = true →
        exec (.enginePreciseFault k) s = .next (((s.on k).abandonF.stopC).enterTrap r.flt r.eng r.pc))
      ∧ (r.flt.kind = .context → ∃ w : State, exec (.enginePreciseFault k) s = .next w ∧ w.cell.raised = none
        ∧ w.cell.status = .rolling (.context r.flt r.pc (((s.on k).stopLayer r.eng r.flt r.pc).run r.eng).beat) ∧ w.flight.fop = none))
    ∧ (∀ (k : CoreId) (e : Eng) (code : BitVec 32) (addr : Word) (s : State), (s.on k).working = true →
      (s.on k).excluded = false → 1 ≤ code.toNat → code.toNat ≤ 4 → (code = 2 → (s.on k).seenBefore (detectedFlt e code addr) = false) →
      ∃ w f, exec (.datapathCheckFault k e code addr) s = .next w ∧ w.cell.status = .rolling (.replay f e ((s.on k).path e).pc)
        ∧ f.kind = .datapath ∧ f.code = code ∧ f.addr = (if code = 2 then addr else 0)
        ∧ w.core.dperr = (if code = 1 ∨ code = 3 then holdSucc (s.on k).core.dperr else (s.on k).core.dperr))
    ∧ ∀ (k : CoreId) (s : State) (f : Flt) (e : Eng) (pc : Word), (s.on k).cell.status = .rolling (.replay f e pc) →
      (s.on k).workOut = true → (s.on k).ckFlt = none → (s.on k).core.dperr.toNat < 2 →
      ∃ w : State, exec (.layerRollback k) s = .next w ∧ w.cell.raised = none
        ∧ ((s.on k).cell.traps.active = false → w.cell.status = .running)
        ∧ ((s.on k).cell.traps.active = true → ∃ h, w.cell.status = .held h ∧ h.double = true ∧ h.rolled = true ∧ h.flt = f
          ∧ h.eng = e ∧ h.pc = pc)
        ∧ w.roll.x = (s.on k).cell.ckpt.x ∧ w.roll.q = (s.on k).cell.ckpt.q ∧ w.roll.tok = (s.on k).cell.ckpt.tok
        ∧ w.roll.v = (s.on k).cell.ckpt.v ∧ w.roll.f = (s.on k).cell.ckpt.f ∧ w.roll.staging = []
        ∧ w.cell.blog = (s.on k).cell.blog.map (fun x => { x with credit := true })
        ∧ ((s.on k).cell.ctx.active = false ∨ (s.on k).cell.traps.active = true → w.roll.paths = (s.on k).cell.ckpt.paths)


/-! ## Writes that the opcode table lists as steps -/

/-- R108, R115, R140, R247, R268, R269, R289, R293, R314, R325, R336, R341, R354: a listed write is performed as the swr, or the
8-byte store, at which A stands with that value: the register's or the word's effect, and the word retires. -/
def Obligations.ListedWrites : Prop :=
  RegisterStep .cellctlResume 0x08A (fun v => v.extractLsb' 60 4 == 1)
    ∧ RegisterStep .cellctlEnterContextHandler 0x08A (fun v => v.extractLsb' 60 4 == 2)
    ∧ RegisterStep .cellctlResumeCheckpoint 0x08A (fun v => v.extractLsb' 60 4 == 3)
    ∧ RegisterStep .cellctlEnterTrap 0x08A (fun v => v.extractLsb' 60 4 == 4)
    ∧ RegisterStep .cellctlEndAndDump 0x08A (fun v => v.extractLsb' 60 4 == 5)
    ∧ RegisterStep .cellctlEnd 0x08A (fun v => v.extractLsb' 60 4 == 6)
    ∧ RegisterStep .schedcmdPreemptCell 0x180 (fun v => v.extractLsb' 60 4 == 1)
    ∧ RegisterStep .schedcmdPreemptDomain 0x180 (fun v => v.extractLsb' 60 4 == 2)
    ∧ RegisterStep .tlbinv 0x08B (fun _ => true)
    ∧ RegisterStep .eclaim 0x14C (fun _ => true)
    ∧ RegisterStep .esatClear 0x141 (fun v => !v.getLsbD 0)
    ∧ RegisterStep .cqctlResume 0x044 (fun v => v.extractLsb' 10 2 == 1)
    ∧ RegisterStep .cqctlDiscard 0x044 (fun v => v.extractLsb' 10 2 == 2)
    ∧ RegisterStep .ctxrecWrite 0x101 (fun _ => true)
    ∧ RegisterStep .ckslotWrite 0x104 (fun _ => true)
    ∧ RegisterStep .pblenWrite 0x23B (fun _ => true)
    ∧ (∀ n : Fin 16, SystemStep (fun k v => .chronographControlWrite k n v) (0x1300000 + 8 * n.val) (fun _ => true))
    ∧ (∀ tree n : Fin 256, n.val < 198 →
        SystemStep (fun k v => .treeDescriptorWrite k tree n v) (0x1000000 + 2048 * tree.val + 8 * n.val) (fun _ => true))
    ∧ ∀ c : BitVec 12, SystemStep (fun k v => .channelRetire k c v) (0x1100000 + 8 * c.toNat) (fun v => !v.getLsbD 63)

/-- R289: a write of CELLCTL that names a held cell of the writer's die settles it: action 1 resumes it at its EPC registers, or after
a double fault at its resume addresses; action 2 enters its context handler after a replay-depth fault; action 3 resumes it from the
checkpoint, which a hold after a rollback stands at; action 4 enters its trap handler with the held cause; action 5 begins the dump of
its domain; action 6 ends it, once its peer stores are acknowledged (R90, R335). One that names no held cell changes nothing.
The model's choices: that a resumed engine has not halted, that action 5 leaves the cell held, and that while a dump of its domain is
queued no action settles it (the premise on the dumps) are log entry 10; that the reserved bits of CELLCTL are ignored is log entry 25. -/
def Obligations.HeldCells : Prop :=
  (∀ (s : State) (k : CoreId) (h : Hold) (v : Word) (c : Cell), v.extractLsb' 32 8 = BitVec.ofNat 8 (siteOf k) →
    v.getLsbD 40 = decide (dieOf k = 1) → v.extractLsb' 0 32 = c.ident.cellno → c = s.cores[k].cell → c.status = .held h →
    (∀ d ∈ s.aedty.dumps, d.domain ≠ c.ident.domain) → (∀ p ∈ s.peerStores, p.serial ≠ c.ident.serial) →
    ∃ (w : State) (c' : Cell), s.writeCellctl (dieOf k) v = .ok w ∧ c' = w.cores[k].cell ∧
      ((v.extractLsb' 60 4 = 1 ∨ (v.extractLsb' 60 4 = 2 ∧ h.flt.kind ≠ .replayDepth)) →
        c'.status = .running ∧ ∀ e, c'.roll.paths.get e =
          { c.roll.paths.get e with pc := if h.double then h.resume.get e else c.traps.epc.get e, halted := false })
      ∧ (v.extractLsb' 60 4 = 2 → h.flt.kind = .replayDepth → h.flt.code ≠ 1 → c.ident.hctx ≠ 0xFFFFFFFF →
        c'.status = .running ∧ c'.ctx.active = true ∧ c'.ctx.depth = c.ctx.depth
          ∧ c'.ctx.limit = (if v.extractLsb' 41 3 = 0 then c.ctx.limit else v.extractLsb' 41 3)
          ∧ ∀ e, c'.roll.paths.get e =
            { Path.at_ (c.ident.entry + BitVec.ofNat 64 (4 * c.ident.hctx.toNat)) with links := (c.roll.paths.get e).links })
      ∧ (v.extractLsb' 60 4 = 3 → h.rolled = true →
        c'.status = .running ∧ c'.roll = c.roll ∧ c'.ctx = { c.ctx with active := false } ∧ c'.traps.active = false
          ∧ c'.traps.aside = none ∧ c'.traps.epc = c.traps.epc)
      ∧ (v.extractLsb' 60 4 = 3 → h.rolled = false → c' = { c with status := .rolling .settle })
      ∧ (v.extractLsb' 60 4 = 4 → h.double = false → c.ident.htrap ≠ 0xFFFFFFFF →
        c'.status = .running ∧ c'.traps.cause = causeWord h.flt h.eng c.ident.supv ∧ c'.traps.aside = some c.roll.paths
          ∧ ∀ e, c'.roll.paths.get e = Path.at_ (c.ident.entry + BitVec.ofNat 64 (4 * c.ident.htrap.toNat)))
      ∧ (v.extractLsb' 60 4 = 5 → c' = c ∧ ∃ d, w.aedty.dumps = s.aedty.dumps ++ [d]
        ∧ d.domain = c.ident.domain ∧ d.record = trapRecord h.flt h.eng h.pc (c.run.get h.eng).beat c.ident.supv ∧ d.secondary = [])
      ∧ ((v.extractLsb' 60 4 = 6 ∨ (v.extractLsb' 60 4 = 4 ∧ (h.double = true ∨ c.ident.htrap = 0xFFFFFFFF))
          ∨ (v.extractLsb' 60 4 = 2 ∧ h.flt.kind = .replayDepth ∧ (h.flt.code = 1 ∨ c.ident.hctx = 0xFFFFFFFF))) →
        c'.status = .idle)
      ∧ (v.extractLsb' 60 4 = 0 ∨ 6 < (v.extractLsb' 60 4).toNat → c' = c))
    ∧ (∀ (s : State) (k : CoreId) (h : Hold) (v : Word), v.extractLsb' 32 8 = BitVec.ofNat 8 (siteOf k) →
      v.getLsbD 40 = decide (dieOf k = 1) → v.extractLsb' 0 32 = s.cores[k].cell.ident.cellno → s.cores[k].cell.status = .held h →
      (∀ d ∈ s.aedty.dumps, d.domain ≠ s.cores[k].cell.ident.domain) → v.extractLsb' 60 4 = 6 →
      (∃ p ∈ s.peerStores, p.serial = s.cores[k].cell.ident.serial) → s.writeCellctl (dieOf k) v = .error (.wait .unit none))
    ∧ ∀ (s : State) (d : DieId) (k : CoreId) (v : Word), v.extractLsb' 32 8 = BitVec.ofNat 8 (siteOf k) → dieOf k = d →
      ((∀ h, s.cores[k].cell.status ≠ .held h) ∨ v.getLsbD 40 ≠ decide (d = 1) ∨ v.extractLsb' 0 32 ≠ s.cores[k].cell.ident.cellno) →
      s.writeCellctl d v = .ok s

/-- R314, R325, R293: ECLAIM takes word 0 of the account it names and clears it; a 0 written to ESAT clears the flag of the cell's
domain and leaves its COUNT; SCHEDCMD asks the cell at a site, or every cell of a domain on the die, to leave; TLBINV drops the
cached translations that it names on both dies and no other, once no access of the domain is under way.
R269, R268, R247: CTXREC takes 0, or the address of a record that passes its checks, with SMTHETA and SMTAG.CTX from the record;
CKSLOT takes a region that lies below the fault page; PBLEN with EN = 0 frees its slot, and with EN = 1 registers the buffer afresh
where the length word and the addresses are sound.
The model's choices: that the reserved bits of SCHEDCMD, TLBINV and ECLAIM are ignored is log entry 25; that TLBINV waits for outstanding
loads, and what is dropped beside the pages that it names, is log entry 26. -/
def Obligations.AccountsAndRegisters : Prop :=
  ((∀ (s : State) (v : Word), s.MemWf → (s.writeEclaim v).core.eclaim = BitVec.ofNat 64 (s.account (v.extractLsb' 0 16))
      ∧ (s.writeEclaim v).sysWord 0 (accountOff (v.extractLsb' 0 16)) = 0
      ∧ ∀ d, d ≠ v.extractLsb' 0 16 → (s.writeEclaim v).sysWord 0 (accountOff d) = s.sysWord 0 (accountOff d))
    ∧ (∀ (s : State) (v : Word), s.MemWf → v.getLsbD 0 = false →
      (s.writeEsat v).sysWord 0 (accountOff s.domain) = s.account s.domain % 2 ^ 48
        ∧ (s.writeEsat v).sysWord 0 (accountOff s.domain + 8) = s.sysWord 0 (accountOff s.domain + 8))
    ∧ (∀ (s : State) (k : CoreId) (v : Word), v.extractLsb' 60 4 = 1 → v.extractLsb' 32 8 = BitVec.ofNat 8 (siteOf k) →
      (v.getLsbD 40 = decide (dieOf k = 1) → s.cores[k].cell.status ≠ .idle → (∀ h, s.cores[k].cell.status ≠ .held h) →
          s.cores[k].leave = none →
          recGang s.cores[k].cell.ident.record = false →
          s.writeSchedcmd (dieOf k) v = s.askLeave k (s.chooseSlot k) ∧ (s.writeSchedcmd (dieOf k) v).cores[k].leave ≠ none)
        ∧ (v.getLsbD 40 ≠ decide (dieOf k = 1) → s.writeSchedcmd (dieOf k) v = s))
    ∧ (∀ (s : State) (d : DieId) (v : Word), v.extractLsb' 60 4 = 2 → ∀ k : CoreId,
      (v.getLsbD 40 = decide (d = 1) → dieOf k = d → s.cores[k].cell.status ≠ .idle → (∀ h, s.cores[k].cell.status ≠ .held h) →
          s.cores[k].cell.ident.domain = v.extractLsb' 0 16 → (s.writeSchedcmd d v).cores[k].leave ≠ none)
        ∧ (v.getLsbD 40 ≠ decide (d = 1) → s.writeSchedcmd d v = s)
        ∧ (s.cores[k].cell.status = .idle → (s.writeSchedcmd d v).cores[k] = s.cores[k]))
    ∧ (∀ (s s1 : State) (v : Word) (k : CoreId), s.performLoads s.flight.loads.length = .ok s1 →
      s1.cores[k].loadsOut (v.extractLsb' 48 16) = true → s1.cores[k].cell.frozen = false →
      s.writeTlbinv v = .error (.wait .unit none))
    ∧ ∀ (s : State) (v : Word), s.flight.loads = [] → (∀ k : CoreId, s.cores[k].loadsOut (v.extractLsb' 48 16) = false) →
      ∃ w, s.writeTlbinv v = .ok w
        ∧ (∀ (d : DieId) (t : TlbEntry), t ∈ (w.die d).tlb ↔ t ∈ (s.die d).tlb
          ∧ ¬ (t.domain = v.extractLsb' 48 16 ∧ (v.getLsbD 47 = true
            ∨ (t.vpn ≤ (v.extractLsb' 0 41).toNat ∧ (v.extractLsb' 0 41).toNat < t.vpn + t.units))))
        ∧ (∀ (k : CoreId) (t : TlbEntry), t ∈ w.cores[k].micro ↔ t ∈ s.cores[k].micro
          ∧ ¬ (t.domain = v.extractLsb' 48 16 ∧ (v.getLsbD 47 = true
            ∨ (t.vpn ≤ (v.extractLsb' 0 41).toNat ∧ (v.extractLsb' 0 41).toNat < t.vpn + t.units))))
        ∧ ∀ p ∈ w.stores, w.cores[p.core].cell.ident.domain = v.extractLsb' 48 16 → 3 ≤ p.level)
    ∧ ((∀ (s : State), s.writeCtxrec 0 = .ok (s.setCtx { s.cell.ctx with ctxrec := 0 }))
    ∧ (∀ (s u : State) (v : Word) (r : CtxRec), v ≠ 0 → s.ctxRecord v = .ok (r, u) → ∃ w, s.writeCtxrec v = .ok w
      ∧ w.cell.ctx = { s.cell.ctx with ctxrec := v } ∧ w.misc = { s.misc with smtheta := r.theta, smtag := r.ctxno ++ s.misc.smtag.extractLsb' 0 24 })
    ∧ (∀ (s : State) (v : Word), (v.extractLsb' 0 6 = 0 ∧ (v.extractLsb' 32 11).toNat ≤ 1024
        ∧ (v.extractLsb' 32 11 = 0 ∨ (v.extractLsb' 0 21).toNat + 64 * (v.extractLsb' 32 11).toNat ≤ 0x17F000) →
          s.writeCkslot v = .ok (s.setCtx { s.cell.ctx with ckslot := 0#21 ++ v.extractLsb' 32 11 ++ 0#11 ++ v.extractLsb' 0 21 }))
      ∧ (v.extractLsb' 0 6 ≠ 0 → s.writeCkslot v = .error (.fault { kind := .shape, code := 0x620 })))
    ∧ (∀ (s : State) (v : Word), v.getLsbD 63 = false → ∃ w, s.writePblen v = .ok w
      ∧ (w.cell.slots[s.misc.pbsel]).en = false ∧ (w.cell.slots[s.misc.pbsel]).b0 = (s.cell.slots[s.misc.pbsel]).b0
      ∧ (∀ p ∈ w.pubs, ¬ (p.owner = s.cell.ident.serial ∧ p.slot = s.misc.pbsel))
      ∧ ∀ j, j ≠ s.misc.pbsel → w.cell.slots[j] = s.cell.slots[j])
    ∧ ∀ (s : State) (v b0 b1 : Word) (n : Nat), v.getLsbD 63 = true → b0 = (s.cell.slots[s.misc.pbsel]).b0 →
      b1 = (s.cell.slots[s.misc.pbsel]).b1 → n = (v.extractLsb' 0 32).toNat →
      (v.extractLsb' 32 27 ≠ 0 ∨ 4 < (v.extractLsb' 59 3).toNat →
          s.writePblen v = .error (.fault { kind := .shape, code := BitVec.ofNat 32 (0x508 + s.misc.pbsel.val) }))
        ∧ (v.extractLsb' 32 27 = 0 → (v.extractLsb' 59 3).toNat ≤ 4 → b0.toNat % 64 ≠ 0 ∨ b1.toNat % 64 ≠ 0 →
          s.writePblen v = .error (.fault { kind := .shape, code := BitVec.ofNat 32 (0x510 + s.misc.pbsel.val) }))
        ∧ (v.extractLsb' 32 27 = 0 → (v.extractLsb' 59 3).toNat ≤ 4 → backingOk b0 = true → backingOk b1 = true →
          (s.cell.slots[s.misc.pbsel]).ver = 0 → n ≠ 0 → n % 64 = 0 → n ≤ 0x10000000 →
          (b0.toNat + n ≤ b1.toNat ∨ b1.toNat + n ≤ b0.toNat) → (∀ j, j ≠ s.misc.pbsel → (s.cell.slots[j]).en = false) →
          ∃ w p, s.writePblen v = .ok w ∧ (w.cell.slots[s.misc.pbsel]).len = v ∧ (w.cell.slots[s.misc.pbsel]).en = true
            ∧ w.pubs.filter (fun q => q.owner == s.cell.ident.serial && q.slot == s.misc.pbsel) = [p]
            ∧ p.flipped = false ∧ p.written = []))

/-- R336, R341, R354: a write of a chronograph's control word clears its data; one of a tree's descriptor stands, and a header with
V = 1 clears the tree's combine state on its die; one that retires a valid channel starts its drain with the entry left as it is, and
the drain's end puts V = 0 into the entry. -/
def Obligations.DeviceTables : Prop :=
  (∀ (s : State) (d : DieId) (n : Fin 16) (v : Word), s.MemWf →
    ((s.writeChrono d n v.toNat).die d).chrono[n] = { count := 0, min := BitVec.allOnes 64, max := 0, bins := Vector.replicate 32 0 }
      ∧ (∀ m, m ≠ n → ((s.writeChrono d n v.toNat).die d).chrono[m] = (s.die d).chrono[m])
      ∧ (s.writeChrono d n v.toNat).sysWord d (0x1300000 + 8 * n.val)
        = (v.extractLsb' 59 5 ++ 0#11 ++ v.extractLsb' 0 48).toNat)
    ∧ (∀ (s : State) (d : DieId) (t : Fin 256) (n : Nat) (v : Word), s.MemWf → n < 198 →
      (s.writeTree d t n v.toNat).sysWord d (0x1000000 + 2048 * t.val + 8 * n) = v.toNat
        ∧ (n = 0 → v.getLsbD 63 = true → ∀ x, x ∈ ((s.writeTree d t n v.toNat).die d).nodes ↔ x ∈ (s.die d).nodes ∧ x.tree ≠ t)
        ∧ (n ≠ 0 ∨ v.getLsbD 63 = false → ((s.writeTree d t n v.toNat).die d).nodes = (s.die d).nodes))
    ∧ (∀ (s : State) (c : BitVec 12) (v : Word), (∀ x ∈ s.draining, x.1 ≠ c) → v.getLsbD 63 = false →
      ((s.entryAt (locSys 0 (0x1100000 + 8 * c.toNat))).testBit 63 = true →
          s.writeChannel c v.toNat = { s with draining := s.draining ++ [(c, s.now, v.toNat)] })
        ∧ ((s.entryAt (locSys 0 (0x1100000 + 8 * c.toNat))).testBit 63 = false → s.MemWf →
          (s.writeChannel c v.toNat).sysWord 0 (0x1100000 + 8 * c.toNat) = (v.extractLsb' 0 9).toNat))
    ∧ ∀ (s : State) (c : BitVec 12) (since v : Nat) (pre post : List (BitVec 12 × Nat × Nat)), s.MemWf →
      s.draining = pre ++ (c, since, v) :: post → (∀ x ∈ pre, x.1 ≠ c) →
      (165000 ≤ s.now - since ∨ ((∀ p ∈ s.peerStores, p.channel ≠ c) ∧ ∀ k : CoreId, s.readsOn k c = false)) →
      ∃ w : State, exec (.channelDrainEnd c) s = .next w ∧ (∀ x ∈ w.draining, x.1 ≠ c) ∧ (∀ p ∈ w.peerStores, p.channel ≠ c)
        ∧ w.sysWord 0 (0x1100000 + 8 * c.toNat) = v % 512

/-! ## The escapement -/

/-- R87, R318, R319: the first placeable launch of a die in the order of issue that waits for no slots is issued: higher effective
priority first, then the older acceptance. A gang takes cores that no earlier launch wants; whether the launch is multi-wave is fixed.
R88: the launch's next cell takes a core and starts in the start state.
R89: a halted cell with temporal levels left goes on with the next indices, everything else carried over; without, it ends and its core
is free.
R84, R85: lnch reads the record and the text header once its earlier accesses are performed; with both sound and a scoreboard entry
free on every die it uses, the launch is entered and d takes its handle: the acceptance number, the die and the slot (which free slot
is the model's choice: log entry 31); with no entry free, d takes 0. An entered launch holds its record and its cells, in order, and no other entry changes. -/
def Obligations.LaunchWordAndSteps : Prop :=
  ((∀ (s u : State) (d : DieId) (l : Launch), u = (s.prepare d).prepare (1 - d) →
    u.firstOf d ((u.die d).board.filter (u.mayIssue d)) = some l →
    (∀ m ∈ (u.die d).board, u.mayIssue d m = true →
        u.prio d m < u.prio d l ∨ (u.prio d m = u.prio d l
          ∧ (l.accepted < m.accepted ∨ (l.accepted = m.accepted ∧ l.seq ≤ m.seq))))
      ∧ ∃ w x, exec (.launchIssue d) s = .next w ∧ x ∈ (w.die d).board ∧ x.slot = l.slot ∧ x.handle = l.handle ∧ x.issued = true
        ∧ x.multiWave = (!recGang l.record && decide ((u.givenOn d l).length < l.waiting.length))
        ∧ x.gang = (if recGang l.record then (u.givenOn d l).take l.waiting.length else [])
        ∧ (shareOn d l = 0 → x.mayStart = l.waiting.length))
    ∧ (∀ (s : State) (k : CoreId) (slot n : Nat) (ns : List Nat) (l : Launch),
      (s.die (dieOf k)).board.find? (fun x => x.slot == slot) = some l → l.waiting = n :: ns → l.issued = true →
      (cellsOfEntry (dieOf k) l).length - l.waiting.length < l.mayStart → s.issuing = true →
      ((recGang l.record = true ∧ k ∈ l.gang ∧ s.cores[k].cell.status = .idle ∧ s.gangWhole (dieOf k) l = true)
        ∨ (recGang l.record = false ∧ s.imagesOf (dieOf k) l = [] ∧ s.free l k = true ∧ s.firstClaim (dieOf k) l k = true)) →
      ∃ w : State, exec (.cellStart k slot) s = .next w ∧ w.cores[k].cell.status = .running
        ∧ w.cores[k].cell.ident.cellno = BitVec.ofNat 32 n ∧ w.cores[k].cell.ident.handle = l.handle
        ∧ w.cores[k].cell.ident.domain = recDomain l.record ∧ w.cores[k].cell.ident.supv = recSupv l.record
        ∧ (∀ i : Nat, w.cores[k].cell.ident.index.toList[i]? = (cellDigits l.record n)[i]?)
        ∧ (∀ e, w.cores[k].cell.roll.paths.get e = Path.at_ (plus (recText l.record) 64))
        ∧ (∀ i : Fin 32, w.cores[k].cell.roll.x[i] = 0) ∧ (∀ i : Fin 16, w.cores[k].cell.roll.q[i] = [])
        ∧ (∀ i : Fin 10, w.cores[k].cell.roll.tok[i] = []) ∧ (∀ i : Fin 16, w.cores[k].cell.roll.v[i] = Tile.zero)
        ∧ (∀ i : Fin 64, w.cores[k].cell.acc[i] = Tile.zero) ∧ (∀ i : Fin 16, w.cores[k].cell.roll.f[i] = FReg.empty)
        ∧ (∀ e (i : Fin 64), (w.cores[k].cell.tmpl.get e)[i] = none) ∧ w.cores[k].cell.roll.rndctr = BitVec.ofNat 32 n ++ 0#32
        ∧ (∀ off, off < 0x180000 → Memory.get w.mem (locPad k off) = 0)
        ∧ ∃ x ∈ (w.die (dieOf k)).board, x.slot = slot ∧ x.waiting = ns ∧ x.live = l.live + 1)
    ∧ (∀ (s : State) (k : CoreId) (ix : Vector Nat 6), s.cores[k].cell.status = .halted → s.cores[k].cell.frozen = false →
      nextIteration s.cores[k].cell.ident.record s.cores[k].cell.ident.index = some ix →
      ∃ w : State, exec (.iterationEnd k) s = .next w ∧ w.cores[k].cell.status = .running ∧ w.cores[k].cell.ident.index = ix
        ∧ w.cores[k].cell.roll = s.cores[k].cell.roll ∧ w.cores[k].cell.acc = s.cores[k].cell.acc
        ∧ w.cores[k].cell.tmpl = s.cores[k].cell.tmpl ∧ w.cores[k].cell.misc = s.cores[k].cell.misc ∧ w.mem = s.mem)
    ∧ ∀ (s : State) (k : CoreId), s.cores[k].cell.status = .halted → s.cores[k].cell.frozen = false →
      nextIteration s.cores[k].cell.ident.record s.cores[k].cell.ident.index = none →
      ∃ w : State, exec (.cellEnd k) s = .next w ∧ w.cores[k].cell.status = .idle ∧ ∀ j, j ≠ k → w.cores[j] = s.cores[j])
    ∧ ((∀ (t : Tok) (d : Dst) (a : Src) (adr : Word) (bs hb : List Byte) (r h : BitVec 512) (s s1 s2 s3 u s4 s5 : State),
    s.Admits .A t (Src.uses a ++ Dst.uses d) s1 → s1.src a = .ok (adr, s2) → adr.toNat % 64 = 0 →
    (spaceOf adr = 0 ∨ spaceOf adr = 8) → s2.performLoads s2.flight.loads.length = .ok s3 →
    u = s3.perform (fun p => p.serial == s3.cell.ident.serial && p.eng == .A) 3 →
    u.peersAcked s (fun p => p.eng == .A) = .ok () → u.readRecord adr 64 = .ok (bs, s4) →
    r = BitVec.ofNat 512 (leNat bs) → recordBad r s.dieId = none → s4.readRecord (r.extractLsb' 0 64) 64 = .ok (hb, s5) →
    h = BitVec.ofNat 512 (leNat hb) → headerBad h = none →
    (s.supv = true ∨ (r.getLsbD 139 = false ∧ r.extractLsb' 143 3 ≠ 7 ∧ r.extractLsb' 160 16 = s.domain)) →
    (r.getLsbD 142 = true → ∀ x ∈ launchDies r s.dieId, (cellsOn r s.dieId x).length ≤ s5.enabledOn x) →
    (∀ s6, (∃ x ∈ launchDies r s.dieId, 512 ≤ s5.entriesOn x) → s5.dst d 0 = .ok s6 →
        exec (.lnch t d a) s = .next (s6.retire .A t 2))
      ∧ ∀ (home : DieId) (s6 : State), (∀ x ∈ launchDies r s.dieId, s5.entriesOn x < 512) →
        home = (launchDies r s.dieId).headD s.dieId →
        ((launchDies r s.dieId).foldl (fun s' x => s'.enterBoard x s.dieId
            ((s5.die home).nextSeq ++ 0#22 ++ BitVec.ofNat 1 home.val ++ BitVec.ofNat 9 (s5.freeEntry home)) r h adr) s5).dst d
          ((s5.die home).nextSeq ++ 0#22 ++ BitVec.ofNat 1 home.val ++ BitVec.ofNat 9 (s5.freeEntry home)) = .ok s6 →
        exec (.lnch t d a) s = .next (s6.retire .A t 2))
    ∧ ∀ (s : State) (d own : DieId) (handle lrec : Word) (r h : BitVec 512),
      ((∃ l, ((s.enterBoard d own handle r h lrec).die d).board = (s.die d).board ++ [l] ∧ l.slot = s.freeEntry d
          ∧ l.handle = handle ∧ l.record = r ∧ l.header = h ∧ l.lrec = lrec ∧ l.waiting = cellsOn r own d ∧ l.live = 0
          ∧ l.issued = false)
        ∧ ((s.enterBoard d own handle r h lrec).die d).nextSeq ≠ 0
        ∧ ((s.enterBoard d own handle r h lrec).die (1 - d)) = s.die (1 - d)
        ∧ (s.entriesOn d < 512 → s.freeEntry d < 512 ∧ ∀ l ∈ (s.die d).board, l.slot ≠ s.freeEntry d)))

/-- R320: a pre-emption for priority asks to leave only cores whose cell, or a cell of whose gang, runs on the die for a launch that
allows it, at a base priority below that of a ready launch; one for a time slice, only cells of another domain at the same base
priority that have run SLICE or longer. SLICE = 0 turns slicing off. For a launch that alone waits for cores, victims are asked in the
victim order where the free cores and theirs suffice, as many as are needed, and no victim where they do not.
R321, R322, R323: a cell that is asked to leave stops, its accesses are performed at device scope, and it is saved in the chosen image
slot; its core runs no cell. R319, R323, R296: the lowest-numbered pre-empted cell of a launch takes a free core, or the spare of its
retired core, again from a sound image.
R355, R356: a core with a stop asked for, or whose engine has retired its one instruction, freezes, and its state stands in its dump
area.
The model's choices: a resumed cell's small state comes from the model's record of the image, its tiles, accumulator memory, templates and
function registers from the image's bytes (log entry 22); freed cores are kept for the launch they were freed for (log entry 17). -/
def Obligations.PreemptionAndHack : Prop :=
  (∀ (s u : State) (d : DieId), u = s.prepare d → ∃ w : State, exec (.priorityPreemption d) s = .next w
      ∧ (u.issuing = false → w = u)
      ∧ ∀ k : CoreId, w.cores[k].cell = u.cores[k].cell ∧ (u.cores[k].leave = none → w.cores[k].leave ≠ none →
        ∃ j l, dieOf j = d ∧ u.mayLeave j = true
          ∧ (j = k ∨ (recGang u.cores[j].cell.ident.record = true ∧ u.cores[k].cell.ident.handle = u.cores[j].cell.ident.handle))
          ∧ l ∈ (u.die d).board ∧ u.ready l = true ∧ recPrio u.cores[j].cell.ident.record < recPrio l.record)
      ∧ (u.issuing = true → s.Preempts u (.priorityPreemption d) d u.victimPrio fun l k =>
          decide (recPrio u.cores[k].cell.ident.record < recPrio l.record)))
    ∧ (∀ (s u : State) (d : DieId), u = s.prepare d → ∃ w : State, exec (.timeSlicePreemption d) s = .next w
      ∧ ((u.die d).slice = 0 ∨ u.issuing = false → w = u)
      ∧ ∀ k : CoreId, w.cores[k].cell = u.cores[k].cell ∧ (u.cores[k].leave = none → w.cores[k].leave ≠ none →
        ∃ j l, dieOf j = d ∧ u.mayLeave j = true
          ∧ (j = k ∨ (recGang u.cores[j].cell.ident.record = true ∧ u.cores[k].cell.ident.handle = u.cores[j].cell.ident.handle))
          ∧ l ∈ (u.die d).board ∧ u.ready l = true ∧ recPrio u.cores[j].cell.ident.record = recPrio l.record
          ∧ u.cores[j].cell.ident.domain ≠ recDomain l.record
          ∧ (u.die d).slice.toNat ≤ (u.now - u.cores[j].cell.ident.since) / 3300)
      ∧ (u.issuing = true → (u.die d).slice ≠ 0 → s.Preempts u (.timeSlicePreemption d) d u.victimSlice fun l k =>
          recPrio u.cores[k].cell.ident.record == recPrio l.record && u.cores[k].cell.ident.domain != recDomain l.record
            && decide ((u.die d).slice.toNat ≤ u.usSince u.cores[k].cell.ident.since)))
    ∧ (∀ (s u : State) (k : CoreId) (i : Nat), s.cores[k].leave = some (some i) → s.cores[k].cell.canStop = true →
      s.cores[k].cell.flight.loads = [] →
      u = (((s.on k).stopCell).autoTrace 4 .A (((s.on k).stopCell).path .A).pc 0).settleCell →
      ∃ (w : State) (g : Image), exec (.preemptionStop k) s = .next w ∧ w.cores[k].cell.status = .idle ∧ w.cores[k].leave = none
        ∧ (s.cores[k].cell.ident.serial ≠ 0 → ∀ p ∈ w.stores, p.serial = s.cores[k].cell.ident.serial → 3 ≤ p.level)
        ∧ (w.die (dieOf k)).images = (s.die (dieOf k)).images ++ [g] ∧ g.slot = i
        ∧ g.cell.ident = s.cores[k].cell.ident ∧ g.cell.status = s.cores[k].cell.status ∧ g.cell.roll.x = s.cores[k].cell.roll.x
        ∧ g.cell.roll.v = s.cores[k].cell.roll.v ∧ g.cell.acc = s.cores[k].cell.acc
        ∧ g.cell.traps.cause = s.cores[k].cell.traps.cause ∧ g.cell.traps.aside = s.cores[k].cell.traps.aside
        ∧ g.cell.ctx = s.cores[k].cell.ctx ∧ g.cell.flight.cops = [] ∧ g.cell.flight.fop = none
        ∧ (∀ x n : Nat, s.cores[k].slotAt = [(x, n)] → peerChannel x = none → s.pubs = [] → s.cores[k].hackReq = none → s.MemWf →
          (u.imageOf u.freeCtr).length ≤ n →
          Memory.getList w.mem x (u.imageOf u.freeCtr).length = u.imageOf u.freeCtr))
    ∧ (∀ (s t u : State) (k : CoreId) (n : Nat) (i : Image) (l : Launch) (ps : List (Nat × Nat)) (bs : List Byte), (s.die (dieOf k)).images[n]? = some i →
      (s.die (dieOf k)).board.find? (fun l => l.handle == i.cell.ident.handle) = some l →
      (∀ j ∈ (s.die (dieOf k)).images, j.cell.ident.handle = l.handle →
        i.cell.ident.cellno.toNat ≤ j.cell.ident.cellno.toNat) →
      s.issuing = true → s.resumeGranted (dieOf k) l i.cell.ident.cellno.toNat = true →
      ((i.only = none ∧ recGang l.record = false ∧ s.free l k = true ∧ s.firstClaim (dieOf k) l k = true)
        ∨ (i.only = some k ∧ s.cores[k].cell.status = .idle)) →
      t = ((s.on k).setDie (dieOf k) { s.die (dieOf k) with images := (s.die (dieOf k)).images.filter (· != i) }).setLeft
        i.cell.ident.handle k false →
      t.range (imageAgent k) (t.slotAddr (dieOf k) i.slot) (0x1ED000 + i.cell.ckBytes.length) .load = .ok (ps, u) →
      u.imageBytes k i ps = .ok bs → imageGood bs = true →
      ∃ w : State, exec (.cellResume k n) s = .next w ∧ w.cores[k].cell.status = i.cell.status
        ∧ w.cores[k].cell.ident = { i.cell.ident with since := s.now } ∧ w.cores[k].cell.roll.x = i.cell.roll.x
        ∧ w.cores[k].cell.roll.q = i.cell.roll.q ∧ w.cores[k].cell.roll.paths = i.cell.roll.paths
        ∧ w.cores[k].cell.traps = i.cell.traps ∧ w.cores[k].cell.ctx = i.cell.ctx ∧ i ∉ (w.die (dieOf k)).images
        ∧ w.cores[k].cell.roll.v = (cellFromImage i.cell bs []).roll.v ∧ w.cores[k].cell.acc = (cellFromImage i.cell bs []).acc
        ∧ w.cores[k].cell.tmpl = (cellFromImage i.cell bs []).tmpl ∧ w.cores[k].cell.roll.f = (cellFromImage i.cell bs []).roll.f)
    ∧ ∀ (s : State) (k : CoreId) (v : Word) (e : Eng), s.MemWf → s.cores[k].hackReq = some v → s.cores[k].cell.settled = true →
      (v.extractLsb' 60 4 = 1 → ∃ w : State, exec (.hackStop k) s = .next w ∧ s.HackStopped w k)
        ∧ (v.extractLsb' 60 4 = 3 → Eng.ofCode (v.extractLsb' 0 3).toNat = some e → (s.cores[k].cell.run.get e).stepped = true →
          ∃ w : State, exec (.hackStepStop k) s = .next w ∧ s.HackStopped w k)

/-! ## Power and links -/

/-- R303, R304, R314: a sample boundary closes the sample: its ticks join the history, POWER is their watts, the power registers and
PINWAIT as written govern from now on, and a hold ends. R6, R9: the rail power that it reads is at most the module's 2,400 W, which is
the model's choice (log entry 13).
R307: the throttle holds once what the sample has metered reaches its ceiling, and M and V of user cells alone then issue nothing.
R313: every 4,096 cycles each enabled core's pending charges, and ESTATIC for the domain that holds it, are added to the accounts: each
COUNT rises by them, or saturates at 2^48 - 1 with ESAT set.
R306: a pinned launch not granted in full within PINWAIT is a ramp violation: an event of type 5 carries its handle, and its waiting
cells never start and its scoreboard slot is free again (R317). -/
def Obligations.PowerSteps : Prop :=
  (∀ s : State, s.aedty.suspended ≠ 2 → s.gov.sampleAt + 330 ≤ s.now → ∃ (w : State) (n : Nat), exec .sampleBoundary s = .next w
      ∧ w.gov.use = s.gov.set ∧ w.gov.set = s.gov.set ∧ (∀ d : DieId, (w.die d).pinUse = (s.die d).pinwait) ∧ w.gov.sampleAt = s.gov.sampleAt + 330
      ∧ w.gov.ticks = 0 ∧ w.gov.hold = false ∧ w.gov.heldBefore = s.gov.hold ∧ s.gov.ticks ≤ n
      ∧ w.gov.history = (n :: s.gov.history).take 10000001 ∧ w.gov.power = BitVec.ofNat 12 (min 4095 (n / 6400))
      ∧ w.gov.meas.toNat ≤ 2400)
    ∧ (∀ (s : State) (hi : Nat), s.hiTicks = some hi →
      (s.metered < hi → exec .throttleHold s = .next s)
        ∧ (hi ≤ s.metered → s.gov.hold = false → s.gov.heldBefore = false →
          exec .throttleHold s = .next { s with gov := { s.gov with hold := true } }))
    ∧ (∀ (s : State) (e : Eng), s.throttled e = true ↔ s.gov.hold = true ∧ s.cell.ident.supv = false ∧ (e = .M ∨ e = .V))
    ∧ (∀ s : State, s.aedty.suspended ≠ 2 → s.gov.staticAt + 4096 < s.now → ∃ w : State, exec .staticCharge s = .next w
      ∧ w.gov.staticAt = s.gov.staticAt + 4096
      ∧ (∀ k : CoreId, (s.cores[k].enabled = true → w.cores[k].pending = [] ∧ w.cores[k].ballastPend = [])
        ∧ (s.cores[k].cell.flight.fop = none → w.cores[k].cell = s.cores[k].cell))
      ∧ ∀ d : BitVec 16, s.MemWf → (∀ k : CoreId, (s.cores[k].pending.map (·.1)).Nodup) →
        (∀ p ∈ s.stores, p.loc + p.bytes.length ≤ locSys 0 (accountOff d) ∨ locSys 0 (accountOff d) + 16 ≤ p.loc) →
        (w.sysWord 0 (accountOff d)) % 2 ^ 48 = min ((s.sysWord 0 (accountOff d)) % 2 ^ 48 + s.due d) (2 ^ 48 - 1)
          ∧ (w.sysWord 0 (accountOff d)) / 2 ^ 63 = (if 2 ^ 48 ≤ (s.sysWord 0 (accountOff d)) % 2 ^ 48 + s.due d then 1
            else (s.sysWord 0 (accountOff d)) / 2 ^ 63))
    ∧ ∀ (s : State) (d : DieId) (slot t0 : Nat) (l : Launch) (q : RampReq), (s.die d).board.find? (fun x => x.slot == slot) = some l →
      (s.die d).board.find? (fun x => x.handle == l.handle) = some l →
      recPin l.record = true → l.askedAt = some t0 → q ∈ (s.die d).ramp → q.launch = l.handle → q.core = none → q.resume = [] →
      q.got < q.want → (s.die d).pinUse.toNat * 3300 ≤ s.now - t0 →
      ∃ (w : State) (e : SupEvent), exec (.rampViolation d slot) s = .next w ∧ (w.die d).sevq = (s.die d).sevq ++ [e]
        ∧ e.head.extractLsb' 448 64 = l.handle ∧ e.head.extractLsb' 0 8 = 5 ∧ e.head.extractLsb' 400 16 = recDomain l.record
        ∧ (∀ x ∈ (w.die d).ramp, ¬ (x.launch = l.handle ∧ x.core = none ∧ x.resume = []))
        ∧ (∀ x ∈ (w.die d).board, x.handle = l.handle → x.waiting = [] ∧ 512 ≤ x.slot)
        ∧ (l.live = 0 → ∀ x ∈ (w.die d).board, x.handle ≠ l.handle)

/-- R335, R340: bytes that the host writes into its memory, or through its window, and those that a peer stores into HBM4, are
performed at device scope; a read, and an access outside the window, change nothing; a peer's atomic is made at the granule's home.
R335, R153: an acknowledged write of the device is performed at fabric scope, and the bytes that wait for it leave their barrier, or pass to
an earlier write of its operation that is not acknowledged yet. -/
def Obligations.OutsideAccesses : Prop :=
  (∀ (s : State) (pa : BitVec 48) (bs : List Byte), s.MemWf → pa.toNat + bs.length ≤ 2 ^ 48 →
      (∀ i, i < bs.length → s.pubAt none (locPhys (0x1000000000000 + pa.toNat) + i) = none) →
      ∃ w : State, exec (.hostWrite pa bs) s = .next w
        ∧ ∀ i, i < bs.length → some (w.peekByte .device (locPhys (0x1000000000000 + pa.toNat) + i)) = bs[i]?)
    ∧ (∀ (s : State) (a : BitVec 48) (base size : Nat), s.hostWindow = (base, size) →
      exec (.hostMemAccess a none) s = .next s
        ∧ (∀ bs : List Byte, (a.toNat < base ∨ base + size < a.toNat + bs.length) → exec (.hostMemAccess a (some bs)) s = .next s)
        ∧ ∀ bs : List Byte, s.serving = true → base ≤ a.toNat → a.toNat + bs.length ≤ min (base + size) 0x6000000000 → s.MemWf →
          (∀ i, i < bs.length → s.pubAt none (locPhys a.toNat + i) = none) →
          ∃ w : State, exec (.hostMemAccess a (some bs)) s = .next w
            ∧ ∀ i, i < bs.length → some (w.peekByte .device (locPhys a.toNat + i)) = bs[i]?)
    ∧ (∀ (s : State) (a : BitVec 39), s.serving = true → s.MemWf →
      (∀ n, exec (.peerAccess (.load a n)) s = .next s)
        ∧ (∀ bs : List Byte, a.toNat + bs.length ≤ 0x6000000000 → (∀ i, i < bs.length → s.pubAt none (locPhys a.toNat + i) = none) →
          ∃ w : State, exec (.peerAccess (.store a bs)) s = .next w
            ∧ ∀ i, i < bs.length → some (w.peekByte .device (locPhys a.toNat + i)) = bs[i]?)
        ∧ (∀ (op : AmoOp) (v : Word) (u : State) (n : Nat), n = AmoOp.size op → a.toNat % n = 0 → a.toNat + n ≤ 0x6000000000 →
          s.badAt .device none (locPhys a.toNat) n = none → u = s.settle .device (s.land none (locPhys a.toNat)) n →
          exec (.peerAccess (.amo op a v)) s = .next (u.outsideWrite (locPhys a.toNat)
            (leBytes n (AmoOp.result op (leNat (u.readAt .device none (locPhys a.toNat) n)) v))))
        ∧ ∀ (x v : Word) (u : State), a.toNat % 8 = 0 → a.toNat + 8 ≤ 0x6000000000 →
          s.badAt .device none (locPhys a.toNat) 8 = none → u = s.settle .device (s.land none (locPhys a.toNat)) 8 →
          exec (.peerAccess (.cas a x v)) s = .next (if leNat (u.readAt .device none (locPhys a.toNat) 8) = x.toNat then
            u.outsideWrite (locPhys a.toNat) (leBytes 8 v.toNat) else u))
    ∧ ∀ (s v : State) (k : Nat) (p : PeerStore), s.peerStores[k]? = some p → s.channelHeld p.channel = false → s.aedty.suspended ≠ 2 →
      v = (s.perform p.made 4).ackReceipt p →
      (∀ x ∈ v.stores, p.made x = true → 4 ≤ x.level)
        ∧ ((∀ q ∈ s.peerStores.take k, p.sameOp q = false) →
          ∀ y : State, y = v.pendAdd p.who p.bar (-(p.charge : Int)) →
            exec (.peerStoreAck k) s = .next { y with peerStores := s.peerStores.eraseIdx k })
        ∧ (p.charge ≠ 0 → (∃ q ∈ s.peerStores.take k, p.sameOp q = true) →
          ∀ ws, ws = changeLast p.sameOp (fun q => { q with charge := q.charge + p.charge }) (s.peerStores.take k)
              ++ s.peerStores.drop (k + 1) → exec (.peerStoreAck k) s = .next { v with peerStores := ws })

/-- R342, R344: an input of a sequence that a node has passed, or that has come before, is discarded; one that leaves inputs missing
opens or joins the sequence's entry; with the last one the node adds its inputs in the order own, first child, second child, and the
root keeps the result, any other node of the device sends it to its parent. A c.rrecv that has waited its TIMEOUT probes the tree and
takes the reduction-timeout fault with the number found.
R326, R328, R294: a port that a peer quiesces, or that has not answered for 50 ms of a suspend, is quiesced; a reopened one is not; a
port without lanes is down. -/
def Obligations.ReductionAndPorts : Prop :=
  (∀ (s : State) (k : Nat) (p : Packet), s.packets[k]? = some p → s.aedty.suspended ≠ 2 →
      s.nodeRoom p.die p.tree p.site p.seq = true →
      exec (.reductionInputArrival (.packet k)) s = .next (State.nodeInput { s with packets := s.packets.eraseIdx k } p.die p.tree
        p.site p.child p.seq p.vals p.beat))
    ∧ (∀ (s : State) (port : Fin 16) (t : Fin 256) (q : BitVec 32) (vals : List W32) (beat : BitVec 48) (site child : Nat),
      s.portNode port t = some (site, child) → s.aedty.suspended ≠ 2 → s.ports[port].up = true → s.ports[port].qsc = false →
      s.treeOk t (portCode port).1 = true → vals.length = s.treeElems t (portCode port).1 →
      s.nodeRoom (portCode port).1 t site q.toNat = true →
      exec (.reductionInputArrival (.port port t q vals beat)) s = .next (s.nodeInput (portCode port).1 t site child q.toNat vals beat))
    ∧ (∀ (s : State) (d : DieId) (t : Fin 256) (site child q : Nat) (vals : List W32) (beat : BitVec 48) (n : Node) (e : NodeEntry)
        (old : List NodeInput), n = s.nodeState d t site → e = s.nodeEntry d t site →
      old = (match n.opens.find? (fun o => o.seq == q) with | some o => o.inputs | none => []) →
      ((n.past q = true ∨ ∃ i ∈ old, i.child = child) → s.nodeInput d t site child q vals beat = s)
        ∧ (n.past q = false → (∀ i ∈ old, i.child ≠ child) →
          ((∃ c ∈ e.expects, c ≠ child ∧ ∀ i ∈ old, i.child ≠ c) →
            ∃ o ∈ ((s.nodeInput d t site child q vals beat).nodeState d t site).opens, o.seq = q
              ∧ o.inputs = old ++ [{ child := child, vals := vals, beat := beat }])
          ∧ ∀ ins : List (List W32), (∀ c ∈ e.expects, c = child ∨ ∃ i ∈ old, i.child = c) →
            ins = e.expects.filterMap (fun c => if c = child then some vals else (old.find? fun i => i.child == c).map (·.vals)) →
            (e.parent = 0x1FE → ∃ b, ((s.nodeInput d t site child q vals beat).nodeState d t site).results
                = n.results ++ [(q, nodeSum ins, b)])
              ∧ (e.parent ≠ 0x1FE → ∀ d' site', nodeOf d e.parent = some (d', site') →
                ∃ p, (s.nodeInput d t site child q vals beat).packets = s.packets ++ [p] ∧ p.die = d' ∧ p.site = site' ∧ p.tree = t
                  ∧ p.seq = q ∧ p.vals = nodeSum ins)))
    ∧ (∀ (s u v : State) (k : CoreId) (o : COp) (rest : List COp) (t : Fin 256) (n : Nat), u = s.on k → u.flight.cops = o :: rest →
      o.kind = .rrecv → t.val = o.f.f5.toNat % 256 → u.working = true → u.cell.raised = none → u.unitReady o = false →
      u.treeHeader (dieOf k) t 0 % 2 ^ 32 ≠ 0 → (u.treeHeader (dieOf k) t 0 % 2 ^ 32) * 3300 ≤ s.now - o.since →
      u.treeQuiesced t = false → s.aedty.suspended = 0 → u.probe t (dieOf k) (siteOf k) o.f.f2.toNat = (n, v) →
      exec (.reductionTimeout k) s = .next (v.faultC
        { kind := .reduction
          code := BitVec.ofNat 32 n
          addr := 0xF000000001000000 + BitVec.ofNat 64 (2048 * t.val)
          info := BitVec.ofNat 64 o.f.f2.toNat
          info2 := BitVec.ofNat 64 t.val }))
    ∧ (∀ (s : State) (p : Fin 16), s.serving = true →
      (s.ports[p].up = true → s.ports[p].qsc = false →
          exec (.peerQuiesce p) s = .next (s.setPort p { s.ports[p] with qsc := true, qscAt := s.now }))
        ∧ (s.ports[p].qsc = true → ∃ w : State, exec (.peerPortReopen p) s = .next w ∧ w.ports[p] = { s.ports[p] with qsc := false }
          ∧ ∀ q, q ≠ p → w.ports[q] = s.ports[q]))
    ∧ (∀ (s : State) (p : Fin 16) (n : BitVec 3), n.toNat ≤ 4 → s.aedty.phase = 2 →
      exec (.laneDegrade p n) s = .next (s.setPort p { s.ports[p] with lanes := n, up := decide (n ≠ 0) }))
    ∧ ∀ (s : State) (p : Fin 16), s.aedty.suspended = 1 → s.ports[p].up = true → s.ports[p].qsc = false →
      165000000 ≤ s.now - s.aedty.suspendAt →
      ∃ w : State, exec (.portQuiesceTimeout p) s = .next w
        ∧ (s.aedty.resumeAsked = false → w.ports = s.ports.set p { s.ports[p] with qsc := true, qscAt := s.now })
        ∧ ((∀ q : Fin 16, q ≠ p → s.ports[q].up = true → s.ports[q].qsc = true) → s.rampedDown = true →
          w.aedty.suspended = (if s.aedty.resumeAsked then 0 else 2) ∧ ∀ d : DieId, (w.die d).tlb = [])
        ∧ ((∃ q : Fin 16, q ≠ p ∧ s.ports[q].up = true ∧ s.ports[q].qsc = false) ∨ s.rampedDown = false → w.aedty.suspended = 1)

/-! ## The Aedty core -/

/-- R369: with busy clear the doorbell submits a request, and busy is set; with busy set, a doorbell for another request is ignored; the
host writes the request area and reads the region by their offsets.
R358, R346, R367: the Aedty core answers the request that the mailbox holds: the reply is there, busy is cleared and vector 2 is
signalled. An unknown operation, one that boot refuses, and an image load after the boot get status 3; a stream opens with its
counter at 0 or gets the status that says why not; a close takes it from the table; an attestation writes the report to the host; the
dump buffer is registered.
R361, R362: the first released entry of a stream becomes frame n at RING + 16 (n mod 2^LOGN), and CTR is n + 1, where the ring has
room; without, nothing is written; an entry waits for every earlier one of its stream. R358: an entry released to an opening of a stream
that has been closed since is written for that opening.
The model's choices (log entry 16): that a write of the request area while busy has no effect, that the doorbell and the answer are two
events, and the statuses of requests that are not sound. -/
def Obligations.MailboxSteps : Prop :=
  (MailOp .streamOpen (fun s req => s.mails req 0x10 = true) ∧ MailOp .streamClose (fun s req => s.mails req 0x11 = true)
      ∧ MailOp .attestation (fun s req => s.mails req 0x20 = true) ∧ MailOp .suspend (fun s req => s.mails req 0x30 = true)
      ∧ MailOp .resume (fun s req => s.mails req 0x31 = true) ∧ MailOp .dumpBufferRegister (fun s req => s.mails req 0x40 = true)
      ∧ MailOp .imageLoad (fun s req => s.aedty.phase = 1 ∧ req.extractLsb' 0 8 = 0x50)
      ∧ MailOp .mailboxUnknownOp (fun s req => s.refused req = true))
    ∧ (∀ (s : State) (off : Nat) (bs : List Byte), s.mailIdle = true → off + bs.length ≤ 64 →
      ∀ i, i < 64 → ((s.mailWrite off bs).mailRead i 1)[0]?
        = (if off ≤ i ∧ i < off + bs.length then bs[i - off]? else (s.mailRead i 1)[0]?))
    ∧ (∀ (s : State) (off : Nat) (bs : List Byte), s.mailIdle = false → s.mailWrite off bs = s)
    ∧ (∀ (s : State) (req : BitVec 512), s.Holds req → s.aedty.phase ≠ 0 →
      ((req.extractLsb' 0 8).toNat ∉ [0x10, 0x11, 0x20, 0x30, 0x31, 0x40, 0x50]
        ∨ (s.aedty.phase = 1 ∧ req.extractLsb' 0 8 ≠ 0x50) ∨ (s.aedty.phase = 2 ∧ req.extractLsb' 0 8 = 0x50)) →
      ∃ w : State, exec (.mailboxUnknownOp req) s = .next w ∧ s.Answers w 3 ∧ w.aedty.phase = s.aedty.phase ∧ w.mem = s.mem)
    ∧ (∀ (s : State) (req : BitVec 512) (st : Stream) (n : Nat), s.Holds req → s.mails req 0x10 = true → streamReq req = (st, n) →
      (streamBad req true = true → ∃ w : State, exec (.streamOpen req) s = .next w ∧ s.Answers w 3 ∧ w.aedty.streams = s.aedty.streams)
        ∧ (streamBad req true = false → (s.streamOf st.domain st.id).isSome = true →
          ∃ w : State, exec (.streamOpen req) s = .next w ∧ s.Answers w 1 ∧ w.aedty.streams = s.aedty.streams)
        ∧ (streamBad req true = false → s.streamOf st.domain st.id = none → 256 ≤ s.aedty.streams.length →
          ∃ w : State, exec (.streamOpen req) s = .next w ∧ s.Answers w 2 ∧ w.aedty.streams = s.aedty.streams)
        ∧ (streamBad req true = false → s.streamOf st.domain st.id = none → s.aedty.streams.length < 256 → s.MemWf →
          ∃ w : State, exec (.streamOpen req) s = .next w ∧ s.Answers w 0 ∧ st.frames = 0
            ∧ w.aedty.streams = s.aedty.streams ++ [{ st with opened := s.nextSerial }] ∧ w.nextSerial = s.nextSerial + 1
            ∧ w.peek .host (locPhys (0x1000000000000 + st.ctr.toNat)) 8 = List.replicate 8 0))
    ∧ (∀ (s : State) (req : BitVec 512) (st : Stream) (n : Nat), s.Holds req → s.mails req 0x11 = true → streamReq req = (st, n) →
      (streamBad req false = true → ∃ w : State, exec (.streamClose req) s = .next w ∧ s.Answers w 3 ∧ w.aedty.streams = s.aedty.streams)
        ∧ (streamBad req false = false → s.streamOf st.domain st.id = none →
          ∃ w : State, exec (.streamClose req) s = .next w ∧ s.Answers w 1 ∧ w.aedty.streams = s.aedty.streams)
        ∧ (streamBad req false = false → (s.streamOf st.domain st.id).isSome = true →
          ∃ w : State, exec (.streamClose req) s = .next w ∧ s.Answers w 0
            ∧ (∀ x, x ∈ w.aedty.streams ↔ x ∈ s.aedty.streams ∧ ¬ (x.domain = st.domain ∧ x.id = st.id))
            ∧ ∀ x ∈ s.aedty.streams, x.domain = st.domain → x.id = st.id → (∃ e ∈ s.aedty.released, e.opened = x.opened) →
              x ∈ w.aedty.closed))
    ∧ (∀ (s : State) (e : Released) (rest : List Released) (st : Stream), s.aedty.released = e :: rest → s.aedty.suspended = 0 →
      s.entryStream e = some st → s.MemWf →
      (s.streamFull st = true → exec (.frameWrite 0) s = .next s)
        ∧ (s.streamFull st = false → st.ctr.toNat + 16 ≤ st.ring.toNat ∨ st.ring.toNat + 16 * 2 ^ st.logn ≤ st.ctr.toNat →
          st.ctr.toNat % 16 = 0 → st.ring.toNat % 4096 = 0 →
          ∃ w : State, exec (.frameWrite 0) s = .next w ∧ w.aedty.released = rest
            ∧ w.peek .host (locPhys (0x1000000000000 + (st.ring.toNat + 16 * (st.frames % 2 ^ st.logn)))) 16
              = leBytes 16 (BitVec.ofNat 32 st.frames ++ e.cellno ++ e.value : BitVec 128).toNat
            ∧ w.peek .host (locPhys (0x1000000000000 + st.ctr.toNat)) 8 = leBytes 8 (st.frames + 1)
            ∧ (st ∈ s.aedty.streams → { st with frames := st.frames + 1 } ∈ w.aedty.streams)
            ∧ (st ∈ s.aedty.closed → (∃ r ∈ rest, r.opened = st.opened) → { st with frames := st.frames + 1 } ∈ w.aedty.closed)))
    ∧ (∀ (s : State) (k : Nat) (e r : Released), s.aedty.released[k]? = some e → r ∈ s.aedty.released.take k →
      r.opened = e.opened → exec (.frameWrite k) s = .next s)
    ∧ (∀ (s : State) (req : BitVec 512), s.Holds req → s.mails req 0x20 = true → s.MemWf →
      mailAddr req + (s.report (req.extractLsb' 256 256)).length ≤ 2 ^ 48 →
      ∃ w : State, exec (.attestation req) s = .next w ∧ s.Answers w 0
        ∧ w.peek .host (locPhys (0x1000000000000 + mailAddr req)) (s.report (req.extractLsb' 256 256)).length
          = s.report (req.extractLsb' 256 256))
    ∧ ∀ (s : State) (req : BitVec 512), s.Holds req → s.mails req 0x40 = true → mailAddr req + mailSize req * 2 ^ 20 ≤ 2 ^ 48 →
      ∃ w : State, exec (.dumpBufferRegister req) s = .next w ∧ s.Answers w 0 ∧ w.aedty.dumpBase = req.extractLsb' 192 64
        ∧ w.aedty.dumpSize = (req.extractLsb' 160 32).toNat * 2 ^ 20

/-- R326, R327: a suspend that can be made saves every cell, and the device waits for its ports and its ramp-down or is in retention; a
fatal fault met before leaves it waiting for the dump; one without the image slots is refused, and one during a dump waits. A second one
changes nothing but the mailbox. Once every port is quiet and the power is down, retention begins, and a resume that was asked for is
served.
R327: a suspend whose slots no longer translate when its cells can be saved is refused then.
R327, R328: a resume brings the device back from retention: SUSPCNT rises by one and its ports are open; one that comes before the
suspend is complete is remembered.
The model's choices: the status 0 of accepted requests and of a second suspend, answered at once, and the free status of a refused one
(log entry 16); that the ports are open at the wake-up (log entry 19); when the power has come down (log entry 29). -/
def Obligations.SuspendAndResume : Prop :=
  (∀ (s : State) (req : BitVec 512), s.Holds req → s.mails req 0x30 = true →
      ((s.aedty.suspended ≠ 0 ∨ s.aedty.suspending = true ∨ s.aedty.suspendAsked = true) →
          ∃ w : State, exec (.suspend req) s = .next w ∧ s.Answers w 0 ∧ w.aedty.suspended = s.aedty.suspended
            ∧ w.aedty.suspending = s.aedty.suspending ∧ w.aedty.suspendAsked = s.aedty.suspendAsked ∧ w.cores = s.cores ∧ w.mem = s.mem)
        ∧ (s.aedty.suspended = 0 → s.aedty.suspending = false → s.aedty.suspendAsked = false →
          ((∃ d : DieId, (s.die d).imgcount.toNat < 196) →
            ∃ (w : State) (r : BitVec 8), exec (.suspend req) s = .next w ∧ s.Answers w r ∧ r ≠ 0 ∧ w.aedty.suspended = 0
              ∧ w.aedty.suspending = false ∧ w.cores = s.cores ∧ w.mem = s.mem)
          ∧ (s.canSuspend = true → s.aedty.dumps ≠ [] →
            ∃ w : State, exec (.suspend req) s = .next w ∧ s.Answers w 0 ∧ w.aedty.suspendAsked = true ∧ w.cores = s.cores)
          ∧ (s.canSuspend = true → s.aedty.dumps = [] → s.aedty.resumeAsked = false →
            ∃ w : State, exec (.suspend req) s = .next w ∧ s.Answers w 0 ∧ w.aedty.suspendAsked = false
              ∧ ((w.aedty.suspended = 0 ∧ w.aedty.suspending = true)
                ∨ (w.aedty.suspended = 0 ∧ w.aedty.suspending = false ∧ w.canSuspend = false)
                ∨ ((∀ k : CoreId, w.cores[k].cell.status = .idle) ∧ w.aedty.suspending = false
                  ∧ (w.aedty.suspended = 1 ∨ (w.aedty.suspended = 2 ∧ ∀ p : Fin 16, w.ports[p].up = true → w.ports[p].qsc = true))))
              ∧ ((∀ k : CoreId, s.cores[k].cell.status = .idle ∧ s.cores[k].cell.frozen = false ∧ s.cores[k].cell.raised = none) →
                w.aedty.suspended ≠ 0))))
    ∧ (∀ (s : State) (req : BitVec 512), req.extractLsb' 0 8 ≠ 0x30 →
      (s.aedty.suspending = true → exec (.suspend req) s = .next s.suspendNow)
        ∧ (s.aedty.suspending = false → (s.aedty.suspended ≠ 1 ∨ s.portsQuiet = false ∨ s.rampedDown = false) →
          exec (.suspend req) s = .next s)
        ∧ (s.aedty.suspending = false → s.aedty.suspended = 1 → s.portsQuiet = true → s.rampedDown = true →
          ∃ w : State, exec (.suspend req) s = .next w ∧ (∀ d : DieId, (w.die d).tlb = []) ∧ (∀ k : CoreId, w.cores[k].micro = [])
            ∧ w.aedty.suspended = (if s.aedty.resumeAsked then 0 else 2)
            ∧ w.aedty.suspcnt = (if s.aedty.resumeAsked then s.aedty.suspcnt + 1 else s.aedty.suspcnt)))
    ∧ ∀ (s : State) (req : BitVec 512), s.Holds req → s.mails req 0x31 = true →
      (s.aedty.suspended = 2 → ∃ w : State, exec (.resume req) s = .next w ∧ s.Answers w 0 ∧ w.aedty.suspended = 0
          ∧ w.aedty.suspcnt = s.aedty.suspcnt + 1 ∧ (∀ p : Fin 16, w.ports[p].qsc = false)
          ∧ (∀ d : DieId, (w.die d).images = (s.die d).images) ∧ w.mem = s.mem)
        ∧ ((s.aedty.suspended = 1 ∨ (s.aedty.suspended = 0 ∧ (s.aedty.suspending = true ∨ s.aedty.suspendAsked = true))) →
          ∃ w : State, exec (.resume req) s = .next w ∧ s.Answers w 0 ∧ w.aedty.resumeAsked = true
            ∧ w.aedty.suspended = s.aedty.suspended ∧ w.cores = s.cores)
        ∧ (s.aedty.suspended = 0 → s.aedty.suspending = false → s.aedty.suspendAsked = false →
          ∃ w : State, exec (.resume req) s = .next w ∧ s.Answers w 0 ∧ w.cores = s.cores ∧ w.aedty.suspcnt = s.aedty.suspcnt)

/-- R345, R365, R366, R367: the boot verifies the firmware, and with BOOTSRC = 0 the flash's images in manifest order: with all of them
sound it keeps their bytes, records every digest and issues one supervisor launch on each die, with SUPV 1 and PRIO 7; an image that
fails stops it with code 3 and its index. With BOOTSRC = 1 it waits for the host's images, which are taken in order.
R294, R295: an event of the operating envelope stops issue and is posted on each die; a patrol read poisons an uncorrectable granule.
The model's choices: what verifies and the digests are free functions of Config (log entry 14), and the reply to an image that does not
verify is a free status that is not 0 (log entry 16). -/
def Obligations.BootAndChecks : Prop :=
  (∀ s : State, s.aedty.phase = 0 → s.aedty.testen = false → s.bootFailed = false → ∃ w : State, exec .powerOnBoot s = .next w
      ∧ (Config.firmwareGood = false → w = s)
      ∧ (Config.firmwareGood = true → s.aedty.bootsrc = 1 → Config.manifest ≠ 0 → w.aedty.phase = 1 ∧ w.aedty.measure = [Config.firmwareDigest])
      ∧ (Config.firmwareGood = true → s.aedty.bootsrc ≠ 1 → (∀ i, i < Config.manifest → Config.verifyImage (Config.flashImage i) = true) →
        w.aedty.phase = 2 ∧ w.aedty.measure = Config.firmwareDigest :: (List.range Config.manifest).map (fun i => Config.sha512 (Config.flashImage i))
          ∧ w.aedty.loaded = s.aedty.loaded ++ (List.range Config.manifest).map Config.flashImage
          ∧ ∀ d : DieId, ∃ l, (w.die d).board = (s.die d).board ++ [l] ∧ recSupv l.record = true ∧ recPrio l.record = 7)
      ∧ (Config.firmwareGood = true → s.aedty.bootsrc ≠ 1 → ∀ i, i < Config.manifest → Config.verifyImage (Config.flashImage i) = false →
        (∀ j, j < i → Config.verifyImage (Config.flashImage j) = true) →
        w.aedty.phase = 0 ∧ w.aedty.mailStatus.toNat / 256 % 256 = 3 ∧ w.aedty.mailStatus.toNat % 256 = i % 256 ∧ w.dies = s.dies))
    ∧ (∀ s : State, s.aedty.testen = true → exec .powerOnBoot s = .next s)
    ∧ (∀ (s : State) (req : BitVec 512) (bs : List Byte), s.Holds req → s.aedty.phase = 1 → req.extractLsb' 0 8 = 0x50 →
      s.bootFailed = false → mailAddr req + mailSize req ≤ 2 ^ 48 →
      bs = s.peek .host (locPhys (0x1000000000000 + mailAddr req)) (mailSize req) →
      ∃ w : State, exec (.imageLoad req) s = .next w
        ∧ (Config.verifyImage bs = true → s.Answers w 0 ∧ w.aedty.measure = s.aedty.measure ++ [Config.sha512 bs]
          ∧ w.aedty.loaded = s.aedty.loaded ++ [bs]
          ∧ w.aedty.phase = if s.aedty.loaded.length + 1 = Config.manifest then 2 else 1)
        ∧ (Config.verifyImage bs = false → w.aedty.phase = 1 ∧ w.bootFailed = true ∧ w.aedty.loaded = s.aedty.loaded
          ∧ w.aedty.mailStatus.toNat % 256 = s.aedty.loaded.length % 256 ∧ ∃ r, r ≠ 0 ∧ s.Answers w r))
    ∧ (∀ s : State, s.aedty.phase = 2 → s.aedty.stopped = false → ∃ w : State, exec .envelopeEvent s = .next w ∧ w.aedty.stopped = true
      ∧ (∀ d : DieId, ∃ e, (w.die d).sevq = (s.die d).sevq ++ [e]) ∧ ∀ (k : CoreId) (e : Eng), (w.on k).canWalk e = false)
    ∧ ∀ (s : State) (x : Nat), exec (.patrolRead x true) s = .next s
      ∧ ∃ w : State, exec (.patrolRead x false) s = .next w ∧ x / 8 * 8 ∈ w.poison ∧ w.mem = s.mem
        ∧ ∀ g, g ≠ x / 8 * 8 → (g ∈ w.poison ↔ g ∈ s.poison)

/-! ## Accesses that become performed -/

/-- R244, R243: a pending store becomes performed at one scope more, and after the last scope its bytes stand in memory, but where a
later store of its granule's order covers them; a core's oldest load
is performed and delivers its data.
R110: the data of a run-ahead load arrives after that of every load before it, and fills the oldest entry that waits.
R288, R299: the oldest event that waits is written to the die's ring where there is room: after the entry stands TAIL, one higher, and
the die's vector is signalled; a dump ends with its domain's cells gone from every core and an event on each die. -/
def Obligations.EventsDumpsAccesses : Prop :=
  ((∀ (s : State) (k : Nat) (p : PStore), s.stores[k]? = some p →
      ((3 ≤ p.level → ∀ q ∈ s.peerStores, q.made p = false) →
        (p.level < 4 → ∃ w : State, exec (.accessPerformed (.store k)) s = .next w ∧ { p with level := p.level + 1 } ∈ w.stores
            ∧ w.mem = s.mem)
          ∧ (4 ≤ p.level → s.MemWf → ∃ w : State, exec (.accessPerformed (.store k)) s = .next w ∧ p ∉ w.stores
            ∧ (∀ i, i < p.bytes.length →
              (∀ j q, k < j → s.stores[j]? = some q → q.placed = true → p.loc + i < q.loc ∨ q.loc + q.bytes.length ≤ p.loc + i) →
              some (Memory.get w.mem (p.loc + i)) = p.bytes[i]?)
            ∧ ∀ x, (∀ q ∈ s.stores, q.placed = true → granule q.loc = granule p.loc → x < q.loc ∨ q.loc + q.bytes.length ≤ x) →
              Memory.get w.mem x = Memory.get s.mem x))
        ∧ (3 ≤ p.level → (∃ q ∈ s.peerStores, q.made p = true) → exec (.accessPerformed (.store k)) s = .next s))
    ∧ (∀ (s t : State) (k : CoreId) (l : Load) (rest : List Load) (v : Word), (s.on k).working = true → (s.on k).cell.raised = none →
      (s.on k).flight.loads = l :: rest → (s.on k).loadValue l = .ok (v, t) →
      ∃ u : State, exec (.accessPerformed (.load k)) s = .next u ∧ u.flight.loads = rest
        ∧ (∀ r, l.dst = .reg r → ∀ i, u.x i = if i = r ∧ r ≠ 0 then v else (s.on k).x i)
        ∧ (∀ q, l.dst = .slot q → exec (.ldqDataArrival k 0) s = .next u ∧ u.roll.q[q] = fillSlot v (s.on k).roll.q[q]))
    ∧ (∀ (s : State) (l : Load) (bs : List Byte), l.got = none → l.rmw = none → s.loadBytes .A l.addr l.loc l.n = .ok bs →
      s.loadValue l = .ok (extended l.signed l.n bs, (s.peerReceipt .A l.loc).touched l.loc l.n))
    ∧ (∀ (s : State) (k : CoreId), s.cores[k].cell.frozen = true → s.cores[k].cell.flight.loads ≠ [] →
      exec (.accessPerformed (.load k)) s = .next (s.on k).holdLoads)
    ∧ (∀ (s u : State) (k : CoreId) (j : Nat) (l : Load) (q : Fin 16), (s.on k).working = true → (s.on k).cell.raised = none →
      (s.on k).flight.loads[j]? = some l → l.dst = .slot q → (s.on k).performLoads (j + 1) = .ok u →
      exec (.ldqDataArrival k j) s = .next u ∧ u.flight.loads = (s.on k).flight.loads.drop (j + 1))
    ∧ ∀ (v : Word) (pre post : List QEntry) (e : QEntry), (∀ x ∈ pre, x.arrived = true) → e.arrived = false →
      fillSlot v (pre ++ e :: post) = pre ++ { e with value := v, arrived := true } :: post)
    ∧ ((∀ (d : DieId) (s : State) (e : SupEvent) (rest : List SupEvent) (base tail : Nat), (s.die d).sevq = e :: rest → s.MemWf →
    base = locShared (s.die d).sevBase.toNat → tail = leNat (s.peek (.die d) base 8) → (s.die d).sevSize ≠ 0 →
    (tail + 2 ^ 64 - leNat (s.peek (.die d) (base + 8) 8)) % 2 ^ 64 ≠ (s.die d).sevSize.toNat →
    ∃ w : State, exec (.supervisorEventPost d) s = .next w ∧ (w.die d).sevq = rest ∧ w.aedty.msix = s.aedty.msix ++ [d.val]
      ∧ w.peek (.die d) base 8 = leBytes 8 (tail + 1)
      ∧ w.peek (.die d) (base + 128 * (1 + tail % (s.die d).sevSize.toNat)) 128 = recordBytes e.head ++ recordBytes e.record)
    ∧ ∀ (s : State) (d : Dump) (rest : List Dump), s.aedty.dumps = d :: rest → s.aedty.suspendAsked = false →
      s.aedty.suspending = false →
      ∃ w : State, exec .dump s = .next w ∧ w.aedty.dumps = rest
        ∧ (∀ x : DieId, (w.die x).sevq = (s.die x).sevq ++ [dumpEvent x d])
        ∧ ∀ k : CoreId, w.cores[k].cell.status = .idle ∨ w.cores[k].cell.ident.domain ≠ d.domain)
/-! ## Encoding, fetching and the whole machine -/

/-- R22, R27-R36, R38-R42, R49-R56: words written out from the tables of spec/03 decode to the instructions they stand for:
at least one of each engine, a prefix chain and a patch word. -/
def Obligations.DecodeWords : Prop :=
  decodeHost [] 0x00005103 = .ok (.add 0 (.x 5) (.x 4) (.x 3))
    ∧ decodeHost [] 0x00A0513F = .ok (.addImm 0 (.x 5) (.x 4) 0xFFFFFFFFFFFFFFFF)
    ∧ decodeHost [1] 0x00A05100 = .ok (.addImm 0 (.x 5) (.x 4) 64)
    ∧ decodeHost [] 0x00E05002 = .ok (.beq 0 (.x 5) 2)
    ∧ decodeHost [] 0x0B040000 = .ok (.nop 5)
    ∧ decodeHost [] 0x010C0005 = .ok (.trap 0 5)
    ∧ decodeHost [] 0x01282140 = .ok (.srd 0 (.x 2) 0x140)
    ∧ decodeHost [] 0x016C3108 = .ok (.stN64 0 (.x 3) (.x 4) 8)
    ∧ decodeHost [] 0x018A2100 = .ok (.ldqN32 0 2 (.x 4) 0)
    ∧ decodeHost [] 0x01A05103 = .ok (.amoAdd 0 (.x 5) (.x 4) (.x 3))
    ∧ decodeHost [] 0x01E00102 = .ok (.pub 0 (.x 4) 2)
    ∧ decodeHost [] 0x01F05100 = .ok (.lnch 0 (.x 5) (.x 4))
    ∧ decodeHost [] 0x20001083 = .ok (.cCopy 0 (.direct (.pop 1) (.pop 2) 3))
    ∧ decodeHost [] 0x40001002 = .ok (.mLvl 0 1 2)
    ∧ decodeHost [] 0x404C5080 = .ok (.mMma 0 3 (.direct 5 2))
    ∧ decodeHost [] 0x604048C0 = .ok (.vAdd 0 1 2 3 ⟨.f32, .rne, false⟩)
    ∧ decodeHost [] 0x60104085 = .ok (.vLd 0 1 (.win 2) 5)
    ∧ decodeHost [] 0x61004809 = .ok (.vCvt 0 1 2 .f32 .bf16 .rtz false)
    ∧ decodeHost [] 0x802848C0 = .ok (.fMul 0 1 2 3)
    ∧ decodeHost [] 0xAC721234 = .ok (.patchWord .V 7 2 0x1234)

/-- R22, R38-R56: for every well-formed instruction with a direct form, decoding the bytes of its words gives it back, with every
operand at every value, whatever bytes follow; for every well-formed instruction with a template form, decoding its image gives it
back (R43, R46, R152, R207, R343). -/
def Obligations.EncodeDecode : Prop :=
  (∀ (i : Instr) (ws : List W32) (rest : List Byte), WellFormed i → encode i = some ws →
      decode (ws.flatMap bytesOf ++ rest) = .ok (i, rest))
    ∧ ∀ (i : Instr) (e : Eng) (img : BitVec 256), WellFormed i → encodeImage i = some (e, img) → decodeImage e img = .ok i

/-- R37, R57: what decodes is well formed, and no bit of a word without prefixes or of an image is read without meaning: the encoder
gives the very word and the very image back. -/
def Obligations.DecodeEncode : Prop :=
  (∀ (exts : List (BitVec 29)) (w : W32) (i : Instr), decodeHost exts w = .ok i → WellFormed i)
    ∧ (∀ (w : W32) (i : Instr), decodeHost [] w = .ok i → encode i = some [w])
    ∧ ∀ (e : Eng) (img : BitVec 256) (i : Instr), decodeImage e img = .ok i → WellFormed i ∧ encodeImage i = some (e, img)

/-- R22, R24, R39, R40, R41, R93: an engine that may walk, owes no post, is not held and is inside its slip window reads the word at its
PC. A prefix is a word of its walk, and its value waits for the word that it extends. The engine executes the instruction that its
prefixes and the word decode to when the word is its own, or steers or holds every engine; it passes over another engine's word; and its
own word that decodes to no instruction is the illegal-encoding fault. The words are the little-endian bytes of the text, and decoding a
chain is decoding its bytes (fetching from memory as it stands: log entry 26). An event of the agenda is executed; with an empty agenda background work goes first, then the engine in
focus walks (log entry 3: the agenda and the default order are the model's choice). R303, R307, R313: the throttle, and a boundary of the
samples or of the 4,096-cycle counter, come first where they are due. -/
def Obligations.StepRunsDecoded : Prop :=
  (∀ (s u t : State) (m : Move) (rest : List Move) (k : CoreId) (e : Eng) (defer : Bool) (w : W32),
      s.agenda = m :: rest → m.act = .walk k e defer → ¬ (s.aedty.phase = 2 ∧ s.ceilingMet = true) →
      s.boundary (s.now + m.dt) = none → u = (s.looks rest m.dt k e defer).payOwed e →
      (s.looks rest m.dt k e defer).canWalk e = true → (s.looks rest m.dt k e defer).cell.owed = none →
      (e = .C → (s.looks rest m.dt k e defer).cell.startLeft = []) →
      (u.run e).owed = [] → u.throttled e = false → u.slipOk e = true → u.fetchWord e (u.hostPc e) = .ok (w, t) →
      (isPrefix w = true → step s = .next (t.walkPrefix e w))
        ∧ (isPrefix w = false →
          ((e = ownerOf w ∨ steerOf w ≠ .no) → ∀ i, decodeHost (t.path e).exts w = .ok i → step s = exec i t)
            ∧ (e ≠ ownerOf w → steerOf w = .no → step s = .next (t.passOver e))
            ∧ (e = ownerOf w → ∀ x, decodeHost (t.path e).exts w = .error x → step s = .next (t.fault e (Flt.mk' .illegal 0)))))
    ∧ (∀ (s : State) (e : Eng) (w : W32), ((s.walkPrefix e w).path e).exts = (s.path e).exts ++ [extOf w]
      ∧ s.Passed (s.walkPrefix e w) e ∧ ((s.walkPrefix e w).path e).pc = (s.path e).pc)
    ∧ (∀ (s t : State) (e : Eng) (pc : Word) (x : Nat), s.cell.ident.entry.toNat ≤ pc.toNat →
      pc.toNat < s.cell.ident.entry.toNat + 4 * s.cell.ident.textlen → pc.toNat % 4 = 0 →
      s.translate (some s.cur.core) s.dieId s.domain pc .fetch = .ok (x, t) → t.badAt (t.obs e pc) t.me x 4 = none →
      s.fetchWord e pc = .ok (wordOf ((t.readAt (t.obs e pc) t.me x 4).getD 0 0) ((t.readAt (t.obs e pc) t.me x 4).getD 1 0)
        ((t.readAt (t.obs e pc) t.me x 4).getD 2 0) ((t.readAt (t.obs e pc) t.me x 4).getD 3 0), t))
    ∧ (∀ (exts : List (BitVec 29)) (w : W32) (i : Instr), isPrefix w = false →
      (decode ((exts.map mkPrefix ++ [w]).flatMap bytesOf) = .ok (i, []) ↔ decodeHost exts w = .ok i))
    ∧ (∀ (s : State) (m : Move) (rest : List Move) (i : Instr), s.agenda = m :: rest → m.act = .event i → isEvent i = true →
      ¬ (s.aedty.phase = 2 ∧ s.ceilingMet = true) → s.boundary (s.now + m.dt) = none →
      step s = exec i (({ s with agenda := rest } : State).elapse (s.now + m.dt)))
    ∧ (∀ (s : State) (f : Event), s.agenda = [] → ¬ (s.aedty.phase = 2 ∧ s.ceilingMet = true) → s.boundary (s.now + 1) = none →
      (s.elapse (s.now + 1)).background = some f → step s = f (s.elapse (s.now + 1)))
    ∧ (∀ s : State, s.agenda = [] → ¬ (s.aedty.phase = 2 ∧ s.ceilingMet = true) → s.boundary (s.now + 1) = none →
      (s.elapse (s.now + 1)).background = none →
      step s = walk { s.elapse (s.now + 1) with focus := (s.elapse (s.now + 1)).nextFocus s.focus } s.focus.1 s.focus.2 false)
    ∧ (∀ (s : State) (f : Event) (t : Nat), ¬ (s.aedty.phase = 2 ∧ s.ceilingMet = true) → s.boundary (s.now + s.nextDt) = some (f, t) →
      step s = f (s.passTo t))
    ∧ ∀ s : State, s.aedty.phase = 2 → s.ceilingMet = true → step s = exec .throttleHold s

/-- What the spec says of reset and of a cell's start. R325: SLICE is 2,000 and AGESTEP 1,000; R314: PINWAIT is 20, the window limits
60/60, 1,500/1,500 and 2,400/2,400, ESTATIC 72,400 and HBMACT 4,096; R312: the class weights; R354: a chronograph that has counted
nothing has COUNT 0 and MIN all ones. R88: a cell starts with every PC at its entry and every register, queue, FIFO, template and
tile empty or zero. R93, R125, R137, R187, R220, R268, R285: SLIPW, QSTALL, CQQUOTA, SMTHETA, FTOL, FMAXLEN, the context registers and
TRAPVEC. No cell runs at reset and memory reads 0 (log entry 1: the model's choice). -/
def Obligations.ResetValues : Prop :=
  (∀ d : DieId, State.reset.dies[d].slice = 2000 ∧ State.reset.dies[d].agestep = 1000 ∧ State.reset.dies[d].pinwait = 20
      ∧ State.reset.dies[d].pinUse = 20 ∧ State.reset.dies[d].board = []
      ∧ ∀ i : Fin 16, State.reset.dies[d].chrono[i].count = 0 ∧ State.reset.dies[d].chrono[i].min = 0xFFFFFFFFFFFFFFFF)
    ∧ State.reset.gov.use = State.reset.gov.set ∧ State.reset.gov.use.rlimus = 60 * 65536 + 60
    ∧ State.reset.gov.use.rlimms = 1500 * 65536 + 1500 ∧ State.reset.gov.use.rlims = 2400 * 65536 + 2400
    ∧ State.reset.gov.use.estatic = 72400 ∧ State.reset.gov.use.hbmact = 4096
    ∧ ([2, 4, 6, 8, 12, 52, 4, 16, 24, 40, 20, 32, 1, 4, 3, 20] : List Nat)
        = (List.range 16).map (fun c => (State.reset.gov.use.eweight[c / 4]!.toNat / 65536 ^ (c % 4)) % 65536)
    ∧ (∀ k : CoreId, State.reset.cores[k].cell.status = .idle) ∧ (∀ x, Memory.get State.reset.mem x = 0)
    ∧ ∀ (st : Status) (id : Ident) (now : Nat),
      (∀ e, (Cell.start st id now).roll.paths.get e = Path.at_ id.entry) ∧ (∀ r : Fin 32, (Cell.start st id now).roll.x[r] = 0)
        ∧ (∀ q : Fin 16, (Cell.start st id now).roll.q[q] = []) ∧ (∀ j : Fin 10, (Cell.start st id now).roll.tok[j] = [])
        ∧ (∀ v : Fin 16, (Cell.start st id now).roll.v[v] = Tile.zero) ∧ (∀ v : Fin 64, (Cell.start st id now).acc[v] = Tile.zero)
        ∧ (∀ f : Fin 16, (Cell.start st id now).roll.f[f] = FReg.empty) ∧ (∀ e (n : Fin 64), ((Cell.start st id now).tmpl.get e)[n] = none)
        ∧ (Cell.start st id now).misc.slipw = 2048 ∧ (Cell.start st id now).misc.qstall = 4096
        ∧ (Cell.start st id now).misc.cqquota = 64 ∧ (Cell.start st id now).misc.smtheta = 0x3E000000
        ∧ (Cell.start st id now).misc.ftol = 0x3D70000000000000 ∧ (Cell.start st id now).misc.fmaxlen = 1024
        ∧ (Cell.start st id now).ctx = ⟨3, 0, false, false, 0, 0, 0, 0, 0⟩ ∧ (Cell.start st id now).traps.vec = 0x1F1AFFF

/-- Memory keeps its canonical form: addresses strictly rising and no entry equal to what an unlisted address reads as. Reset has the
form, and the operations over memory keep it. -/
def Obligations.MemoryForm : Prop :=
  State.reset.MemWf
    ∧ (∀ (m : List Host.Cell) (x : Nat) (bs : List Byte), Memory.wf m = true → Memory.wf (Memory.putList m x bs) = true
      ∧ (∀ i, i < bs.length → Memory.get (Memory.putList m x bs) (x + i) = bs.getD i 0)
      ∧ ∀ y, y < x ∨ x + bs.length ≤ y → Memory.get (Memory.putList m x bs) y = Memory.get m y)
    ∧ ∀ (m m' : List Host.Cell), Memory.wf m = true → Memory.wf m' = true → (∀ x, Memory.get m x = Memory.get m' x) → m = m'

/-- Every step keeps the canonical form of memory, from every state that has it. -/
def Obligations.StepKeepsMemWf : Prop :=
  ∀ s t : State, s.MemWf → step s = .next t → t.MemWf
end

