-- ==== Sys2Proof/Laws/State.lean ====
section
/-! SUPPORT. What each update of the state leaves alone, field by field, and what reading gives after it. -/

namespace Sys2Proof.Machine

/-! ## on -/

@[simp] theorem State.on_cores (s : State) (k : CoreId) : (s.on k).cores = s.cores := rfl
@[simp] theorem State.on_dies (s : State) (k : CoreId) : (s.on k).dies = s.dies := rfl
@[simp] theorem State.on_mem (s : State) (k : CoreId) : (s.on k).mem = s.mem := rfl
@[simp] theorem State.on_poison (s : State) (k : CoreId) : (s.on k).poison = s.poison := rfl
@[simp] theorem State.on_stores (s : State) (k : CoreId) : (s.on k).stores = s.stores := rfl
@[simp] theorem State.on_pubs (s : State) (k : CoreId) : (s.on k).pubs = s.pubs := rfl
@[simp] theorem State.on_segs (s : State) (k : CoreId) : (s.on k).segs = s.segs := rfl
@[simp] theorem State.on_watch (s : State) (k : CoreId) : (s.on k).watch = s.watch := rfl
@[simp] theorem State.on_gov (s : State) (k : CoreId) : (s.on k).gov = s.gov := rfl
@[simp] theorem State.on_ports (s : State) (k : CoreId) : (s.on k).ports = s.ports := rfl
@[simp] theorem State.on_packets (s : State) (k : CoreId) : (s.on k).packets = s.packets := rfl
@[simp] theorem State.on_peerStores (s : State) (k : CoreId) : (s.on k).peerStores = s.peerStores := rfl
@[simp] theorem State.on_draining (s : State) (k : CoreId) : (s.on k).draining = s.draining := rfl
@[simp] theorem State.on_aedty (s : State) (k : CoreId) : (s.on k).aedty = s.aedty := rfl
@[simp] theorem State.on_cmdOwners (s : State) (k : CoreId) : (s.on k).cmdOwners = s.cmdOwners := rfl
@[simp] theorem State.on_barBeats (s : State) (k : CoreId) : (s.on k).barBeats = s.barBeats := rfl
@[simp] theorem State.on_now (s : State) (k : CoreId) : (s.on k).now = s.now := rfl
@[simp] theorem State.on_agenda (s : State) (k : CoreId) : (s.on k).agenda = s.agenda := rfl
@[simp] theorem State.on_focus (s : State) (k : CoreId) : (s.on k).focus = s.focus := rfl
@[simp] theorem State.on_freeCtr (s : State) (k : CoreId) : (s.on k).freeCtr = s.freeCtr := rfl
@[simp] theorem State.on_nextSerial (s : State) (k : CoreId) : (s.on k).nextSerial = s.nextSerial := rfl

/-! ## setCore -/

@[simp] theorem State.setCore_dies (s : State) (c : Core) : (s.setCore c).dies = s.dies := rfl
@[simp] theorem State.setCore_mem (s : State) (c : Core) : (s.setCore c).mem = s.mem := rfl
@[simp] theorem State.setCore_poison (s : State) (c : Core) : (s.setCore c).poison = s.poison := rfl
@[simp] theorem State.setCore_stores (s : State) (c : Core) : (s.setCore c).stores = s.stores := rfl
@[simp] theorem State.setCore_pubs (s : State) (c : Core) : (s.setCore c).pubs = s.pubs := rfl
@[simp] theorem State.setCore_segs (s : State) (c : Core) : (s.setCore c).segs = s.segs := rfl
@[simp] theorem State.setCore_watch (s : State) (c : Core) : (s.setCore c).watch = s.watch := rfl
@[simp] theorem State.setCore_gov (s : State) (c : Core) : (s.setCore c).gov = s.gov := rfl
@[simp] theorem State.setCore_ports (s : State) (c : Core) : (s.setCore c).ports = s.ports := rfl
@[simp] theorem State.setCore_packets (s : State) (c : Core) : (s.setCore c).packets = s.packets := rfl
@[simp] theorem State.setCore_peerStores (s : State) (c : Core) : (s.setCore c).peerStores = s.peerStores := rfl
@[simp] theorem State.setCore_draining (s : State) (c : Core) : (s.setCore c).draining = s.draining := rfl
@[simp] theorem State.setCore_aedty (s : State) (c : Core) : (s.setCore c).aedty = s.aedty := rfl
@[simp] theorem State.setCore_cmdOwners (s : State) (c : Core) : (s.setCore c).cmdOwners = s.cmdOwners := rfl
@[simp] theorem State.setCore_barBeats (s : State) (c : Core) : (s.setCore c).barBeats = s.barBeats := rfl
@[simp] theorem State.setCore_now (s : State) (c : Core) : (s.setCore c).now = s.now := rfl
@[simp] theorem State.setCore_agenda (s : State) (c : Core) : (s.setCore c).agenda = s.agenda := rfl
@[simp] theorem State.setCore_focus (s : State) (c : Core) : (s.setCore c).focus = s.focus := rfl
@[simp] theorem State.setCore_cur (s : State) (c : Core) : (s.setCore c).cur = s.cur := rfl
@[simp] theorem State.setCore_freeCtr (s : State) (c : Core) : (s.setCore c).freeCtr = s.freeCtr := rfl
@[simp] theorem State.setCore_nextSerial (s : State) (c : Core) : (s.setCore c).nextSerial = s.nextSerial := rfl

/-! ## setCell -/

@[simp] theorem State.setCell_dies (s : State) (c : Cell) : (s.setCell c).dies = s.dies := rfl
@[simp] theorem State.setCell_mem (s : State) (c : Cell) : (s.setCell c).mem = s.mem := rfl
@[simp] theorem State.setCell_poison (s : State) (c : Cell) : (s.setCell c).poison = s.poison := rfl
@[simp] theorem State.setCell_stores (s : State) (c : Cell) : (s.setCell c).stores = s.stores := rfl
@[simp] theorem State.setCell_pubs (s : State) (c : Cell) : (s.setCell c).pubs = s.pubs := rfl
@[simp] theorem State.setCell_segs (s : State) (c : Cell) : (s.setCell c).segs = s.segs := rfl
@[simp] theorem State.setCell_watch (s : State) (c : Cell) : (s.setCell c).watch = s.watch := rfl
@[simp] theorem State.setCell_gov (s : State) (c : Cell) : (s.setCell c).gov = s.gov := rfl
@[simp] theorem State.setCell_ports (s : State) (c : Cell) : (s.setCell c).ports = s.ports := rfl
@[simp] theorem State.setCell_packets (s : State) (c : Cell) : (s.setCell c).packets = s.packets := rfl
@[simp] theorem State.setCell_peerStores (s : State) (c : Cell) : (s.setCell c).peerStores = s.peerStores := rfl
@[simp] theorem State.setCell_draining (s : State) (c : Cell) : (s.setCell c).draining = s.draining := rfl
@[simp] theorem State.setCell_aedty (s : State) (c : Cell) : (s.setCell c).aedty = s.aedty := rfl
@[simp] theorem State.setCell_cmdOwners (s : State) (c : Cell) : (s.setCell c).cmdOwners = s.cmdOwners := rfl
@[simp] theorem State.setCell_barBeats (s : State) (c : Cell) : (s.setCell c).barBeats = s.barBeats := rfl
@[simp] theorem State.setCell_now (s : State) (c : Cell) : (s.setCell c).now = s.now := rfl
@[simp] theorem State.setCell_agenda (s : State) (c : Cell) : (s.setCell c).agenda = s.agenda := rfl
@[simp] theorem State.setCell_focus (s : State) (c : Cell) : (s.setCell c).focus = s.focus := rfl
@[simp] theorem State.setCell_cur (s : State) (c : Cell) : (s.setCell c).cur = s.cur := rfl
@[simp] theorem State.setCell_freeCtr (s : State) (c : Cell) : (s.setCell c).freeCtr = s.freeCtr := rfl
@[simp] theorem State.setCell_nextSerial (s : State) (c : Cell) : (s.setCell c).nextSerial = s.nextSerial := rfl

/-! ## setRoll -/

@[simp] theorem State.setRoll_dies (s : State) (r : Roll) : (s.setRoll r).dies = s.dies := rfl
@[simp] theorem State.setRoll_mem (s : State) (r : Roll) : (s.setRoll r).mem = s.mem := rfl
@[simp] theorem State.setRoll_poison (s : State) (r : Roll) : (s.setRoll r).poison = s.poison := rfl
@[simp] theorem State.setRoll_stores (s : State) (r : Roll) : (s.setRoll r).stores = s.stores := rfl
@[simp] theorem State.setRoll_pubs (s : State) (r : Roll) : (s.setRoll r).pubs = s.pubs := rfl
@[simp] theorem State.setRoll_segs (s : State) (r : Roll) : (s.setRoll r).segs = s.segs := rfl
@[simp] theorem State.setRoll_watch (s : State) (r : Roll) : (s.setRoll r).watch = s.watch := rfl
@[simp] theorem State.setRoll_gov (s : State) (r : Roll) : (s.setRoll r).gov = s.gov := rfl
@[simp] theorem State.setRoll_ports (s : State) (r : Roll) : (s.setRoll r).ports = s.ports := rfl
@[simp] theorem State.setRoll_packets (s : State) (r : Roll) : (s.setRoll r).packets = s.packets := rfl
@[simp] theorem State.setRoll_peerStores (s : State) (r : Roll) : (s.setRoll r).peerStores = s.peerStores := rfl
@[simp] theorem State.setRoll_draining (s : State) (r : Roll) : (s.setRoll r).draining = s.draining := rfl
@[simp] theorem State.setRoll_aedty (s : State) (r : Roll) : (s.setRoll r).aedty = s.aedty := rfl
@[simp] theorem State.setRoll_cmdOwners (s : State) (r : Roll) : (s.setRoll r).cmdOwners = s.cmdOwners := rfl
@[simp] theorem State.setRoll_barBeats (s : State) (r : Roll) : (s.setRoll r).barBeats = s.barBeats := rfl
@[simp] theorem State.setRoll_now (s : State) (r : Roll) : (s.setRoll r).now = s.now := rfl
@[simp] theorem State.setRoll_agenda (s : State) (r : Roll) : (s.setRoll r).agenda = s.agenda := rfl
@[simp] theorem State.setRoll_focus (s : State) (r : Roll) : (s.setRoll r).focus = s.focus := rfl
@[simp] theorem State.setRoll_cur (s : State) (r : Roll) : (s.setRoll r).cur = s.cur := rfl
@[simp] theorem State.setRoll_freeCtr (s : State) (r : Roll) : (s.setRoll r).freeCtr = s.freeCtr := rfl
@[simp] theorem State.setRoll_nextSerial (s : State) (r : Roll) : (s.setRoll r).nextSerial = s.nextSerial := rfl

/-! ## setRun -/

@[simp] theorem State.setRun_dies (s : State) (e : Eng) (r : EngRun) : (s.setRun e r).dies = s.dies := rfl
@[simp] theorem State.setRun_mem (s : State) (e : Eng) (r : EngRun) : (s.setRun e r).mem = s.mem := rfl
@[simp] theorem State.setRun_poison (s : State) (e : Eng) (r : EngRun) : (s.setRun e r).poison = s.poison := rfl
@[simp] theorem State.setRun_stores (s : State) (e : Eng) (r : EngRun) : (s.setRun e r).stores = s.stores := rfl
@[simp] theorem State.setRun_pubs (s : State) (e : Eng) (r : EngRun) : (s.setRun e r).pubs = s.pubs := rfl
@[simp] theorem State.setRun_segs (s : State) (e : Eng) (r : EngRun) : (s.setRun e r).segs = s.segs := rfl
@[simp] theorem State.setRun_watch (s : State) (e : Eng) (r : EngRun) : (s.setRun e r).watch = s.watch := rfl
@[simp] theorem State.setRun_gov (s : State) (e : Eng) (r : EngRun) : (s.setRun e r).gov = s.gov := rfl
@[simp] theorem State.setRun_ports (s : State) (e : Eng) (r : EngRun) : (s.setRun e r).ports = s.ports := rfl
@[simp] theorem State.setRun_packets (s : State) (e : Eng) (r : EngRun) : (s.setRun e r).packets = s.packets := rfl
@[simp] theorem State.setRun_peerStores (s : State) (e : Eng) (r : EngRun) : (s.setRun e r).peerStores = s.peerStores := rfl
@[simp] theorem State.setRun_draining (s : State) (e : Eng) (r : EngRun) : (s.setRun e r).draining = s.draining := rfl
@[simp] theorem State.setRun_aedty (s : State) (e : Eng) (r : EngRun) : (s.setRun e r).aedty = s.aedty := rfl
@[simp] theorem State.setRun_cmdOwners (s : State) (e : Eng) (r : EngRun) : (s.setRun e r).cmdOwners = s.cmdOwners := rfl
@[simp] theorem State.setRun_barBeats (s : State) (e : Eng) (r : EngRun) : (s.setRun e r).barBeats = s.barBeats := rfl
@[simp] theorem State.setRun_now (s : State) (e : Eng) (r : EngRun) : (s.setRun e r).now = s.now := rfl
@[simp] theorem State.setRun_agenda (s : State) (e : Eng) (r : EngRun) : (s.setRun e r).agenda = s.agenda := rfl
@[simp] theorem State.setRun_focus (s : State) (e : Eng) (r : EngRun) : (s.setRun e r).focus = s.focus := rfl
@[simp] theorem State.setRun_cur (s : State) (e : Eng) (r : EngRun) : (s.setRun e r).cur = s.cur := rfl
@[simp] theorem State.setRun_freeCtr (s : State) (e : Eng) (r : EngRun) : (s.setRun e r).freeCtr = s.freeCtr := rfl
@[simp] theorem State.setRun_nextSerial (s : State) (e : Eng) (r : EngRun) : (s.setRun e r).nextSerial = s.nextSerial := rfl

/-! ## setPath -/

@[simp] theorem State.setPath_dies (s : State) (e : Eng) (p : Path) : (s.setPath e p).dies = s.dies := rfl
@[simp] theorem State.setPath_mem (s : State) (e : Eng) (p : Path) : (s.setPath e p).mem = s.mem := rfl
@[simp] theorem State.setPath_poison (s : State) (e : Eng) (p : Path) : (s.setPath e p).poison = s.poison := rfl
@[simp] theorem State.setPath_stores (s : State) (e : Eng) (p : Path) : (s.setPath e p).stores = s.stores := rfl
@[simp] theorem State.setPath_pubs (s : State) (e : Eng) (p : Path) : (s.setPath e p).pubs = s.pubs := rfl
@[simp] theorem State.setPath_segs (s : State) (e : Eng) (p : Path) : (s.setPath e p).segs = s.segs := rfl
@[simp] theorem State.setPath_watch (s : State) (e : Eng) (p : Path) : (s.setPath e p).watch = s.watch := rfl
@[simp] theorem State.setPath_gov (s : State) (e : Eng) (p : Path) : (s.setPath e p).gov = s.gov := rfl
@[simp] theorem State.setPath_ports (s : State) (e : Eng) (p : Path) : (s.setPath e p).ports = s.ports := rfl
@[simp] theorem State.setPath_packets (s : State) (e : Eng) (p : Path) : (s.setPath e p).packets = s.packets := rfl
@[simp] theorem State.setPath_peerStores (s : State) (e : Eng) (p : Path) : (s.setPath e p).peerStores = s.peerStores := rfl
@[simp] theorem State.setPath_draining (s : State) (e : Eng) (p : Path) : (s.setPath e p).draining = s.draining := rfl
@[simp] theorem State.setPath_aedty (s : State) (e : Eng) (p : Path) : (s.setPath e p).aedty = s.aedty := rfl
@[simp] theorem State.setPath_cmdOwners (s : State) (e : Eng) (p : Path) : (s.setPath e p).cmdOwners = s.cmdOwners := rfl
@[simp] theorem State.setPath_barBeats (s : State) (e : Eng) (p : Path) : (s.setPath e p).barBeats = s.barBeats := rfl
@[simp] theorem State.setPath_now (s : State) (e : Eng) (p : Path) : (s.setPath e p).now = s.now := rfl
@[simp] theorem State.setPath_agenda (s : State) (e : Eng) (p : Path) : (s.setPath e p).agenda = s.agenda := rfl
@[simp] theorem State.setPath_focus (s : State) (e : Eng) (p : Path) : (s.setPath e p).focus = s.focus := rfl
@[simp] theorem State.setPath_cur (s : State) (e : Eng) (p : Path) : (s.setPath e p).cur = s.cur := rfl
@[simp] theorem State.setPath_freeCtr (s : State) (e : Eng) (p : Path) : (s.setPath e p).freeCtr = s.freeCtr := rfl
@[simp] theorem State.setPath_nextSerial (s : State) (e : Eng) (p : Path) : (s.setPath e p).nextSerial = s.nextSerial := rfl

/-! ## setFlight -/

@[simp] theorem State.setFlight_dies (s : State) (f : Flight) : (s.setFlight f).dies = s.dies := rfl
@[simp] theorem State.setFlight_mem (s : State) (f : Flight) : (s.setFlight f).mem = s.mem := rfl
@[simp] theorem State.setFlight_poison (s : State) (f : Flight) : (s.setFlight f).poison = s.poison := rfl
@[simp] theorem State.setFlight_stores (s : State) (f : Flight) : (s.setFlight f).stores = s.stores := rfl
@[simp] theorem State.setFlight_pubs (s : State) (f : Flight) : (s.setFlight f).pubs = s.pubs := rfl
@[simp] theorem State.setFlight_segs (s : State) (f : Flight) : (s.setFlight f).segs = s.segs := rfl
@[simp] theorem State.setFlight_watch (s : State) (f : Flight) : (s.setFlight f).watch = s.watch := rfl
@[simp] theorem State.setFlight_gov (s : State) (f : Flight) : (s.setFlight f).gov = s.gov := rfl
@[simp] theorem State.setFlight_ports (s : State) (f : Flight) : (s.setFlight f).ports = s.ports := rfl
@[simp] theorem State.setFlight_packets (s : State) (f : Flight) : (s.setFlight f).packets = s.packets := rfl
@[simp] theorem State.setFlight_peerStores (s : State) (f : Flight) : (s.setFlight f).peerStores = s.peerStores := rfl
@[simp] theorem State.setFlight_draining (s : State) (f : Flight) : (s.setFlight f).draining = s.draining := rfl
@[simp] theorem State.setFlight_aedty (s : State) (f : Flight) : (s.setFlight f).aedty = s.aedty := rfl
@[simp] theorem State.setFlight_cmdOwners (s : State) (f : Flight) : (s.setFlight f).cmdOwners = s.cmdOwners := rfl
@[simp] theorem State.setFlight_barBeats (s : State) (f : Flight) : (s.setFlight f).barBeats = s.barBeats := rfl
@[simp] theorem State.setFlight_now (s : State) (f : Flight) : (s.setFlight f).now = s.now := rfl
@[simp] theorem State.setFlight_agenda (s : State) (f : Flight) : (s.setFlight f).agenda = s.agenda := rfl
@[simp] theorem State.setFlight_focus (s : State) (f : Flight) : (s.setFlight f).focus = s.focus := rfl
@[simp] theorem State.setFlight_cur (s : State) (f : Flight) : (s.setFlight f).cur = s.cur := rfl
@[simp] theorem State.setFlight_freeCtr (s : State) (f : Flight) : (s.setFlight f).freeCtr = s.freeCtr := rfl
@[simp] theorem State.setFlight_nextSerial (s : State) (f : Flight) : (s.setFlight f).nextSerial = s.nextSerial := rfl

/-! ## setMisc -/

@[simp] theorem State.setMisc_dies (s : State) (m : Misc) : (s.setMisc m).dies = s.dies := rfl
@[simp] theorem State.setMisc_mem (s : State) (m : Misc) : (s.setMisc m).mem = s.mem := rfl
@[simp] theorem State.setMisc_poison (s : State) (m : Misc) : (s.setMisc m).poison = s.poison := rfl
@[simp] theorem State.setMisc_stores (s : State) (m : Misc) : (s.setMisc m).stores = s.stores := rfl
@[simp] theorem State.setMisc_pubs (s : State) (m : Misc) : (s.setMisc m).pubs = s.pubs := rfl
@[simp] theorem State.setMisc_segs (s : State) (m : Misc) : (s.setMisc m).segs = s.segs := rfl
@[simp] theorem State.setMisc_watch (s : State) (m : Misc) : (s.setMisc m).watch = s.watch := rfl
@[simp] theorem State.setMisc_gov (s : State) (m : Misc) : (s.setMisc m).gov = s.gov := rfl
@[simp] theorem State.setMisc_ports (s : State) (m : Misc) : (s.setMisc m).ports = s.ports := rfl
@[simp] theorem State.setMisc_packets (s : State) (m : Misc) : (s.setMisc m).packets = s.packets := rfl
@[simp] theorem State.setMisc_peerStores (s : State) (m : Misc) : (s.setMisc m).peerStores = s.peerStores := rfl
@[simp] theorem State.setMisc_draining (s : State) (m : Misc) : (s.setMisc m).draining = s.draining := rfl
@[simp] theorem State.setMisc_aedty (s : State) (m : Misc) : (s.setMisc m).aedty = s.aedty := rfl
@[simp] theorem State.setMisc_cmdOwners (s : State) (m : Misc) : (s.setMisc m).cmdOwners = s.cmdOwners := rfl
@[simp] theorem State.setMisc_barBeats (s : State) (m : Misc) : (s.setMisc m).barBeats = s.barBeats := rfl
@[simp] theorem State.setMisc_now (s : State) (m : Misc) : (s.setMisc m).now = s.now := rfl
@[simp] theorem State.setMisc_agenda (s : State) (m : Misc) : (s.setMisc m).agenda = s.agenda := rfl
@[simp] theorem State.setMisc_focus (s : State) (m : Misc) : (s.setMisc m).focus = s.focus := rfl
@[simp] theorem State.setMisc_cur (s : State) (m : Misc) : (s.setMisc m).cur = s.cur := rfl
@[simp] theorem State.setMisc_freeCtr (s : State) (m : Misc) : (s.setMisc m).freeCtr = s.freeCtr := rfl
@[simp] theorem State.setMisc_nextSerial (s : State) (m : Misc) : (s.setMisc m).nextSerial = s.nextSerial := rfl

/-! ## setCtx -/

@[simp] theorem State.setCtx_dies (s : State) (c : Context) : (s.setCtx c).dies = s.dies := rfl
@[simp] theorem State.setCtx_mem (s : State) (c : Context) : (s.setCtx c).mem = s.mem := rfl
@[simp] theorem State.setCtx_poison (s : State) (c : Context) : (s.setCtx c).poison = s.poison := rfl
@[simp] theorem State.setCtx_stores (s : State) (c : Context) : (s.setCtx c).stores = s.stores := rfl
@[simp] theorem State.setCtx_pubs (s : State) (c : Context) : (s.setCtx c).pubs = s.pubs := rfl
@[simp] theorem State.setCtx_segs (s : State) (c : Context) : (s.setCtx c).segs = s.segs := rfl
@[simp] theorem State.setCtx_watch (s : State) (c : Context) : (s.setCtx c).watch = s.watch := rfl
@[simp] theorem State.setCtx_gov (s : State) (c : Context) : (s.setCtx c).gov = s.gov := rfl
@[simp] theorem State.setCtx_ports (s : State) (c : Context) : (s.setCtx c).ports = s.ports := rfl
@[simp] theorem State.setCtx_packets (s : State) (c : Context) : (s.setCtx c).packets = s.packets := rfl
@[simp] theorem State.setCtx_peerStores (s : State) (c : Context) : (s.setCtx c).peerStores = s.peerStores := rfl
@[simp] theorem State.setCtx_draining (s : State) (c : Context) : (s.setCtx c).draining = s.draining := rfl
@[simp] theorem State.setCtx_aedty (s : State) (c : Context) : (s.setCtx c).aedty = s.aedty := rfl
@[simp] theorem State.setCtx_cmdOwners (s : State) (c : Context) : (s.setCtx c).cmdOwners = s.cmdOwners := rfl
@[simp] theorem State.setCtx_barBeats (s : State) (c : Context) : (s.setCtx c).barBeats = s.barBeats := rfl
@[simp] theorem State.setCtx_now (s : State) (c : Context) : (s.setCtx c).now = s.now := rfl
@[simp] theorem State.setCtx_agenda (s : State) (c : Context) : (s.setCtx c).agenda = s.agenda := rfl
@[simp] theorem State.setCtx_focus (s : State) (c : Context) : (s.setCtx c).focus = s.focus := rfl
@[simp] theorem State.setCtx_cur (s : State) (c : Context) : (s.setCtx c).cur = s.cur := rfl
@[simp] theorem State.setCtx_freeCtr (s : State) (c : Context) : (s.setCtx c).freeCtr = s.freeCtr := rfl
@[simp] theorem State.setCtx_nextSerial (s : State) (c : Context) : (s.setCtx c).nextSerial = s.nextSerial := rfl

/-! ## setDie -/

@[simp] theorem State.setDie_cores (s : State) (d : DieId) (x : Die) : (s.setDie d x).cores = s.cores := rfl
@[simp] theorem State.setDie_mem (s : State) (d : DieId) (x : Die) : (s.setDie d x).mem = s.mem := rfl
@[simp] theorem State.setDie_poison (s : State) (d : DieId) (x : Die) : (s.setDie d x).poison = s.poison := rfl
@[simp] theorem State.setDie_stores (s : State) (d : DieId) (x : Die) : (s.setDie d x).stores = s.stores := rfl
@[simp] theorem State.setDie_pubs (s : State) (d : DieId) (x : Die) : (s.setDie d x).pubs = s.pubs := rfl
@[simp] theorem State.setDie_segs (s : State) (d : DieId) (x : Die) : (s.setDie d x).segs = s.segs := rfl
@[simp] theorem State.setDie_watch (s : State) (d : DieId) (x : Die) : (s.setDie d x).watch = s.watch := rfl
@[simp] theorem State.setDie_gov (s : State) (d : DieId) (x : Die) : (s.setDie d x).gov = s.gov := rfl
@[simp] theorem State.setDie_ports (s : State) (d : DieId) (x : Die) : (s.setDie d x).ports = s.ports := rfl
@[simp] theorem State.setDie_packets (s : State) (d : DieId) (x : Die) : (s.setDie d x).packets = s.packets := rfl
@[simp] theorem State.setDie_peerStores (s : State) (d : DieId) (x : Die) : (s.setDie d x).peerStores = s.peerStores := rfl
@[simp] theorem State.setDie_draining (s : State) (d : DieId) (x : Die) : (s.setDie d x).draining = s.draining := rfl
@[simp] theorem State.setDie_aedty (s : State) (d : DieId) (x : Die) : (s.setDie d x).aedty = s.aedty := rfl
@[simp] theorem State.setDie_cmdOwners (s : State) (d : DieId) (x : Die) : (s.setDie d x).cmdOwners = s.cmdOwners := rfl
@[simp] theorem State.setDie_barBeats (s : State) (d : DieId) (x : Die) : (s.setDie d x).barBeats = s.barBeats := rfl
@[simp] theorem State.setDie_now (s : State) (d : DieId) (x : Die) : (s.setDie d x).now = s.now := rfl
@[simp] theorem State.setDie_agenda (s : State) (d : DieId) (x : Die) : (s.setDie d x).agenda = s.agenda := rfl
@[simp] theorem State.setDie_focus (s : State) (d : DieId) (x : Die) : (s.setDie d x).focus = s.focus := rfl
@[simp] theorem State.setDie_cur (s : State) (d : DieId) (x : Die) : (s.setDie d x).cur = s.cur := rfl
@[simp] theorem State.setDie_freeCtr (s : State) (d : DieId) (x : Die) : (s.setDie d x).freeCtr = s.freeCtr := rfl
@[simp] theorem State.setDie_nextSerial (s : State) (d : DieId) (x : Die) : (s.setDie d x).nextSerial = s.nextSerial := rfl

/-! ## setQ -/

@[simp] theorem State.setQ_dies (s : State) (q : Fin 16) (l : List QEntry) : (s.setQ q l).dies = s.dies := rfl
@[simp] theorem State.setQ_mem (s : State) (q : Fin 16) (l : List QEntry) : (s.setQ q l).mem = s.mem := rfl
@[simp] theorem State.setQ_poison (s : State) (q : Fin 16) (l : List QEntry) : (s.setQ q l).poison = s.poison := rfl
@[simp] theorem State.setQ_stores (s : State) (q : Fin 16) (l : List QEntry) : (s.setQ q l).stores = s.stores := rfl
@[simp] theorem State.setQ_pubs (s : State) (q : Fin 16) (l : List QEntry) : (s.setQ q l).pubs = s.pubs := rfl
@[simp] theorem State.setQ_segs (s : State) (q : Fin 16) (l : List QEntry) : (s.setQ q l).segs = s.segs := rfl
@[simp] theorem State.setQ_watch (s : State) (q : Fin 16) (l : List QEntry) : (s.setQ q l).watch = s.watch := rfl
@[simp] theorem State.setQ_gov (s : State) (q : Fin 16) (l : List QEntry) : (s.setQ q l).gov = s.gov := rfl
@[simp] theorem State.setQ_ports (s : State) (q : Fin 16) (l : List QEntry) : (s.setQ q l).ports = s.ports := rfl
@[simp] theorem State.setQ_packets (s : State) (q : Fin 16) (l : List QEntry) : (s.setQ q l).packets = s.packets := rfl
@[simp] theorem State.setQ_peerStores (s : State) (q : Fin 16) (l : List QEntry) : (s.setQ q l).peerStores = s.peerStores := rfl
@[simp] theorem State.setQ_draining (s : State) (q : Fin 16) (l : List QEntry) : (s.setQ q l).draining = s.draining := rfl
@[simp] theorem State.setQ_aedty (s : State) (q : Fin 16) (l : List QEntry) : (s.setQ q l).aedty = s.aedty := rfl
@[simp] theorem State.setQ_cmdOwners (s : State) (q : Fin 16) (l : List QEntry) : (s.setQ q l).cmdOwners = s.cmdOwners := rfl
@[simp] theorem State.setQ_barBeats (s : State) (q : Fin 16) (l : List QEntry) : (s.setQ q l).barBeats = s.barBeats := rfl
@[simp] theorem State.setQ_now (s : State) (q : Fin 16) (l : List QEntry) : (s.setQ q l).now = s.now := rfl
@[simp] theorem State.setQ_agenda (s : State) (q : Fin 16) (l : List QEntry) : (s.setQ q l).agenda = s.agenda := rfl
@[simp] theorem State.setQ_focus (s : State) (q : Fin 16) (l : List QEntry) : (s.setQ q l).focus = s.focus := rfl
@[simp] theorem State.setQ_cur (s : State) (q : Fin 16) (l : List QEntry) : (s.setQ q l).cur = s.cur := rfl
@[simp] theorem State.setQ_freeCtr (s : State) (q : Fin 16) (l : List QEntry) : (s.setQ q l).freeCtr = s.freeCtr := rfl
@[simp] theorem State.setQ_nextSerial (s : State) (q : Fin 16) (l : List QEntry) : (s.setQ q l).nextSerial = s.nextSerial := rfl

/-! ## setTok -/

@[simp] theorem State.setTok_dies (s : State) (j : Fin 10) (l : List Token) : (s.setTok j l).dies = s.dies := rfl
@[simp] theorem State.setTok_mem (s : State) (j : Fin 10) (l : List Token) : (s.setTok j l).mem = s.mem := rfl
@[simp] theorem State.setTok_poison (s : State) (j : Fin 10) (l : List Token) : (s.setTok j l).poison = s.poison := rfl
@[simp] theorem State.setTok_stores (s : State) (j : Fin 10) (l : List Token) : (s.setTok j l).stores = s.stores := rfl
@[simp] theorem State.setTok_pubs (s : State) (j : Fin 10) (l : List Token) : (s.setTok j l).pubs = s.pubs := rfl
@[simp] theorem State.setTok_segs (s : State) (j : Fin 10) (l : List Token) : (s.setTok j l).segs = s.segs := rfl
@[simp] theorem State.setTok_watch (s : State) (j : Fin 10) (l : List Token) : (s.setTok j l).watch = s.watch := rfl
@[simp] theorem State.setTok_gov (s : State) (j : Fin 10) (l : List Token) : (s.setTok j l).gov = s.gov := rfl
@[simp] theorem State.setTok_ports (s : State) (j : Fin 10) (l : List Token) : (s.setTok j l).ports = s.ports := rfl
@[simp] theorem State.setTok_packets (s : State) (j : Fin 10) (l : List Token) : (s.setTok j l).packets = s.packets := rfl
@[simp] theorem State.setTok_peerStores (s : State) (j : Fin 10) (l : List Token) : (s.setTok j l).peerStores = s.peerStores := rfl
@[simp] theorem State.setTok_draining (s : State) (j : Fin 10) (l : List Token) : (s.setTok j l).draining = s.draining := rfl
@[simp] theorem State.setTok_aedty (s : State) (j : Fin 10) (l : List Token) : (s.setTok j l).aedty = s.aedty := rfl
@[simp] theorem State.setTok_cmdOwners (s : State) (j : Fin 10) (l : List Token) : (s.setTok j l).cmdOwners = s.cmdOwners := rfl
@[simp] theorem State.setTok_barBeats (s : State) (j : Fin 10) (l : List Token) : (s.setTok j l).barBeats = s.barBeats := rfl
@[simp] theorem State.setTok_now (s : State) (j : Fin 10) (l : List Token) : (s.setTok j l).now = s.now := rfl
@[simp] theorem State.setTok_agenda (s : State) (j : Fin 10) (l : List Token) : (s.setTok j l).agenda = s.agenda := rfl
@[simp] theorem State.setTok_focus (s : State) (j : Fin 10) (l : List Token) : (s.setTok j l).focus = s.focus := rfl
@[simp] theorem State.setTok_cur (s : State) (j : Fin 10) (l : List Token) : (s.setTok j l).cur = s.cur := rfl
@[simp] theorem State.setTok_freeCtr (s : State) (j : Fin 10) (l : List Token) : (s.setTok j l).freeCtr = s.freeCtr := rfl
@[simp] theorem State.setTok_nextSerial (s : State) (j : Fin 10) (l : List Token) : (s.setTok j l).nextSerial = s.nextSerial := rfl

/-! ## setTile -/

@[simp] theorem State.setTile_dies (s : State) (t : Fin 16) (x : Tile) : (s.setTile t x).dies = s.dies := rfl
@[simp] theorem State.setTile_mem (s : State) (t : Fin 16) (x : Tile) : (s.setTile t x).mem = s.mem := rfl
@[simp] theorem State.setTile_poison (s : State) (t : Fin 16) (x : Tile) : (s.setTile t x).poison = s.poison := rfl
@[simp] theorem State.setTile_stores (s : State) (t : Fin 16) (x : Tile) : (s.setTile t x).stores = s.stores := rfl
@[simp] theorem State.setTile_pubs (s : State) (t : Fin 16) (x : Tile) : (s.setTile t x).pubs = s.pubs := rfl
@[simp] theorem State.setTile_segs (s : State) (t : Fin 16) (x : Tile) : (s.setTile t x).segs = s.segs := rfl
@[simp] theorem State.setTile_watch (s : State) (t : Fin 16) (x : Tile) : (s.setTile t x).watch = s.watch := rfl
@[simp] theorem State.setTile_gov (s : State) (t : Fin 16) (x : Tile) : (s.setTile t x).gov = s.gov := rfl
@[simp] theorem State.setTile_ports (s : State) (t : Fin 16) (x : Tile) : (s.setTile t x).ports = s.ports := rfl
@[simp] theorem State.setTile_packets (s : State) (t : Fin 16) (x : Tile) : (s.setTile t x).packets = s.packets := rfl
@[simp] theorem State.setTile_peerStores (s : State) (t : Fin 16) (x : Tile) : (s.setTile t x).peerStores = s.peerStores := rfl
@[simp] theorem State.setTile_draining (s : State) (t : Fin 16) (x : Tile) : (s.setTile t x).draining = s.draining := rfl
@[simp] theorem State.setTile_aedty (s : State) (t : Fin 16) (x : Tile) : (s.setTile t x).aedty = s.aedty := rfl
@[simp] theorem State.setTile_cmdOwners (s : State) (t : Fin 16) (x : Tile) : (s.setTile t x).cmdOwners = s.cmdOwners := rfl
@[simp] theorem State.setTile_barBeats (s : State) (t : Fin 16) (x : Tile) : (s.setTile t x).barBeats = s.barBeats := rfl
@[simp] theorem State.setTile_now (s : State) (t : Fin 16) (x : Tile) : (s.setTile t x).now = s.now := rfl
@[simp] theorem State.setTile_agenda (s : State) (t : Fin 16) (x : Tile) : (s.setTile t x).agenda = s.agenda := rfl
@[simp] theorem State.setTile_focus (s : State) (t : Fin 16) (x : Tile) : (s.setTile t x).focus = s.focus := rfl
@[simp] theorem State.setTile_cur (s : State) (t : Fin 16) (x : Tile) : (s.setTile t x).cur = s.cur := rfl
@[simp] theorem State.setTile_freeCtr (s : State) (t : Fin 16) (x : Tile) : (s.setTile t x).freeCtr = s.freeCtr := rfl
@[simp] theorem State.setTile_nextSerial (s : State) (t : Fin 16) (x : Tile) : (s.setTile t x).nextSerial = s.nextSerial := rfl

/-! ## send -/

@[simp] theorem State.send_dies (s : State) (e : Eng) : (s.send e).dies = s.dies := rfl
@[simp] theorem State.send_mem (s : State) (e : Eng) : (s.send e).mem = s.mem := rfl
@[simp] theorem State.send_poison (s : State) (e : Eng) : (s.send e).poison = s.poison := rfl
@[simp] theorem State.send_stores (s : State) (e : Eng) : (s.send e).stores = s.stores := rfl
@[simp] theorem State.send_pubs (s : State) (e : Eng) : (s.send e).pubs = s.pubs := rfl
@[simp] theorem State.send_segs (s : State) (e : Eng) : (s.send e).segs = s.segs := rfl
@[simp] theorem State.send_watch (s : State) (e : Eng) : (s.send e).watch = s.watch := rfl
@[simp] theorem State.send_gov (s : State) (e : Eng) : (s.send e).gov = s.gov := rfl
@[simp] theorem State.send_ports (s : State) (e : Eng) : (s.send e).ports = s.ports := rfl
@[simp] theorem State.send_packets (s : State) (e : Eng) : (s.send e).packets = s.packets := rfl
@[simp] theorem State.send_peerStores (s : State) (e : Eng) : (s.send e).peerStores = s.peerStores := rfl
@[simp] theorem State.send_draining (s : State) (e : Eng) : (s.send e).draining = s.draining := rfl
@[simp] theorem State.send_aedty (s : State) (e : Eng) : (s.send e).aedty = s.aedty := rfl
@[simp] theorem State.send_cmdOwners (s : State) (e : Eng) : (s.send e).cmdOwners = s.cmdOwners := rfl
@[simp] theorem State.send_barBeats (s : State) (e : Eng) : (s.send e).barBeats = s.barBeats := rfl
@[simp] theorem State.send_now (s : State) (e : Eng) : (s.send e).now = s.now := rfl
@[simp] theorem State.send_agenda (s : State) (e : Eng) : (s.send e).agenda = s.agenda := rfl
@[simp] theorem State.send_focus (s : State) (e : Eng) : (s.send e).focus = s.focus := rfl
@[simp] theorem State.send_cur (s : State) (e : Eng) : (s.send e).cur = s.cur := rfl
@[simp] theorem State.send_freeCtr (s : State) (e : Eng) : (s.send e).freeCtr = s.freeCtr := rfl
@[simp] theorem State.send_nextSerial (s : State) (e : Eng) : (s.send e).nextSerial = s.nextSerial := rfl

/-! ## receive -/

@[simp] theorem State.receive_dies (s : State) (e : Eng) (b : BitVec 48) (n : Known) : (s.receive e b n).dies = s.dies := rfl
@[simp] theorem State.receive_mem (s : State) (e : Eng) (b : BitVec 48) (n : Known) : (s.receive e b n).mem = s.mem := rfl
@[simp] theorem State.receive_poison (s : State) (e : Eng) (b : BitVec 48) (n : Known) : (s.receive e b n).poison = s.poison := rfl
@[simp] theorem State.receive_stores (s : State) (e : Eng) (b : BitVec 48) (n : Known) : (s.receive e b n).stores = s.stores := rfl
@[simp] theorem State.receive_pubs (s : State) (e : Eng) (b : BitVec 48) (n : Known) : (s.receive e b n).pubs = s.pubs := rfl
@[simp] theorem State.receive_segs (s : State) (e : Eng) (b : BitVec 48) (n : Known) : (s.receive e b n).segs = s.segs := rfl
@[simp] theorem State.receive_watch (s : State) (e : Eng) (b : BitVec 48) (n : Known) : (s.receive e b n).watch = s.watch := rfl
@[simp] theorem State.receive_gov (s : State) (e : Eng) (b : BitVec 48) (n : Known) : (s.receive e b n).gov = s.gov := rfl
@[simp] theorem State.receive_ports (s : State) (e : Eng) (b : BitVec 48) (n : Known) : (s.receive e b n).ports = s.ports := rfl
@[simp] theorem State.receive_packets (s : State) (e : Eng) (b : BitVec 48) (n : Known) : (s.receive e b n).packets = s.packets := rfl
@[simp] theorem State.receive_peerStores (s : State) (e : Eng) (b : BitVec 48) (n : Known) : (s.receive e b n).peerStores = s.peerStores := rfl
@[simp] theorem State.receive_draining (s : State) (e : Eng) (b : BitVec 48) (n : Known) : (s.receive e b n).draining = s.draining := rfl
@[simp] theorem State.receive_aedty (s : State) (e : Eng) (b : BitVec 48) (n : Known) : (s.receive e b n).aedty = s.aedty := rfl
@[simp] theorem State.receive_cmdOwners (s : State) (e : Eng) (b : BitVec 48) (n : Known) : (s.receive e b n).cmdOwners = s.cmdOwners := rfl
@[simp] theorem State.receive_barBeats (s : State) (e : Eng) (b : BitVec 48) (n : Known) : (s.receive e b n).barBeats = s.barBeats := rfl
@[simp] theorem State.receive_now (s : State) (e : Eng) (b : BitVec 48) (n : Known) : (s.receive e b n).now = s.now := rfl
@[simp] theorem State.receive_agenda (s : State) (e : Eng) (b : BitVec 48) (n : Known) : (s.receive e b n).agenda = s.agenda := rfl
@[simp] theorem State.receive_focus (s : State) (e : Eng) (b : BitVec 48) (n : Known) : (s.receive e b n).focus = s.focus := rfl
@[simp] theorem State.receive_cur (s : State) (e : Eng) (b : BitVec 48) (n : Known) : (s.receive e b n).cur = s.cur := rfl
@[simp] theorem State.receive_freeCtr (s : State) (e : Eng) (b : BitVec 48) (n : Known) : (s.receive e b n).freeCtr = s.freeCtr := rfl
@[simp] theorem State.receive_nextSerial (s : State) (e : Eng) (b : BitVec 48) (n : Known) : (s.receive e b n).nextSerial = s.nextSerial := rfl

/-! ## countStore -/

@[simp] theorem State.countStore_dies (s : State) (e : Eng) : (s.countStore e).dies = s.dies := rfl
@[simp] theorem State.countStore_mem (s : State) (e : Eng) : (s.countStore e).mem = s.mem := rfl
@[simp] theorem State.countStore_poison (s : State) (e : Eng) : (s.countStore e).poison = s.poison := rfl
@[simp] theorem State.countStore_stores (s : State) (e : Eng) : (s.countStore e).stores = s.stores := rfl
@[simp] theorem State.countStore_pubs (s : State) (e : Eng) : (s.countStore e).pubs = s.pubs := rfl
@[simp] theorem State.countStore_segs (s : State) (e : Eng) : (s.countStore e).segs = s.segs := rfl
@[simp] theorem State.countStore_watch (s : State) (e : Eng) : (s.countStore e).watch = s.watch := rfl
@[simp] theorem State.countStore_gov (s : State) (e : Eng) : (s.countStore e).gov = s.gov := rfl
@[simp] theorem State.countStore_ports (s : State) (e : Eng) : (s.countStore e).ports = s.ports := rfl
@[simp] theorem State.countStore_packets (s : State) (e : Eng) : (s.countStore e).packets = s.packets := rfl
@[simp] theorem State.countStore_peerStores (s : State) (e : Eng) : (s.countStore e).peerStores = s.peerStores := rfl
@[simp] theorem State.countStore_draining (s : State) (e : Eng) : (s.countStore e).draining = s.draining := rfl
@[simp] theorem State.countStore_aedty (s : State) (e : Eng) : (s.countStore e).aedty = s.aedty := rfl
@[simp] theorem State.countStore_cmdOwners (s : State) (e : Eng) : (s.countStore e).cmdOwners = s.cmdOwners := rfl
@[simp] theorem State.countStore_barBeats (s : State) (e : Eng) : (s.countStore e).barBeats = s.barBeats := rfl
@[simp] theorem State.countStore_now (s : State) (e : Eng) : (s.countStore e).now = s.now := rfl
@[simp] theorem State.countStore_agenda (s : State) (e : Eng) : (s.countStore e).agenda = s.agenda := rfl
@[simp] theorem State.countStore_focus (s : State) (e : Eng) : (s.countStore e).focus = s.focus := rfl
@[simp] theorem State.countStore_cur (s : State) (e : Eng) : (s.countStore e).cur = s.cur := rfl
@[simp] theorem State.countStore_freeCtr (s : State) (e : Eng) : (s.countStore e).freeCtr = s.freeCtr := rfl
@[simp] theorem State.countStore_nextSerial (s : State) (e : Eng) : (s.countStore e).nextSerial = s.nextSerial := rfl

/-! ## Reading back -/

@[simp] theorem State.core_setCore (s : State) (c : Core) : (s.setCore c).core = c := by
  simp [State.core, State.setCore]

@[simp] theorem State.cell_setCore (s : State) (c : Core) : (s.setCore c).cell = c.cell := by
  simp [State.cell]

@[simp] theorem State.core_setCell (s : State) (c : Cell) : (s.setCell c).core = { s.core with cell := c } := by
  simp [State.setCell]

@[simp] theorem State.cell_setCell (s : State) (c : Cell) : (s.setCell c).cell = c := by
  simp [State.setCell]

@[simp] theorem State.roll_setRoll (s : State) (r : Roll) : (s.setRoll r).roll = r := by
  simp [State.roll, State.setRoll]

@[simp] theorem State.cell_setRoll (s : State) (r : Roll) : (s.setRoll r).cell = { s.cell with roll := r } := by
  simp [State.setRoll]

@[simp] theorem State.cell_setRun (s : State) (e : Eng) (r : EngRun) :
    (s.setRun e r).cell = { s.cell with run := s.cell.run.set e r } := by
  simp [State.setRun]

@[simp] theorem State.roll_setRun (s : State) (e : Eng) (r : EngRun) : (s.setRun e r).roll = s.roll := by
  simp [State.roll]

@[simp] theorem State.flight_setRun (s : State) (e : Eng) (r : EngRun) : (s.setRun e r).flight = s.flight := by
  simp [State.flight]

@[simp] theorem State.misc_setRun (s : State) (e : Eng) (r : EngRun) : (s.setRun e r).misc = s.misc := by
  simp [State.misc]

@[simp] theorem State.flight_setRoll (s : State) (r : Roll) : (s.setRoll r).flight = s.flight := by
  simp [State.flight]

@[simp] theorem State.misc_setRoll (s : State) (r : Roll) : (s.setRoll r).misc = s.misc := by
  simp [State.misc]

@[simp] theorem State.run_setRoll (s : State) (r : Roll) (e : Eng) : (s.setRoll r).run e = s.run e := by
  simp [State.run]

@[simp] theorem State.flight_setFlight (s : State) (f : Flight) : (s.setFlight f).flight = f := by
  simp [State.flight, State.setFlight]

@[simp] theorem State.misc_setMisc (s : State) (m : Misc) : (s.setMisc m).misc = m := by
  simp [State.misc, State.setMisc]

@[simp] theorem State.cell_setMisc (s : State) (m : Misc) : (s.setMisc m).cell = { s.cell with misc := m } := by
  simp [State.setMisc]

@[simp] theorem State.cell_setCtx (s : State) (c : Context) : (s.setCtx c).cell = { s.cell with ctx := c } := by
  simp [State.setCtx]

@[simp] theorem State.cell_setFlight (s : State) (f : Flight) : (s.setFlight f).cell = { s.cell with flight := f } := by
  simp [State.setFlight]

@[simp] theorem State.cell_setDie (s : State) (d : DieId) (x : Die) : (s.setDie d x).cell = s.cell := rfl

@[simp] theorem State.die_setDie (s : State) (d : DieId) (x : Die) : (s.setDie d x).die d = x := by
  simp [State.die, State.setDie]

/-- The value set for an engine is the one read. -/
@[simp] theorem Five.get_set {α : Type} (x : Five α) (e : Eng) (y : α) : (x.set e y).get e = y := by
  cases e <;> rfl

/-- A value set for an engine leaves the others. -/
theorem Five.get_set_ne {α : Type} (x : Five α) (e f : Eng) (y : α) (h : f ≠ e) : (x.set e y).get f = x.get f := by
  cases e <;> cases f <;> first | rfl | exact absurd rfl h

@[simp] theorem State.run_setRun (s : State) (e : Eng) (r : EngRun) : (s.setRun e r).run e = r := by
  simp [State.run]

@[simp] theorem State.path_setPath (s : State) (e : Eng) (p : Path) : (s.setPath e p).path e = p := by
  simp [State.path, State.setPath]

/-! ## Scalar registers and tiles -/

/-- x0 reads zero (R97). -/
@[simp] theorem State.x_zero (s : State) : s.x 0 = 0 := by
  simp [State.x]

/-- A register written reads as written, but for x0 (R97). -/
theorem State.x_setX (s : State) (r : Fin 32) (v : Word) (h : r ≠ 0) : (s.setX r v).x r = v := by
  simp [State.setX, State.x, h]

/-- A write of x0 changes nothing (R97). -/
@[simp] theorem State.setX_zero (s : State) (v : Word) : s.setX 0 v = s := by
  simp [State.setX]

/-- A register written leaves every other one. -/
theorem State.x_setX_ne (s : State) (r k : Fin 32) (v : Word) (h : k ≠ r) : (s.setX r v).x k = s.x k := by
  have : (r : ℕ) ≠ (k : ℕ) := fun e => h (Fin.ext e.symm)
  by_cases hr : r = 0
  · simp [State.setX, hr]
  · by_cases hk : k = 0
    · simp [State.x, hk]
    · simp [State.setX, State.x, hr, hk, this]

/-- A tile written reads as written. -/
@[simp] theorem State.tile_setTile (s : State) (t : Fin 16) (x : Tile) : (s.setTile t x).tile t = x := by
  simp [State.tile, State.setTile]

/-- A tile written leaves the others. -/
theorem State.tile_setTile_ne (s : State) (t k : Fin 16) (x : Tile) (h : k ≠ t) : (s.setTile t x).tile k = s.tile k := by
  have : (t : ℕ) ≠ (k : ℕ) := fun e => h (Fin.ext e.symm)
  simp [State.tile, State.setTile, this]

end Sys2Proof.Machine
end

