-- ==== Sys2Proof/Laws/Memory.lean ====
section
/-! SUPPORT. The canonical form of the memory: every memory operation keeps it, and what a read gives after a write. -/

namespace Sys2Proof.Machine

namespace Memory

/-- The head of a list in the form lies below every other address. -/
theorem wf_head_lt : ∀ (m : List Host.Cell) (a : Nat) (b : Byte), wf ((a, b) :: m) = true → ∀ p ∈ m, a < p.1
  | [], _, _, _ => by simp
  | (a', b') :: m, a, b, h => by
    simp only [wf, Bool.and_eq_true, decide_eq_true_eq] at h
    intro p hp
    rcases List.mem_cons.mp hp with rfl | hp
    · exact h.1.2
    · exact Nat.lt_trans h.1.2 (wf_head_lt m a' b' h.2 p hp)

/-- The form, one entry at a time. -/
theorem wf_cons (a : Nat) (b : Byte) (m : List Host.Cell) :
    wf ((a, b) :: m) = true ↔ b ≠ 0 ∧ (∀ p ∈ m, a < p.1) ∧ wf m = true := by
  constructor
  · intro h
    refine ⟨?_, wf_head_lt m a b h, ?_⟩
    · cases m <;> simp_all [wf]
    · cases m with
      | nil => rfl
      | cons c m => obtain ⟨a', b'⟩ := c; simp only [wf, Bool.and_eq_true] at h; exact h.2
  · rintro ⟨hb, hlt, hm⟩
    cases m with
    | nil => simpa [wf] using hb
    | cons c m =>
      obtain ⟨a', b'⟩ := c
      simp only [wf, Bool.and_eq_true, decide_eq_true_eq, bne_iff_ne]
      exact ⟨⟨hb, hlt (a', b') (by simp)⟩, hm⟩

/-- An entry of a memory after a write is an old one or the new one. -/
theorem mem_put : ∀ (m : List Host.Cell) (x : Nat) (v : Byte) (p : Host.Cell), p ∈ put m x v → p ∈ m ∨ p = (x, v)
  | [], x, v, p, h => by
    unfold put at h; split at h
    · simp at h
    · exact .inr (by simpa using h)
  | (a, b) :: m, x, v, p, h => by
    unfold put at h
    split at h
    · split at h
      · exact .inl h
      · rcases List.mem_cons.mp h with h | h
        · exact .inr h
        · exact .inl h
    · split at h
      · split at h
        · exact .inl (List.mem_cons_of_mem _ h)
        · rcases List.mem_cons.mp h with h | h
          · exact .inr h
          · exact .inl (List.mem_cons_of_mem _ h)
      · rcases List.mem_cons.mp h with rfl | h
        · exact .inl (by simp)
        · rcases mem_put m x v p h with h | h
          · exact .inl (List.mem_cons_of_mem _ h)
          · exact .inr h

/-- A write keeps the form. -/
theorem wf_put : ∀ (m : List Host.Cell) (x : Nat) (v : Byte), wf m = true → wf (put m x v) = true
  | [], x, v, _ => by
    unfold put; split
    · rfl
    · rename_i h; simpa [wf] using h
  | (a, b) :: m, x, v, h => by
    obtain ⟨hb, hlt, hm⟩ := (wf_cons a b m).mp h
    unfold put
    split
    · rename_i hx
      split
      · exact h
      · rename_i hv
        refine (wf_cons _ _ _).mpr ⟨hv, ?_, h⟩
        intro p hp
        rcases List.mem_cons.mp hp with rfl | hp
        · exact hx
        · exact Nat.lt_trans hx (hlt p hp)
    · split
      · rename_i hx
        split
        · exact hm
        · rename_i hv
          exact (wf_cons _ _ _).mpr ⟨hv, fun p hp => hx ▸ hlt p hp, hm⟩
      · rename_i h1 h2
        refine (wf_cons _ _ _).mpr ⟨hb, ?_, wf_put m x v hm⟩
        intro p hp
        rcases mem_put m x v p hp with hp | rfl
        · exact hlt p hp
        · show a < x; omega

/-- Bytes written keep the form. -/
theorem wf_putList : ∀ (bs : List Byte) (m : List Host.Cell) (x : Nat), wf m = true → wf (putList m x bs) = true
  | [], _, _, h => h
  | b :: bs, m, x, h => wf_putList bs (put m x b) (x + 1) (wf_put m x b h)

/-- A memory with some entries taken away keeps the form. -/
theorem wf_filter (q : Host.Cell → Bool) : ∀ m : List Host.Cell, wf m = true → wf (m.filter q) = true
  | [], _ => rfl
  | (a, b) :: m, h => by
    obtain ⟨hb, hlt, hm⟩ := (wf_cons a b m).mp h
    rw [List.filter_cons]
    split
    · exact (wf_cons _ _ _).mpr ⟨hb, fun p hp => hlt p (List.mem_filter.mp hp).1, wf_filter q m hm⟩
    · exact wf_filter q m hm

/-- A stretch cleared keeps the form. -/
theorem wf_clear (m : List Host.Cell) (lo hi : Nat) (h : wf m = true) : wf (clear m lo hi) = true := wf_filter _ m h

/-- An address below every entry reads as zero. -/
theorem get_below : ∀ (m : List Host.Cell) (x : Nat), (∀ p ∈ m, x < p.1) → get m x = 0
  | [], _, _ => rfl
  | (a, b) :: m, x, h => by
    have ha : x < a := h (a, b) (by simp)
    have : a ≠ x := by omega
    simp only [get, this, if_false]
    exact get_below m x fun p hp => h p (List.mem_cons_of_mem _ hp)

/-- The byte written is the byte read. -/
theorem get_put : ∀ (m : List Host.Cell) (x : Nat) (v : Byte), wf m = true → get (put m x v) x = v
  | [], x, v, _ => by
    unfold put; split
    · rename_i h; simp [get, h]
    · simp [get]
  | (a, b) :: m, x, v, h => by
    obtain ⟨_, hlt, hm⟩ := (wf_cons a b m).mp h
    unfold put
    split
    · rename_i hx
      split
      · rename_i hv
        rw [hv]
        refine get_below _ x ?_
        intro p hp
        rcases List.mem_cons.mp hp with rfl | hp
        · exact hx
        · exact Nat.lt_trans hx (hlt p hp)
      · simp [get]
    · split
      · rename_i hx
        split
        · rename_i hv
          rw [hv]
          exact get_below m x fun p hp => hx ▸ hlt p hp
        · simp [get]
      · rename_i h1 h2
        have : a ≠ x := fun e => h2 e.symm
        simp only [get, this, if_false]
        exact get_put m x v hm

/-- A write leaves every other byte. -/
theorem get_put_ne : ∀ (m : List Host.Cell) (x y : Nat) (v : Byte), y ≠ x → get (put m x v) y = get m y
  | [], x, y, v, h => by
    unfold put; split
    · rfl
    · have hxy : x ≠ y := fun e => h e.symm
      simp [get, hxy]
  | (a, b) :: m, x, y, v, h => by
    have hxy : x ≠ y := fun e => h e.symm
    unfold put
    split
    · split
      · rfl
      · simp [get, hxy]
    · split
      · rename_i hx
        split
        · simp [get, ← hx, hxy]
        · simp [get, ← hx, hxy]
      · simp only [get]
        rw [get_put_ne m x y v h]

/-- Bytes written leave every byte outside them. -/
theorem get_putList_out : ∀ (bs : List Byte) (m : List Host.Cell) (x y : Nat), y < x ∨ x + bs.length ≤ y →
    get (putList m x bs) y = get m y
  | [], _, _, _, _ => rfl
  | b :: bs, m, x, y, h => by
    have h1 : y ≠ x := by simp only [List.length_cons] at h; omega
    rw [putList, get_putList_out bs _ (x + 1) y (by simp only [List.length_cons] at h; omega), get_put_ne m x y b h1]

/-- Bytes written are the bytes read. -/
theorem get_putList_in : ∀ (bs : List Byte) (m : List Host.Cell) (x i : Nat), wf m = true → (h : i < bs.length) →
    get (putList m x bs) (x + i) = bs[i]
  | b :: bs, m, x, 0, hm, _ => by
    rw [Nat.add_zero, putList, get_putList_out bs _ (x + 1) x (by omega), get_put m x b hm]; rfl
  | b :: bs, m, x, i + 1, hm, h => by
    have := get_putList_in bs (put m x b) (x + 1) i (wf_put m x b hm) (by simpa using h)
    rw [putList, show x + (i + 1) = x + 1 + i by omega, this]; rfl

end Memory

/-! ## Memory operations of the state -/

/-- What performing and writing bytes change: memory, its pending stores, and what is known of its granules. -/
def State.Stored (s t : State) : Prop :=
  ∃ m st p w, t = { s with mem := m, stores := st, poison := p, watch := w }

namespace State.Stored

theorem refl (s : State) : State.Stored s s := ⟨s.mem, s.stores, s.poison, s.watch, rfl⟩

theorem trans {s t u : State} (h : State.Stored s t) (h' : State.Stored t u) : State.Stored s u := by
  obtain ⟨m, st, p, w, rfl⟩ := h
  obtain ⟨m', st', p', w', rfl⟩ := h'
  exact ⟨m', st', p', w', rfl⟩

variable {s t : State} (h : State.Stored s t)
include h

theorem cores : t.cores = s.cores := by obtain ⟨m, st, p, w, rfl⟩ := h; rfl
theorem dies : t.dies = s.dies := by obtain ⟨m, st, p, w, rfl⟩ := h; rfl
theorem cur : t.cur = s.cur := by obtain ⟨m, st, p, w, rfl⟩ := h; rfl
theorem pubs : t.pubs = s.pubs := by obtain ⟨m, st, p, w, rfl⟩ := h; rfl
theorem aedty : t.aedty = s.aedty := by obtain ⟨m, st, p, w, rfl⟩ := h; rfl
theorem gov : t.gov = s.gov := by obtain ⟨m, st, p, w, rfl⟩ := h; rfl
theorem now : t.now = s.now := by obtain ⟨m, st, p, w, rfl⟩ := h; rfl
theorem segs : t.segs = s.segs := by obtain ⟨m, st, p, w, rfl⟩ := h; rfl
theorem cell : t.cell = s.cell := by obtain ⟨m, st, p, w, rfl⟩ := h; rfl

end State.Stored

/-- Performing bytes is a store. -/
theorem State.stored_pour (s : State) (x : Nat) (bs : List Byte) : State.Stored s (s.pour x bs) := ⟨_, _, _, _, rfl⟩

/-- Performing stores is a store. -/
theorem State.stored_pourAll (ps : List PStore) : ∀ s : State, State.Stored s (s.pourAll ps) := by
  induction ps with
  | nil => exact State.Stored.refl
  | cons p ps ih => exact fun s => (s.stored_pour p.loc p.bytes).trans (ih _)

/-- The list of pending stores replaced is a store. -/
theorem State.stored_stores (s : State) (st : List PStore) : State.Stored s { s with stores := st } := ⟨_, _, _, _, rfl⟩

/-- Performing the selected stores is a store. -/
theorem State.stored_perform (s : State) (sel : PStore → Bool) (lvl : Nat) : State.Stored s (s.perform sel lvl) := by
  unfold State.perform
  dsimp only
  split
  · exact State.Stored.refl s
  · split
    · exact s.stored_stores _
    · split
      · exact ((State.stored_pourAll _ s).trans (State.stored_pourAll _ _)).trans (State.stored_stores _ _)
      · exact s.stored_stores _

/-- Performing an engine's own stores at cell scope is a store. -/
theorem State.stored_liftOwn (s : State) (o : Obs) : State.Stored s (s.liftOwn o) := by
  unfold State.liftOwn
  split
  · exact s.stored_stores _
  · exact State.Stored.refl s

/-- Settling a granule is a store. -/
theorem State.stored_settle (s : State) (o : Obs) (x n : Nat) : State.Stored s (s.settle o x n) := by
  unfold State.settle
  split
  · exact State.Stored.refl s
  · exact (s.stored_liftOwn o).trans (State.stored_perform _ _ _)

/-- Writing bytes at their home is a store. -/
theorem State.stored_pokeHome (s : State) (o : Obs) (x : Nat) (bs : List Byte) : State.Stored s (s.pokeHome o x bs) := by
  unfold State.pokeHome
  split
  · exact State.Stored.refl s
  · exact (s.stored_settle _ _ _).trans (State.stored_pour _ _ _)

/-- Pending stores that hold no byte at a location give none there. -/
theorem lastOf_none (cls : PStore → Bool) (x : Nat) : ∀ (ps : List PStore) (r : Option Byte),
    (∀ p ∈ ps, cls p = true → p.at? x = none) → lastOf cls x ps r = r
  | [], r, _ => rfl
  | p :: ps, r, h => by
    rw [lastOf]
    split
    · rename_i hc
      rw [h p (by simp) hc, Option.none_or]
      exact lastOf_none cls x ps r fun q hq => h q (List.mem_cons_of_mem _ hq)
    · exact lastOf_none cls x ps r fun q hq => h q (List.mem_cons_of_mem _ hq)

/-- Performing bytes keeps the form. -/
theorem State.MemWf.pour {s : State} (h : s.MemWf) (x : Nat) (bs : List Byte) : (s.pour x bs).MemWf :=
  Memory.wf_putList bs s.mem x h

/-- Performing stores keeps the form. -/
theorem State.MemWf.pourAll {s : State} (h : s.MemWf) (ps : List PStore) : (s.pourAll ps).MemWf := by
  induction ps generalizing s with
  | nil => exact h
  | cons p ps ih => exact ih (h.pour p.loc p.bytes)

/-- Performing the selected stores at a level keeps the form. -/
theorem State.MemWf.perform {s : State} (h : s.MemWf) (sel : PStore → Bool) (lvl : Nat) : (s.perform sel lvl).MemWf := by
  unfold State.perform
  dsimp only
  split
  · exact h
  · split
    · exact h
    · split
      · exact (h.pourAll _).pourAll _
      · exact h

/-- Performing an engine's own stores at cell scope keeps the form. -/
theorem State.MemWf.liftOwn {s : State} (h : s.MemWf) (o : Obs) : (s.liftOwn o).MemWf := by
  unfold State.liftOwn
  split
  · exact h
  · exact h

/-- Settling the stores of a granule keeps the form. -/
theorem State.MemWf.settle {s : State} (h : s.MemWf) (o : Obs) (x n : Nat) : (s.settle o x n).MemWf := by
  unfold State.settle
  split
  · exact h
  · exact (h.liftOwn o).perform _ _

/-- Bytes written at their home keep the form. -/
theorem State.MemWf.pokeHome {s : State} (h : s.MemWf) (o : Obs) (x : Nat) (bs : List Byte) : (s.pokeHome o x bs).MemWf := by
  unfold State.pokeHome
  split
  · exact h
  · exact (h.settle _ _ _).pour _ _

/-- A placed store that is selected at the level of every scope is pending no more. -/
theorem State.perform_all (s : State) (sel : PStore → Bool) (p : PStore) (h : p ∈ (s.perform sel 5).stores)
    (hp : p.placed = true) : sel p = false := by
  unfold State.perform at h
  dsimp only at h
  split at h
  · rename_i he
    rw [List.isEmpty_iff, List.filter_eq_nil_iff] at he
    simpa using he p h
  · simp only [Nat.reduceLeDiff, if_false, Nat.le_refl, if_true, List.mem_map, List.mem_filter] at h
    obtain ⟨q, ⟨-, hq⟩, hqp⟩ := h
    simp only [decide_true, Bool.true_or, Bool.true_and, Bool.not_eq_true', Bool.or_eq_false_iff] at hq
    split at hqp
    · rw [← hqp] at hp; simp [PStore.placed] at hp
    · rw [← hqp]; exact hq.1

/-- A pending store that holds a byte of a stretch touches its granules. -/
theorem PStore.at?_some {p : PStore} {x n i : Nat} (hi : i < n) (h : p.at? (x + i) ≠ none) :
    granule x ≤ granule (p.loc + p.bytes.length - 1) ∧ granule p.loc ≤ granule (x + n - 1) := by
  unfold PStore.at? at h
  split at h
  · rename_i hl
    have : x + i - p.loc < p.bytes.length := by
      by_contra hc
      exact h (List.getElem?_eq_none (by omega))
    unfold granule; constructor <;> omega
  · exact absurd rfl h

/-- An agent outside the cores reads at once the bytes that anyone writes at their home. -/
theorem State.peekByte_pokeHome {s : State} (h : s.MemWf) (o' o : Obs) (ho : ∀ k e a, o ≠ .engine k e a) (x : Nat)
    (bs : List Byte) (i : Nat) (hi : i < bs.length) : (s.pokeHome o' x bs).peekByte o (x + i) = bs[i] := by
  have hne : bs.isEmpty = false := by cases bs with
    | nil => simp at hi
    | cons => rfl
  unfold State.pokeHome
  simp only [hne, Bool.false_eq_true, if_false]
  have hst : ∀ p ∈ (s.settle o' x bs.length).stores, p.placed = true → p.at? (x + i) = none := by
    intro p hp hpl
    by_contra hc
    obtain ⟨h1, h2⟩ := PStore.at?_some hi hc
    unfold State.settle at hp
    split at hp
    · rename_i he; rw [List.isEmpty_iff] at he; rw [he] at hp; simp at hp
    · have := State.perform_all _ _ p hp hpl
      simp [hpl] at this
      omega
  have hown : ∀ p : PStore, p.own o = false := by
    intro p; unfold PStore.own; cases o with
    | engine k e a => exact absurd rfl (ho k e a)
    | _ => rfl
  have hloc : ∀ p : PStore, p.local_ o = false := by
    intro p; unfold PStore.local_; cases o with
    | engine k e a => exact absurd rfl (ho k e a)
    | _ => rfl
  unfold State.peekByte
  rw [lastOf_none _ _ _ none (by intro p _ hc; simp [hown] at hc), lastOf_none _ _ _ none (by intro p _ hc; simp [hloc] at hc),
    lastOf_none _ _ _ none (by
      intro p hp hc
      rw [Bool.and_eq_true] at hc
      exact hst p hp hc.1)]
  exact Memory.get_putList_in bs _ x i (h.settle _ _ _) hi

/-- An agent outside the cores reads at once the stretch that anyone writes at its home. -/
theorem State.peek_pokeHome {s : State} (h : s.MemWf) (o' o : Obs) (ho : ∀ k e a, o ≠ .engine k e a) (x : Nat)
    (bs : List Byte) : (s.pokeHome o' x bs).peek o x bs.length = bs := by
  have hs : ∀ d, o.shift d = o := by
    intro d; cases o with
    | engine k e a => exact absurd rfl (ho k e a)
    | _ => rfl
  have : ∀ n d, d + n = bs.length → (s.pokeHome o' x bs).peekFrom o x d n = bs.drop d := by
    intro n
    induction n with
    | zero => intro d hd; rw [State.peekFrom, List.drop_eq_nil_of_le (by omega)]
    | succ n ih =>
      intro d hd
      have hlt : d < bs.length := by omega
      rw [State.peekFrom, ih (d + 1) (by omega), hs, State.peekByte_pokeHome h o' o ho x bs d hlt,
        List.drop_eq_getElem_cons (l := bs) hlt]
  have h0 := this bs.length 0 (by omega)
  simpa [State.peek] using h0

/-- Marking a block changes no memory. -/
theorem State.markWritten_mem (s : State) (w : Option Nat) (x : Nat) : (s.markWritten w x).mem = s.mem := by
  unfold State.markWritten
  split
  · rfl
  · dsimp only; split <;> rfl

/-- Bytes written for an observer keep the form. -/
theorem State.MemWf.writeAt {s : State} (h : s.MemWf) (o : Obs) (w : Option Nat) (x : Nat) (bs : List Byte) :
    (s.writeAt o w x bs).MemWf := by
  unfold State.writeAt
  split
  · exact h.pokeHome _ _ _
  · dsimp only
    generalize s.landing w x bs.length (bs.length + 1) = l
    suffices ∀ (l : List (Nat × Nat)) (a : State × List Byte × Nat), a.1.MemWf →
        (l.foldl (fun (t : State × List Byte × Nat) (p : Nat × Nat) =>
          ((t.1.markWritten w t.2.2).pokeHome o p.1 (t.2.1.take p.2), t.2.1.drop p.2, t.2.2 + p.2)) a).1.MemWf from
      this l _ h
    intro l
    induction l with
    | nil => intro a ha; exact ha
    | cons p l ih =>
      intro a ha
      apply ih
      have : (a.1.markWritten w a.2.2).MemWf := by unfold State.MemWf; rw [State.markWritten_mem]; exact ha
      exact this.pokeHome _ _ _

end Sys2Proof.Machine
end

