-- ==== Sys2Proof/Laws/Readers.lean ====
section
/-! SUPPORT. What the readings of the cell give after an update of something else. -/

namespace Sys2Proof.Machine

/-! ## setX -/

@[simp] theorem State.tile_setX (s : State) (r : Fin 32) (v : Word) (i : Fin 16) : (s.setX r v).tile i = s.tile i := by
  unfold State.setX; split
  · rfl
  · simp [State.setRoll, State.tile, State.roll]
@[simp] theorem State.path_setX (s : State) (r : Fin 32) (v : Word) (e' : Eng) : (s.setX r v).path e' = s.path e' := by
  unfold State.setX; split
  · rfl
  · simp [State.setRoll, State.path, State.roll]
@[simp] theorem State.flight_setX (s : State) (r : Fin 32) (v : Word) : (s.setX r v).flight = s.flight := by
  unfold State.setX; split
  · rfl
  · simp [State.setRoll, State.flight]
@[simp] theorem State.misc_setX (s : State) (r : Fin 32) (v : Word) : (s.setX r v).misc = s.misc := by
  unfold State.setX; split
  · rfl
  · simp [State.setRoll, State.misc]
@[simp] theorem State.traps_setX (s : State) (r : Fin 32) (v : Word) : (s.setX r v).cell.traps = s.cell.traps := by
  unfold State.setX; split
  · rfl
  · simp [State.setRoll]
@[simp] theorem State.ctx_setX (s : State) (r : Fin 32) (v : Word) : (s.setX r v).cell.ctx = s.cell.ctx := by
  unfold State.setX; split
  · rfl
  · simp [State.setRoll]
@[simp] theorem State.ident_setX (s : State) (r : Fin 32) (v : Word) : (s.setX r v).cell.ident = s.cell.ident := by
  unfold State.setX; split
  · rfl
  · simp [State.setRoll]
@[simp] theorem State.slots_setX (s : State) (r : Fin 32) (v : Word) : (s.setX r v).cell.slots = s.cell.slots := by
  unfold State.setX; split
  · rfl
  · simp [State.setRoll]
@[simp] theorem State.acc_setX (s : State) (r : Fin 32) (v : Word) : (s.setX r v).cell.acc = s.cell.acc := by
  unfold State.setX; split
  · rfl
  · simp [State.setRoll]
@[simp] theorem State.tmpl_setX (s : State) (r : Fin 32) (v : Word) : (s.setX r v).cell.tmpl = s.cell.tmpl := by
  unfold State.setX; split
  · rfl
  · simp [State.setRoll]
@[simp] theorem State.raised_setX (s : State) (r : Fin 32) (v : Word) : (s.setX r v).cell.raised = s.cell.raised := by
  unfold State.setX; split
  · rfl
  · simp [State.setRoll]
@[simp] theorem State.status_setX (s : State) (r : Fin 32) (v : Word) : (s.setX r v).cell.status = s.cell.status := by
  unfold State.setX; split
  · rfl
  · simp [State.setRoll]
@[simp] theorem State.blog_setX (s : State) (r : Fin 32) (v : Word) : (s.setX r v).cell.blog = s.cell.blog := by
  unfold State.setX; split
  · rfl
  · simp [State.setRoll]

/-! ## setQ -/

@[simp] theorem State.x_setQ (s : State) (q : Fin 16) (l : List QEntry) (i : Fin 32) : (s.setQ q l).x i = s.x i := by simp [State.setQ, State.setRoll, State.x, State.roll]
@[simp] theorem State.tile_setQ (s : State) (q : Fin 16) (l : List QEntry) (i : Fin 16) : (s.setQ q l).tile i = s.tile i := by simp [State.setQ, State.setRoll, State.tile, State.roll]
@[simp] theorem State.path_setQ (s : State) (q : Fin 16) (l : List QEntry) (e' : Eng) : (s.setQ q l).path e' = s.path e' := by simp [State.setQ, State.setRoll, State.path, State.roll]
@[simp] theorem State.flight_setQ (s : State) (q : Fin 16) (l : List QEntry) : (s.setQ q l).flight = s.flight := by simp [State.setQ, State.setRoll, State.flight]
@[simp] theorem State.misc_setQ (s : State) (q : Fin 16) (l : List QEntry) : (s.setQ q l).misc = s.misc := by simp [State.setQ, State.setRoll, State.misc]
@[simp] theorem State.traps_setQ (s : State) (q : Fin 16) (l : List QEntry) : (s.setQ q l).cell.traps = s.cell.traps := by simp [State.setQ, State.setRoll]
@[simp] theorem State.ctx_setQ (s : State) (q : Fin 16) (l : List QEntry) : (s.setQ q l).cell.ctx = s.cell.ctx := by simp [State.setQ, State.setRoll]
@[simp] theorem State.ident_setQ (s : State) (q : Fin 16) (l : List QEntry) : (s.setQ q l).cell.ident = s.cell.ident := by simp [State.setQ, State.setRoll]
@[simp] theorem State.slots_setQ (s : State) (q : Fin 16) (l : List QEntry) : (s.setQ q l).cell.slots = s.cell.slots := by simp [State.setQ, State.setRoll]
@[simp] theorem State.acc_setQ (s : State) (q : Fin 16) (l : List QEntry) : (s.setQ q l).cell.acc = s.cell.acc := by simp [State.setQ, State.setRoll]
@[simp] theorem State.tmpl_setQ (s : State) (q : Fin 16) (l : List QEntry) : (s.setQ q l).cell.tmpl = s.cell.tmpl := by simp [State.setQ, State.setRoll]
@[simp] theorem State.raised_setQ (s : State) (q : Fin 16) (l : List QEntry) : (s.setQ q l).cell.raised = s.cell.raised := by simp [State.setQ, State.setRoll]
@[simp] theorem State.status_setQ (s : State) (q : Fin 16) (l : List QEntry) : (s.setQ q l).cell.status = s.cell.status := by simp [State.setQ, State.setRoll]
@[simp] theorem State.blog_setQ (s : State) (q : Fin 16) (l : List QEntry) : (s.setQ q l).cell.blog = s.cell.blog := by simp [State.setQ, State.setRoll]

/-! ## setTok -/

@[simp] theorem State.x_setTok (s : State) (j : Fin 10) (l : List Token) (i : Fin 32) : (s.setTok j l).x i = s.x i := by simp [State.setTok, State.setRoll, State.x, State.roll]
@[simp] theorem State.tile_setTok (s : State) (j : Fin 10) (l : List Token) (i : Fin 16) : (s.setTok j l).tile i = s.tile i := by simp [State.setTok, State.setRoll, State.tile, State.roll]
@[simp] theorem State.path_setTok (s : State) (j : Fin 10) (l : List Token) (e' : Eng) : (s.setTok j l).path e' = s.path e' := by simp [State.setTok, State.setRoll, State.path, State.roll]
@[simp] theorem State.flight_setTok (s : State) (j : Fin 10) (l : List Token) : (s.setTok j l).flight = s.flight := by simp [State.setTok, State.setRoll, State.flight]
@[simp] theorem State.misc_setTok (s : State) (j : Fin 10) (l : List Token) : (s.setTok j l).misc = s.misc := by simp [State.setTok, State.setRoll, State.misc]
@[simp] theorem State.traps_setTok (s : State) (j : Fin 10) (l : List Token) : (s.setTok j l).cell.traps = s.cell.traps := by simp [State.setTok, State.setRoll]
@[simp] theorem State.ctx_setTok (s : State) (j : Fin 10) (l : List Token) : (s.setTok j l).cell.ctx = s.cell.ctx := by simp [State.setTok, State.setRoll]
@[simp] theorem State.ident_setTok (s : State) (j : Fin 10) (l : List Token) : (s.setTok j l).cell.ident = s.cell.ident := by simp [State.setTok, State.setRoll]
@[simp] theorem State.slots_setTok (s : State) (j : Fin 10) (l : List Token) : (s.setTok j l).cell.slots = s.cell.slots := by simp [State.setTok, State.setRoll]
@[simp] theorem State.acc_setTok (s : State) (j : Fin 10) (l : List Token) : (s.setTok j l).cell.acc = s.cell.acc := by simp [State.setTok, State.setRoll]
@[simp] theorem State.tmpl_setTok (s : State) (j : Fin 10) (l : List Token) : (s.setTok j l).cell.tmpl = s.cell.tmpl := by simp [State.setTok, State.setRoll]
@[simp] theorem State.raised_setTok (s : State) (j : Fin 10) (l : List Token) : (s.setTok j l).cell.raised = s.cell.raised := by simp [State.setTok, State.setRoll]
@[simp] theorem State.status_setTok (s : State) (j : Fin 10) (l : List Token) : (s.setTok j l).cell.status = s.cell.status := by simp [State.setTok, State.setRoll]
@[simp] theorem State.blog_setTok (s : State) (j : Fin 10) (l : List Token) : (s.setTok j l).cell.blog = s.cell.blog := by simp [State.setTok, State.setRoll]

/-! ## setTile -/

@[simp] theorem State.x_setTile (s : State) (k : Fin 16) (y : Tile) (i : Fin 32) : (s.setTile k y).x i = s.x i := by simp [State.setTile, State.setRoll, State.x, State.roll]
@[simp] theorem State.path_setTile (s : State) (k : Fin 16) (y : Tile) (e' : Eng) : (s.setTile k y).path e' = s.path e' := by simp [State.setTile, State.setRoll, State.path, State.roll]
@[simp] theorem State.flight_setTile (s : State) (k : Fin 16) (y : Tile) : (s.setTile k y).flight = s.flight := by simp [State.setTile, State.setRoll, State.flight]
@[simp] theorem State.misc_setTile (s : State) (k : Fin 16) (y : Tile) : (s.setTile k y).misc = s.misc := by simp [State.setTile, State.setRoll, State.misc]
@[simp] theorem State.traps_setTile (s : State) (k : Fin 16) (y : Tile) : (s.setTile k y).cell.traps = s.cell.traps := by simp [State.setTile, State.setRoll]
@[simp] theorem State.ctx_setTile (s : State) (k : Fin 16) (y : Tile) : (s.setTile k y).cell.ctx = s.cell.ctx := by simp [State.setTile, State.setRoll]
@[simp] theorem State.ident_setTile (s : State) (k : Fin 16) (y : Tile) : (s.setTile k y).cell.ident = s.cell.ident := by simp [State.setTile, State.setRoll]
@[simp] theorem State.slots_setTile (s : State) (k : Fin 16) (y : Tile) : (s.setTile k y).cell.slots = s.cell.slots := by simp [State.setTile, State.setRoll]
@[simp] theorem State.acc_setTile (s : State) (k : Fin 16) (y : Tile) : (s.setTile k y).cell.acc = s.cell.acc := by simp [State.setTile, State.setRoll]
@[simp] theorem State.tmpl_setTile (s : State) (k : Fin 16) (y : Tile) : (s.setTile k y).cell.tmpl = s.cell.tmpl := by simp [State.setTile, State.setRoll]
@[simp] theorem State.raised_setTile (s : State) (k : Fin 16) (y : Tile) : (s.setTile k y).cell.raised = s.cell.raised := by simp [State.setTile, State.setRoll]
@[simp] theorem State.status_setTile (s : State) (k : Fin 16) (y : Tile) : (s.setTile k y).cell.status = s.cell.status := by simp [State.setTile, State.setRoll]
@[simp] theorem State.blog_setTile (s : State) (k : Fin 16) (y : Tile) : (s.setTile k y).cell.blog = s.cell.blog := by simp [State.setTile, State.setRoll]

/-! ## setRun -/

@[simp] theorem State.x_setRun (s : State) (e : Eng) (r : EngRun) (i : Fin 32) : (s.setRun e r).x i = s.x i := by simp [State.setRun, State.x, State.roll]
@[simp] theorem State.tile_setRun (s : State) (e : Eng) (r : EngRun) (i : Fin 16) : (s.setRun e r).tile i = s.tile i := by simp [State.setRun, State.tile, State.roll]
@[simp] theorem State.path_setRun (s : State) (e : Eng) (r : EngRun) (e' : Eng) : (s.setRun e r).path e' = s.path e' := by simp [State.setRun, State.path, State.roll]
@[simp] theorem State.traps_setRun (s : State) (e : Eng) (r : EngRun) : (s.setRun e r).cell.traps = s.cell.traps := by simp [State.setRun]
@[simp] theorem State.ctx_setRun (s : State) (e : Eng) (r : EngRun) : (s.setRun e r).cell.ctx = s.cell.ctx := by simp [State.setRun]
@[simp] theorem State.ident_setRun (s : State) (e : Eng) (r : EngRun) : (s.setRun e r).cell.ident = s.cell.ident := by simp [State.setRun]
@[simp] theorem State.slots_setRun (s : State) (e : Eng) (r : EngRun) : (s.setRun e r).cell.slots = s.cell.slots := by simp [State.setRun]
@[simp] theorem State.acc_setRun (s : State) (e : Eng) (r : EngRun) : (s.setRun e r).cell.acc = s.cell.acc := by simp [State.setRun]
@[simp] theorem State.tmpl_setRun (s : State) (e : Eng) (r : EngRun) : (s.setRun e r).cell.tmpl = s.cell.tmpl := by simp [State.setRun]
@[simp] theorem State.raised_setRun (s : State) (e : Eng) (r : EngRun) : (s.setRun e r).cell.raised = s.cell.raised := by simp [State.setRun]
@[simp] theorem State.status_setRun (s : State) (e : Eng) (r : EngRun) : (s.setRun e r).cell.status = s.cell.status := by simp [State.setRun]
@[simp] theorem State.blog_setRun (s : State) (e : Eng) (r : EngRun) : (s.setRun e r).cell.blog = s.cell.blog := by simp [State.setRun]

/-! ## setPath -/

@[simp] theorem State.x_setPath (s : State) (e : Eng) (p : Path) (i : Fin 32) : (s.setPath e p).x i = s.x i := by simp [State.setPath, State.setRoll, State.x, State.roll]
@[simp] theorem State.tile_setPath (s : State) (e : Eng) (p : Path) (i : Fin 16) : (s.setPath e p).tile i = s.tile i := by simp [State.setPath, State.setRoll, State.tile, State.roll]
@[simp] theorem State.flight_setPath (s : State) (e : Eng) (p : Path) : (s.setPath e p).flight = s.flight := by simp [State.setPath, State.setRoll, State.flight]
@[simp] theorem State.misc_setPath (s : State) (e : Eng) (p : Path) : (s.setPath e p).misc = s.misc := by simp [State.setPath, State.setRoll, State.misc]
@[simp] theorem State.traps_setPath (s : State) (e : Eng) (p : Path) : (s.setPath e p).cell.traps = s.cell.traps := by simp [State.setPath, State.setRoll]
@[simp] theorem State.ctx_setPath (s : State) (e : Eng) (p : Path) : (s.setPath e p).cell.ctx = s.cell.ctx := by simp [State.setPath, State.setRoll]
@[simp] theorem State.ident_setPath (s : State) (e : Eng) (p : Path) : (s.setPath e p).cell.ident = s.cell.ident := by simp [State.setPath, State.setRoll]
@[simp] theorem State.slots_setPath (s : State) (e : Eng) (p : Path) : (s.setPath e p).cell.slots = s.cell.slots := by simp [State.setPath, State.setRoll]
@[simp] theorem State.acc_setPath (s : State) (e : Eng) (p : Path) : (s.setPath e p).cell.acc = s.cell.acc := by simp [State.setPath, State.setRoll]
@[simp] theorem State.tmpl_setPath (s : State) (e : Eng) (p : Path) : (s.setPath e p).cell.tmpl = s.cell.tmpl := by simp [State.setPath, State.setRoll]
@[simp] theorem State.raised_setPath (s : State) (e : Eng) (p : Path) : (s.setPath e p).cell.raised = s.cell.raised := by simp [State.setPath, State.setRoll]
@[simp] theorem State.status_setPath (s : State) (e : Eng) (p : Path) : (s.setPath e p).cell.status = s.cell.status := by simp [State.setPath, State.setRoll]
@[simp] theorem State.blog_setPath (s : State) (e : Eng) (p : Path) : (s.setPath e p).cell.blog = s.cell.blog := by simp [State.setPath, State.setRoll]

/-! ## setFlight -/

@[simp] theorem State.x_setFlight (s : State) (f : Flight) (i : Fin 32) : (s.setFlight f).x i = s.x i := by simp [State.setFlight, State.x, State.roll]
@[simp] theorem State.tile_setFlight (s : State) (f : Flight) (i : Fin 16) : (s.setFlight f).tile i = s.tile i := by simp [State.setFlight, State.tile, State.roll]
@[simp] theorem State.path_setFlight (s : State) (f : Flight) (e' : Eng) : (s.setFlight f).path e' = s.path e' := by simp [State.setFlight, State.path, State.roll]
@[simp] theorem State.misc_setFlight (s : State) (f : Flight) : (s.setFlight f).misc = s.misc := by simp [State.setFlight, State.misc]
@[simp] theorem State.traps_setFlight (s : State) (f : Flight) : (s.setFlight f).cell.traps = s.cell.traps := by simp [State.setFlight]
@[simp] theorem State.ctx_setFlight (s : State) (f : Flight) : (s.setFlight f).cell.ctx = s.cell.ctx := by simp [State.setFlight]
@[simp] theorem State.ident_setFlight (s : State) (f : Flight) : (s.setFlight f).cell.ident = s.cell.ident := by simp [State.setFlight]
@[simp] theorem State.slots_setFlight (s : State) (f : Flight) : (s.setFlight f).cell.slots = s.cell.slots := by simp [State.setFlight]
@[simp] theorem State.acc_setFlight (s : State) (f : Flight) : (s.setFlight f).cell.acc = s.cell.acc := by simp [State.setFlight]
@[simp] theorem State.tmpl_setFlight (s : State) (f : Flight) : (s.setFlight f).cell.tmpl = s.cell.tmpl := by simp [State.setFlight]
@[simp] theorem State.raised_setFlight (s : State) (f : Flight) : (s.setFlight f).cell.raised = s.cell.raised := by simp [State.setFlight]
@[simp] theorem State.status_setFlight (s : State) (f : Flight) : (s.setFlight f).cell.status = s.cell.status := by simp [State.setFlight]
@[simp] theorem State.blog_setFlight (s : State) (f : Flight) : (s.setFlight f).cell.blog = s.cell.blog := by simp [State.setFlight]

/-! ## setMisc -/

@[simp] theorem State.x_setMisc (s : State) (m : Misc) (i : Fin 32) : (s.setMisc m).x i = s.x i := by simp [State.setMisc, State.x, State.roll]
@[simp] theorem State.tile_setMisc (s : State) (m : Misc) (i : Fin 16) : (s.setMisc m).tile i = s.tile i := by simp [State.setMisc, State.tile, State.roll]
@[simp] theorem State.path_setMisc (s : State) (m : Misc) (e' : Eng) : (s.setMisc m).path e' = s.path e' := by simp [State.setMisc, State.path, State.roll]
@[simp] theorem State.flight_setMisc (s : State) (m : Misc) : (s.setMisc m).flight = s.flight := by simp [State.setMisc, State.flight]
@[simp] theorem State.traps_setMisc (s : State) (m : Misc) : (s.setMisc m).cell.traps = s.cell.traps := by simp [State.setMisc]
@[simp] theorem State.ctx_setMisc (s : State) (m : Misc) : (s.setMisc m).cell.ctx = s.cell.ctx := by simp [State.setMisc]
@[simp] theorem State.ident_setMisc (s : State) (m : Misc) : (s.setMisc m).cell.ident = s.cell.ident := by simp [State.setMisc]
@[simp] theorem State.slots_setMisc (s : State) (m : Misc) : (s.setMisc m).cell.slots = s.cell.slots := by simp [State.setMisc]
@[simp] theorem State.acc_setMisc (s : State) (m : Misc) : (s.setMisc m).cell.acc = s.cell.acc := by simp [State.setMisc]
@[simp] theorem State.tmpl_setMisc (s : State) (m : Misc) : (s.setMisc m).cell.tmpl = s.cell.tmpl := by simp [State.setMisc]
@[simp] theorem State.raised_setMisc (s : State) (m : Misc) : (s.setMisc m).cell.raised = s.cell.raised := by simp [State.setMisc]
@[simp] theorem State.status_setMisc (s : State) (m : Misc) : (s.setMisc m).cell.status = s.cell.status := by simp [State.setMisc]
@[simp] theorem State.blog_setMisc (s : State) (m : Misc) : (s.setMisc m).cell.blog = s.cell.blog := by simp [State.setMisc]

/-! ## setCtx -/

@[simp] theorem State.x_setCtx (s : State) (c : Context) (i : Fin 32) : (s.setCtx c).x i = s.x i := by simp [State.setCtx, State.x, State.roll]
@[simp] theorem State.tile_setCtx (s : State) (c : Context) (i : Fin 16) : (s.setCtx c).tile i = s.tile i := by simp [State.setCtx, State.tile, State.roll]
@[simp] theorem State.path_setCtx (s : State) (c : Context) (e' : Eng) : (s.setCtx c).path e' = s.path e' := by simp [State.setCtx, State.path, State.roll]
@[simp] theorem State.flight_setCtx (s : State) (c : Context) : (s.setCtx c).flight = s.flight := by simp [State.setCtx, State.flight]
@[simp] theorem State.misc_setCtx (s : State) (c : Context) : (s.setCtx c).misc = s.misc := by simp [State.setCtx, State.misc]
@[simp] theorem State.traps_setCtx (s : State) (c : Context) : (s.setCtx c).cell.traps = s.cell.traps := by simp [State.setCtx]
@[simp] theorem State.ident_setCtx (s : State) (c : Context) : (s.setCtx c).cell.ident = s.cell.ident := by simp [State.setCtx]
@[simp] theorem State.slots_setCtx (s : State) (c : Context) : (s.setCtx c).cell.slots = s.cell.slots := by simp [State.setCtx]
@[simp] theorem State.acc_setCtx (s : State) (c : Context) : (s.setCtx c).cell.acc = s.cell.acc := by simp [State.setCtx]
@[simp] theorem State.tmpl_setCtx (s : State) (c : Context) : (s.setCtx c).cell.tmpl = s.cell.tmpl := by simp [State.setCtx]
@[simp] theorem State.raised_setCtx (s : State) (c : Context) : (s.setCtx c).cell.raised = s.cell.raised := by simp [State.setCtx]
@[simp] theorem State.status_setCtx (s : State) (c : Context) : (s.setCtx c).cell.status = s.cell.status := by simp [State.setCtx]
@[simp] theorem State.blog_setCtx (s : State) (c : Context) : (s.setCtx c).cell.blog = s.cell.blog := by simp [State.setCtx]

/-! ## setDie -/

@[simp] theorem State.x_setDie (s : State) (d : DieId) (y : Die) (i : Fin 32) : (s.setDie d y).x i = s.x i := by simp [State.setDie, State.x, State.roll, State.cell, State.core]
@[simp] theorem State.tile_setDie (s : State) (d : DieId) (y : Die) (i : Fin 16) : (s.setDie d y).tile i = s.tile i := by simp [State.setDie, State.tile, State.roll, State.cell, State.core]
@[simp] theorem State.path_setDie (s : State) (d : DieId) (y : Die) (e' : Eng) : (s.setDie d y).path e' = s.path e' := by simp [State.setDie, State.path, State.roll, State.cell, State.core]
@[simp] theorem State.flight_setDie (s : State) (d : DieId) (y : Die) : (s.setDie d y).flight = s.flight := by simp [State.setDie, State.flight, State.cell, State.core]
@[simp] theorem State.misc_setDie (s : State) (d : DieId) (y : Die) : (s.setDie d y).misc = s.misc := by simp [State.setDie, State.misc, State.cell, State.core]
@[simp] theorem State.traps_setDie (s : State) (d : DieId) (y : Die) : (s.setDie d y).cell.traps = s.cell.traps := by simp [State.setDie, State.cell, State.core]
@[simp] theorem State.ctx_setDie (s : State) (d : DieId) (y : Die) : (s.setDie d y).cell.ctx = s.cell.ctx := by simp [State.setDie, State.cell, State.core]
@[simp] theorem State.ident_setDie (s : State) (d : DieId) (y : Die) : (s.setDie d y).cell.ident = s.cell.ident := by simp [State.setDie, State.cell, State.core]
@[simp] theorem State.slots_setDie (s : State) (d : DieId) (y : Die) : (s.setDie d y).cell.slots = s.cell.slots := by simp [State.setDie, State.cell, State.core]
@[simp] theorem State.acc_setDie (s : State) (d : DieId) (y : Die) : (s.setDie d y).cell.acc = s.cell.acc := by simp [State.setDie, State.cell, State.core]
@[simp] theorem State.tmpl_setDie (s : State) (d : DieId) (y : Die) : (s.setDie d y).cell.tmpl = s.cell.tmpl := by simp [State.setDie, State.cell, State.core]
@[simp] theorem State.raised_setDie (s : State) (d : DieId) (y : Die) : (s.setDie d y).cell.raised = s.cell.raised := by simp [State.setDie, State.cell, State.core]
@[simp] theorem State.status_setDie (s : State) (d : DieId) (y : Die) : (s.setDie d y).cell.status = s.cell.status := by simp [State.setDie, State.cell, State.core]
@[simp] theorem State.blog_setDie (s : State) (d : DieId) (y : Die) : (s.setDie d y).cell.blog = s.cell.blog := by simp [State.setDie, State.cell, State.core]

/-! ## send -/

@[simp] theorem State.x_send (s : State) (e : Eng) (i : Fin 32) : (s.send e).x i = s.x i := by simp [State.send, State.setRun, State.x, State.roll]
@[simp] theorem State.tile_send (s : State) (e : Eng) (i : Fin 16) : (s.send e).tile i = s.tile i := by simp [State.send, State.setRun, State.tile, State.roll]
@[simp] theorem State.path_send (s : State) (e : Eng) (e' : Eng) : (s.send e).path e' = s.path e' := by simp [State.send, State.setRun, State.path, State.roll]
@[simp] theorem State.flight_send (s : State) (e : Eng) : (s.send e).flight = s.flight := by simp [State.send, State.setRun, State.flight]
@[simp] theorem State.misc_send (s : State) (e : Eng) : (s.send e).misc = s.misc := by simp [State.send, State.setRun, State.misc]
@[simp] theorem State.traps_send (s : State) (e : Eng) : (s.send e).cell.traps = s.cell.traps := by simp [State.send, State.setRun]
@[simp] theorem State.ctx_send (s : State) (e : Eng) : (s.send e).cell.ctx = s.cell.ctx := by simp [State.send, State.setRun]
@[simp] theorem State.ident_send (s : State) (e : Eng) : (s.send e).cell.ident = s.cell.ident := by simp [State.send, State.setRun]
@[simp] theorem State.slots_send (s : State) (e : Eng) : (s.send e).cell.slots = s.cell.slots := by simp [State.send, State.setRun]
@[simp] theorem State.acc_send (s : State) (e : Eng) : (s.send e).cell.acc = s.cell.acc := by simp [State.send, State.setRun]
@[simp] theorem State.tmpl_send (s : State) (e : Eng) : (s.send e).cell.tmpl = s.cell.tmpl := by simp [State.send, State.setRun]
@[simp] theorem State.raised_send (s : State) (e : Eng) : (s.send e).cell.raised = s.cell.raised := by simp [State.send, State.setRun]
@[simp] theorem State.status_send (s : State) (e : Eng) : (s.send e).cell.status = s.cell.status := by simp [State.send, State.setRun]
@[simp] theorem State.blog_send (s : State) (e : Eng) : (s.send e).cell.blog = s.cell.blog := by simp [State.send, State.setRun]

/-! ## receive -/

@[simp] theorem State.x_receive (s : State) (e : Eng) (b : BitVec 48) (k : Known) (i : Fin 32) : (s.receive e b k).x i = s.x i := by simp [State.receive, State.setRun, State.x, State.roll]
@[simp] theorem State.tile_receive (s : State) (e : Eng) (b : BitVec 48) (k : Known) (i : Fin 16) : (s.receive e b k).tile i = s.tile i := by simp [State.receive, State.setRun, State.tile, State.roll]
@[simp] theorem State.path_receive (s : State) (e : Eng) (b : BitVec 48) (k : Known) (e' : Eng) : (s.receive e b k).path e' = s.path e' := by simp [State.receive, State.setRun, State.path, State.roll]
@[simp] theorem State.flight_receive (s : State) (e : Eng) (b : BitVec 48) (k : Known) : (s.receive e b k).flight = s.flight := by simp [State.receive, State.setRun, State.flight]
@[simp] theorem State.misc_receive (s : State) (e : Eng) (b : BitVec 48) (k : Known) : (s.receive e b k).misc = s.misc := by simp [State.receive, State.setRun, State.misc]
@[simp] theorem State.traps_receive (s : State) (e : Eng) (b : BitVec 48) (k : Known) : (s.receive e b k).cell.traps = s.cell.traps := by simp [State.receive, State.setRun]
@[simp] theorem State.ctx_receive (s : State) (e : Eng) (b : BitVec 48) (k : Known) : (s.receive e b k).cell.ctx = s.cell.ctx := by simp [State.receive, State.setRun]
@[simp] theorem State.ident_receive (s : State) (e : Eng) (b : BitVec 48) (k : Known) : (s.receive e b k).cell.ident = s.cell.ident := by simp [State.receive, State.setRun]
@[simp] theorem State.slots_receive (s : State) (e : Eng) (b : BitVec 48) (k : Known) : (s.receive e b k).cell.slots = s.cell.slots := by simp [State.receive, State.setRun]
@[simp] theorem State.acc_receive (s : State) (e : Eng) (b : BitVec 48) (k : Known) : (s.receive e b k).cell.acc = s.cell.acc := by simp [State.receive, State.setRun]
@[simp] theorem State.tmpl_receive (s : State) (e : Eng) (b : BitVec 48) (k : Known) : (s.receive e b k).cell.tmpl = s.cell.tmpl := by simp [State.receive, State.setRun]
@[simp] theorem State.raised_receive (s : State) (e : Eng) (b : BitVec 48) (k : Known) : (s.receive e b k).cell.raised = s.cell.raised := by simp [State.receive, State.setRun]
@[simp] theorem State.status_receive (s : State) (e : Eng) (b : BitVec 48) (k : Known) : (s.receive e b k).cell.status = s.cell.status := by simp [State.receive, State.setRun]
@[simp] theorem State.blog_receive (s : State) (e : Eng) (b : BitVec 48) (k : Known) : (s.receive e b k).cell.blog = s.cell.blog := by simp [State.receive, State.setRun]

/-! ## The value written -/

theorem State.path_setPath_ne (s : State) (e e' : Eng) (p : Path) (h : e' ≠ e) : (s.setPath e p).path e' = s.path e' := by
  simp [State.path, State.setPath, Five.get_set_ne _ _ _ _ h]

@[simp] theorem State.setX_cur (s : State) (r : Fin 32) (v : Word) : (s.setX r v).cur = s.cur := by
  unfold State.setX; split <;> rfl
@[simp] theorem State.setX_now (s : State) (r : Fin 32) (v : Word) : (s.setX r v).now = s.now := by
  unfold State.setX; split <;> rfl
@[simp] theorem State.setX_mem (s : State) (r : Fin 32) (v : Word) : (s.setX r v).mem = s.mem := by
  unfold State.setX; split <;> rfl
@[simp] theorem State.setX_dies (s : State) (r : Fin 32) (v : Word) : (s.setX r v).dies = s.dies := by
  unfold State.setX; split <;> rfl
@[simp] theorem State.setX_stores (s : State) (r : Fin 32) (v : Word) : (s.setX r v).stores = s.stores := by
  unfold State.setX; split <;> rfl

end Sys2Proof.Machine
end

