-- ==== Sys2Proof/Laws/Issue.lean ====
section
/-! SUPPORT. What issuing a word answers, by its body: the shared shapes of the meanings. -/

namespace Sys2Proof.Machine

/-- Issuing always answers a next state: waits and faults are states too. -/
theorem State.settleIssue_next (s : State) (e : Eng) (r : Res State) : ∃ t, s.settleIssue e r = .next t := by
  unfold State.settleIssue
  split <;> exact ⟨_, rfl⟩

/-- A body that ends in a state is the answer. -/
@[simp] theorem State.settleIssue_ok (s : State) (e : Eng) (t : State) : s.settleIssue e (.ok t) = .next t := rfl

/-- A wait leaves the state with its stall. -/
@[simp] theorem State.settleIssue_wait (s : State) (e : Eng) (w : Why) (l : Option Nat) :
    s.settleIssue e (.error (.wait w l)) = .next ((s.undoTemplate e s.cur.undo).stallAt e w l) := rfl

/-- A wait that keeps what its attempt has performed leaves that state with its stall. -/
@[simp] theorem State.settleIssue_waitIn (s t : State) (e : Eng) (w : Why) (l : Option Nat) :
    s.settleIssue e (.error (.waitIn t w l)) = .next ((t.undoTemplate e s.cur.undo).stallAt e w l) := rfl

/-- A fault is taken in the state that the instruction found. -/
@[simp] theorem State.settleIssue_fault (s : State) (e : Eng) (f : Flt) :
    s.settleIssue e (.error (.fault f)) = .next ((s.undoTemplate e s.cur.undo).fault e f) := rfl

/-- A bind of a value that is there. -/
@[simp] theorem ok_bind {α β ε : Type} (a : α) (f : α → Except ε β) : (Except.ok a >>= f) = f a := rfl

/-- A bind of an error is the error. -/
@[simp] theorem error_bind {α β ε : Type} (x : ε) (f : α → Except ε β) : ((Except.error x : Except ε α) >>= f) = .error x := rfl

/-- A bind that answers a value: its first part does, and so does the rest on it. -/
theorem bind_eq_ok {α β ε : Type} {x : Except ε α} {f : α → Except ε β} {b : β} (h : (x >>= f) = .ok b) :
    ∃ a, x = .ok a ∧ f a = .ok b := by
  cases x with
  | error e => exact absurd h (by simp)
  | ok a => exact ⟨a, rfl, h⟩

/-- A condition that holds requires nothing more. -/
@[simp] theorem require_true (k : Kind) (c : Nat) : require true k c = .ok () := rfl

/-- A condition that fails is its fault. -/
@[simp] theorem require_false (k : Kind) (c : Nat) : require false k c = .error (.fault (Flt.mk' k c)) := rfl

/-- A condition that holds requires nothing more. -/
@[simp] theorem requireAt_true (k : Kind) (c : Nat) (p : Word) : requireAt true k c p = .ok () := rfl

/-- A result without a fault. -/
@[simp] theorem liftFlt_ok {α : Type} (a : α) : liftFlt (.ok a) = .ok a := rfl

/-- A fault lifted. -/
@[simp] theorem liftFlt_error {α : Type} (f : Flt) : (liftFlt (.error f) : Res α) = .error (.fault f) := rfl

/-- A word that is admitted and whose body ends in a state retires from it. -/
theorem State.issue_ok {s u w : State} {e : Eng} {t : Tok} {cls : Fin 16} {uses : List (Fin 16 × Bool)}
    {body : State → Res State} (h : s.Admits e t uses u) (hb : body u = .ok w) :
    s.issue e t cls uses body = .next (w.retire e t cls) := by
  obtain ⟨hbind, l, ht⟩ := h
  simp [State.issue, hbind, ht, hb]

/-- op d, a, b on operands that can be read and a destination that can be written. -/
theorem State.a3_ok {s s1 s2 s3 s4 : State} {cls : Fin 16} {t : Tok} {d : Dst} {a b : Src} {u v : Word}
    {f : Word → Word → Word} (h : s.Admits .A t (Src.uses a ++ Src.uses b ++ Dst.uses d) s1)
    (ha : s1.src a = .ok (u, s2)) (hb : s2.src b = .ok (v, s3)) (hd : s3.dst d (f u v) = .ok s4) :
    s.a3 cls t d a b f = .next (s4.retire .A t cls) :=
  State.issue_ok h (by simp [ha, hb, hd])

/-- op d, a on an operand that can be read and a destination that can be written. -/
theorem State.a2_ok {s s1 s2 s3 : State} {cls : Fin 16} {t : Tok} {d : Dst} {a : Src} {u : Word} {f : Word → Word}
    (h : s.Admits .A t (Src.uses a ++ Dst.uses d) s1) (ha : s1.src a = .ok (u, s2)) (hd : s2.dst d (f u) = .ok s3) :
    s.a2 cls t d a f = .next (s3.retire .A t cls) :=
  State.issue_ok h (by simp [ha, hd])

/-- A word that is admitted and whose body ends in a wait or a fault. -/
theorem State.issue_error {s u : State} {e : Eng} {t : Tok} {cls : Fin 16} {uses : List (Fin 16 × Bool)}
    {body : State → Res State} {x : Stop} (h : s.Admits e t uses u) (hb : body u = .error x) :
    s.issue e t cls uses body = s.settleIssue e (.error x) := by
  obtain ⟨hbind, l, ht⟩ := h
  simp [State.issue, hbind, ht, hb]

end Sys2Proof.Machine
end

