-- ==== Sys2Proof/Laws/Retire.lean ====
section
/-! SUPPORT. What posting, charging and retiring a word can do to the state. -/

namespace Sys2Proof.Machine

/-- The cell put back is no change. -/
@[simp] theorem State.setCell_self (s : State) : s.setCell s.cell = s := by
  have h : ({ s.core with cell := s.cell } : Core) = s.core := rfl
  have h' : s.cores.set s.cur.core s.core = s.cores := by simp [State.core]
  rw [State.setCell, h, State.setCore, h']

/-- The last of two replacements of the cell stands. -/
@[simp] theorem State.setCell_setCell (s : State) (c d : Cell) : (s.setCell c).setCell d = s.setCell d := by
  simp [State.setCell, State.setCore, State.core]

/-- Five values rebuilt with one of them as it was. -/
@[simp] theorem Five.set_self {α : Type} (x : Five α) (e : Eng) : x.set e (x.get e) = x := by cases e <;> rfl

/-- The last of two replacements of an engine's value stands. -/
@[simp] theorem Five.set_set {α : Type} (x : Five α) (e : Eng) (a b : α) : (x.set e a).set e b = x.set e b := by
  cases e <;> rfl

/-- What posts change: the token FIFOs, the poster's running state, and how far stores are performed. -/
def State.Posted (e : Eng) (s t : State) : Prop :=
  ∃ st tok r, t = { s.setCell { s.cell with roll := { s.roll with tok := tok }, run := s.cell.run.set e r } with stores := st }

theorem State.Posted.refl (e : Eng) (s : State) : State.Posted e s s :=
  ⟨s.stores, s.roll.tok, s.run e, by
    have : ({ s.cell with roll := { s.roll with tok := s.roll.tok }, run := s.cell.run.set e (s.run e) } : Cell) = s.cell := by
      simp [State.run, State.roll]
    rw [this, State.setCell_self]⟩

theorem State.Posted.trans {e : Eng} {s t u : State} (h : State.Posted e s t) (h' : State.Posted e t u) : State.Posted e s u := by
  obtain ⟨st, tok, r, rfl⟩ := h
  obtain ⟨st', tok', r', rfl⟩ := h'
  refine ⟨st', tok', r', ?_⟩
  simp [State.setCell, State.setCore, State.core, State.cell, State.roll]

theorem State.posted_setRun (e : Eng) (s : State) (r : EngRun) : State.Posted e s (s.setRun e r) :=
  ⟨s.stores, s.roll.tok, r, rfl⟩

theorem State.posted_setTok (e : Eng) (s : State) (j : Fin 10) (l : List Token) : State.Posted e s (s.setTok j l) :=
  ⟨s.stores, s.roll.tok.set j l, s.run e, by simp [State.setTok, State.setRoll, State.run, State.roll, State.setCell, State.setCore]⟩

theorem State.posted_stores (e : Eng) (s : State) (st : List PStore) : State.Posted e s { s with stores := st } :=
  ⟨st, s.roll.tok, s.run e, by
    have : ({ s.cell with roll := { s.roll with tok := s.roll.tok }, run := s.cell.run.set e (s.run e) } : Cell) = s.cell := by
      simp [State.run, State.roll]
    rw [this, State.setCell_self]⟩

/-- Stores performed at cell scope change nothing else. -/
theorem State.perform_cell (s : State) (sel : PStore → Bool) : ∃ st, s.perform sel 1 = { s with stores := st } := by
  unfold State.perform
  dsimp only
  split
  · exact ⟨s.stores, rfl⟩
  · exact ⟨_, rfl⟩

/-- Posts of an engine that does not wait for a load: it makes none, it is not A, or A has no load outstanding. -/
def State.Settled (s : State) (e : Eng) (js : List (Fin 10)) : Prop := js = [] ∨ e ≠ .A ∨ s.flight.loads = []

/-- An engine other than A, and A without loads, performs its stores at cell scope, and nothing else. -/
theorem State.drain_stores (s : State) (e : Eng) (h : e ≠ .A ∨ s.flight.loads = []) :
    ∃ st, s.drain e = .ok { s with stores := st } := by
  have key : ∃ st, (.ok (if s.stores.isEmpty then s
      else s.perform (fun p => p.serial == s.cell.ident.serial && p.eng == e) 1) : Except Flt State)
        = .ok { s with stores := st } := by
    split
    · exact ⟨s.stores, rfl⟩
    · obtain ⟨st, h⟩ := s.perform_cell fun p => p.serial == s.cell.ident.serial && p.eng == e
      exact ⟨st, by rw [h]⟩
  rcases h with h | h
  · cases e <;> first | exact key | exact absurd rfl h
  · unfold State.drain
    rw [h]
    cases e <;> exact key

theorem State.posted_postOne (e : Eng) (s : State) (j : Fin 10) : State.Posted e s (s.postOne e j).1 := by
  unfold State.postOne
  split
  · exact (State.posted_setRun e s _).trans (State.posted_setTok e _ j _)
  · exact State.Posted.refl e s

theorem State.posted_postAll (e : Eng) : ∀ (js : List (Fin 10)) (s : State), State.Posted e s (s.postAll e js).1
  | [], s => State.Posted.refl e s
  | j :: js, s => by
    unfold State.postAll
    exact (State.posted_postOne e s j).trans (State.posted_postAll e js _)

/-- Making posts changes the FIFOs, the poster's running state and the stores' progress, and nothing else. -/
theorem State.posted_makePosts (e : Eng) (s : State) (js : List (Fin 10)) (h : s.Settled e js) :
    State.Posted e s (s.makePosts e js) := by
  unfold State.makePosts
  split
  · exact State.Posted.refl e s
  · rename_i hj
    obtain ⟨st, hd⟩ := s.drain_stores e (h.resolve_left (by rintro rfl; exact hj rfl))
    rw [hd]
    exact (State.posted_stores e s st).trans ((State.posted_postAll e _ _).trans (State.posted_setRun e _ _))

namespace State.Posted

variable {e : Eng} {s t : State} (h : State.Posted e s t)
include h

theorem mem : t.mem = s.mem := by obtain ⟨st, tok, r, rfl⟩ := h; rfl
theorem dies : t.dies = s.dies := by obtain ⟨st, tok, r, rfl⟩ := h; rfl
theorem gov : t.gov = s.gov := by obtain ⟨st, tok, r, rfl⟩ := h; rfl
theorem cur : t.cur = s.cur := by obtain ⟨st, tok, r, rfl⟩ := h; rfl
theorem now : t.now = s.now := by obtain ⟨st, tok, r, rfl⟩ := h; rfl
theorem aedty : t.aedty = s.aedty := by obtain ⟨st, tok, r, rfl⟩ := h; rfl
theorem poison : t.poison = s.poison := by obtain ⟨st, tok, r, rfl⟩ := h; rfl
theorem pubs : t.pubs = s.pubs := by obtain ⟨st, tok, r, rfl⟩ := h; rfl
theorem cell : ∃ tok r, t.cell = { s.cell with roll := { s.roll with tok := tok }, run := s.cell.run.set e r } := by
  obtain ⟨st, tok, r, rfl⟩ := h
  exact ⟨tok, r, by simp [State.cell, State.core, State.setCell, State.setCore]⟩
theorem roll : ∃ tok, t.roll = { s.roll with tok := tok } := by
  obtain ⟨tok, r, h⟩ := h.cell
  exact ⟨tok, by rw [State.roll, h]⟩
theorem path (e' : Eng) : t.path e' = s.path e' := by
  obtain ⟨tok, h⟩ := h.roll
  rw [State.path, h]; rfl
theorem x (r : Fin 32) : t.x r = s.x r := by
  obtain ⟨tok, h⟩ := h.roll
  rw [State.x, State.x, h]
theorem tile (k : Fin 16) : t.tile k = s.tile k := by
  obtain ⟨tok, h⟩ := h.roll
  rw [State.tile, State.tile, h]
theorem run (e' : Eng) (he : e' ≠ e) : t.run e' = s.run e' := by
  obtain ⟨tok, r, h⟩ := h.cell
  rw [State.run, h]
  exact Five.get_set_ne _ _ _ _ he

end State.Posted

/-- What a charge changes: what its core's domains owe and what the sample has metered. -/
theorem State.charge_shape (s : State) (cls : Fin 16) (n : Nat) :
    ∃ p k, s.charge cls n = { s.setCore { s.core with pending := p } with gov := { s.gov with ticks := k } } :=
  ⟨_, _, rfl⟩

@[simp] theorem State.cell_charge (s : State) (cls : Fin 16) (n : Nat) : (s.charge cls n).cell = s.cell := by
  simp [State.charge, State.chargeTicks, State.cell, State.core]
@[simp] theorem State.roll_charge (s : State) (cls : Fin 16) (n : Nat) : (s.charge cls n).roll = s.roll := by
  simp [State.roll]
@[simp] theorem State.path_charge (s : State) (cls : Fin 16) (n : Nat) (e : Eng) : (s.charge cls n).path e = s.path e := by
  simp [State.path]
@[simp] theorem State.run_charge (s : State) (cls : Fin 16) (n : Nat) (e : Eng) : (s.charge cls n).run e = s.run e := by
  simp [State.run]
@[simp] theorem State.mem_charge (s : State) (cls : Fin 16) (n : Nat) : (s.charge cls n).mem = s.mem := rfl
@[simp] theorem State.dies_charge (s : State) (cls : Fin 16) (n : Nat) : (s.charge cls n).dies = s.dies := rfl
@[simp] theorem State.cur_charge (s : State) (cls : Fin 16) (n : Nat) : (s.charge cls n).cur = s.cur := rfl
@[simp] theorem State.now_charge (s : State) (cls : Fin 16) (n : Nat) : (s.charge cls n).now = s.now := rfl
@[simp] theorem State.aedty_charge (s : State) (cls : Fin 16) (n : Nat) : (s.charge cls n).aedty = s.aedty := rfl
@[simp] theorem State.stores_charge (s : State) (cls : Fin 16) (n : Nat) : (s.charge cls n).stores = s.stores := rfl
@[simp] theorem State.poison_charge (s : State) (cls : Fin 16) (n : Nat) : (s.charge cls n).poison = s.poison := rfl
@[simp] theorem State.pubs_charge (s : State) (cls : Fin 16) (n : Nat) : (s.charge cls n).pubs = s.pubs := rfl

/-- What advancing changes: the engine's path and running state, and the time of the cell's progress. -/
theorem State.cell_advance (s : State) (e : Eng) (pc : Word) : ∃ r, (s.advance e pc).cell = { s.cell with
    roll := { s.roll with paths := s.roll.paths.set e { s.path e with pc := pc, walk := (s.path e).walk + 1, exts := [] } },
    run := s.cell.run.set e r, progress := s.now } := ⟨_, by simp [State.advance, State.setPath, State.setRoll, State.setRun]; rfl⟩

@[simp] theorem State.mem_advance (s : State) (e : Eng) (pc : Word) : (s.advance e pc).mem = s.mem := rfl
@[simp] theorem State.dies_advance (s : State) (e : Eng) (pc : Word) : (s.advance e pc).dies = s.dies := rfl
@[simp] theorem State.cur_advance (s : State) (e : Eng) (pc : Word) : (s.advance e pc).cur = s.cur := rfl
@[simp] theorem State.now_advance (s : State) (e : Eng) (pc : Word) : (s.advance e pc).now = s.now := rfl
@[simp] theorem State.aedty_advance (s : State) (e : Eng) (pc : Word) : (s.advance e pc).aedty = s.aedty := rfl
@[simp] theorem State.stores_advance (s : State) (e : Eng) (pc : Word) : (s.advance e pc).stores = s.stores := rfl
@[simp] theorem State.poison_advance (s : State) (e : Eng) (pc : Word) : (s.advance e pc).poison = s.poison := rfl
@[simp] theorem State.pubs_advance (s : State) (e : Eng) (pc : Word) : (s.advance e pc).pubs = s.pubs := rfl
@[simp] theorem State.gov_advance (s : State) (e : Eng) (pc : Word) : (s.advance e pc).gov = s.gov := rfl

theorem State.roll_advance (s : State) (e : Eng) (pc : Word) : (s.advance e pc).roll = { s.roll with
    paths := s.roll.paths.set e { s.path e with pc := pc, walk := (s.path e).walk + 1, exts := [] } } := by
  obtain ⟨r, h⟩ := s.cell_advance e pc
  rw [State.roll, h]

theorem State.path_advance (s : State) (e e' : Eng) (pc : Word) : (s.advance e pc).path e' =
    if e' = e then { s.path e with pc := pc, walk := (s.path e).walk + 1, exts := [] } else s.path e' := by
  rw [State.path, s.roll_advance]
  split
  · rename_i h; rw [h]; exact Five.get_set _ _ _
  · rename_i h; exact Five.get_set_ne _ _ _ _ h

theorem State.run_advance_ne (s : State) (e e' : Eng) (pc : Word) (h : e' ≠ e) : (s.advance e pc).run e' = s.run e' := by
  obtain ⟨r, hr⟩ := s.cell_advance e pc
  rw [State.run, hr]
  exact Five.get_set_ne _ _ _ _ h

@[simp] theorem State.cell_advance_flight (s : State) (e : Eng) (pc : Word) : (s.advance e pc).cell.flight = s.cell.flight := by
  obtain ⟨r, h⟩ := s.cell_advance e pc
  rw [h]

/-- A retired word: its posts are made after the charge and the walk. -/
theorem State.retireTo_posted (s : State) (e : Eng) (t : Tok) (cls : Fin 16) (n : Nat) (pc : Word)
    (h : s.Settled e (postsOf e t)) :
    State.Posted e ((s.charge cls n).advance e pc) (s.retireTo e t cls n pc) := State.posted_makePosts e _ _ (by
    simpa [State.Settled, State.flight, State.cell_advance_flight] using h)

/-- The paths after a word retires. -/
theorem State.path_retireTo (s : State) (e e' : Eng) (t : Tok) (cls : Fin 16) (n : Nat) (pc : Word)
    (h : s.Settled e (postsOf e t)) :
    (s.retireTo e t cls n pc).path e' =
      if e' = e then { s.path e with pc := pc, walk := (s.path e).walk + 1, exts := [] } else s.path e' := by
  rw [(s.retireTo_posted e t cls n pc h).path, State.path_advance]; simp

/-- A retired word's charge, walk and posts change no more of what a rollback restores than the path and the FIFOs. -/
theorem State.roll_retireTo (s : State) (e : Eng) (t : Tok) (cls : Fin 16) (n : Nat) (pc : Word)
    (h : s.Settled e (postsOf e t)) :
    ∃ tok, (s.retireTo e t cls n pc).roll = { s.roll with
      paths := s.roll.paths.set e { s.path e with pc := pc, walk := (s.path e).walk + 1, exts := [] }, tok := tok } := by
  obtain ⟨tok, h'⟩ := (s.retireTo_posted e t cls n pc h).roll
  exact ⟨tok, by rw [h', State.roll_advance]; simp⟩

/-- The cell after a word retires. -/
theorem State.cell_retireTo (s : State) (e : Eng) (t : Tok) (cls : Fin 16) (n : Nat) (pc : Word)
    (h : s.Settled e (postsOf e t)) :
    ∃ tok r, (s.retireTo e t cls n pc).cell = { s.cell with
      roll := { s.roll with
        paths := s.roll.paths.set e { s.path e with pc := pc, walk := (s.path e).walk + 1, exts := [] }, tok := tok },
      run := s.cell.run.set e r, progress := s.now } := by
  obtain ⟨tok, r, h1⟩ := (s.retireTo_posted e t cls n pc h).cell
  obtain ⟨r', h'⟩ := (s.charge cls n).cell_advance e pc
  exact ⟨tok, r, by rw [h1, State.roll_advance, h']; simp⟩

@[simp] theorem State.mem_retireTo (s : State) (e : Eng) (t : Tok) (cls : Fin 16) (n : Nat) (pc : Word)
    (h : s.Settled e (postsOf e t)) :
    (s.retireTo e t cls n pc).mem = s.mem := (s.retireTo_posted e t cls n pc h).mem
@[simp] theorem State.dies_retireTo (s : State) (e : Eng) (t : Tok) (cls : Fin 16) (n : Nat) (pc : Word)
    (h : s.Settled e (postsOf e t)) :
    (s.retireTo e t cls n pc).dies = s.dies := (s.retireTo_posted e t cls n pc h).dies
@[simp] theorem State.cur_retireTo (s : State) (e : Eng) (t : Tok) (cls : Fin 16) (n : Nat) (pc : Word)
    (h : s.Settled e (postsOf e t)) :
    (s.retireTo e t cls n pc).cur = s.cur := (s.retireTo_posted e t cls n pc h).cur
@[simp] theorem State.now_retireTo (s : State) (e : Eng) (t : Tok) (cls : Fin 16) (n : Nat) (pc : Word)
    (h : s.Settled e (postsOf e t)) :
    (s.retireTo e t cls n pc).now = s.now := (s.retireTo_posted e t cls n pc h).now
@[simp] theorem State.aedty_retireTo (s : State) (e : Eng) (t : Tok) (cls : Fin 16) (n : Nat) (pc : Word)
    (h : s.Settled e (postsOf e t)) :
    (s.retireTo e t cls n pc).aedty = s.aedty := (s.retireTo_posted e t cls n pc h).aedty
@[simp] theorem State.poison_retireTo (s : State) (e : Eng) (t : Tok) (cls : Fin 16) (n : Nat) (pc : Word)
    (h : s.Settled e (postsOf e t)) :
    (s.retireTo e t cls n pc).poison = s.poison := (s.retireTo_posted e t cls n pc h).poison
@[simp] theorem State.x_retireTo (s : State) (e : Eng) (t : Tok) (cls : Fin 16) (n : Nat) (pc : Word)
    (h : s.Settled e (postsOf e t)) (r : Fin 32) :
    (s.retireTo e t cls n pc).x r = s.x r := by
  obtain ⟨tok, h'⟩ := s.roll_retireTo e t cls n pc h
  rw [State.x, State.x, h']
@[simp] theorem State.tile_retireTo (s : State) (e : Eng) (t : Tok) (cls : Fin 16) (n : Nat) (pc : Word)
    (h : s.Settled e (postsOf e t)) (k : Fin 16) :
    (s.retireTo e t cls n pc).tile k = s.tile k := by
  obtain ⟨tok, h'⟩ := s.roll_retireTo e t cls n pc h
  rw [State.tile, State.tile, h']

end Sys2Proof.Machine
end

