-- ==== Sys2Proof/Laws/Read.lean ====
section
/-! SUPPORT. What taking tokens and reading operands can do to the state. -/

namespace Sys2Proof.Machine

/-- What an engine's reads change: the queues it pops, the FIFOs it takes from, and its own beat and knowledge. -/
def State.Read (e : Eng) (s t : State) : Prop :=
  ∃ q tok b k, t = s.setCell { s.cell with
    roll := { s.roll with q := q, tok := tok }, run := s.cell.run.set e { s.run e with beat := b, known := k } }

/-- An engine's running state put back is no change. -/
theorem State.run_back (s : State) (e : Eng) :
    s.cell.run.set e { s.run e with beat := (s.run e).beat, known := (s.run e).known } = s.cell.run :=
  Five.set_self s.cell.run e

namespace State.Read

theorem refl (e : Eng) (s : State) : State.Read e s s :=
  ⟨s.roll.q, s.roll.tok, (s.run e).beat, (s.run e).known, by
    rw [State.run_back]; exact (State.setCell_self s).symm⟩

variable {e : Eng} {s t u : State}

theorem trans (h : State.Read e s t) (h' : State.Read e t u) : State.Read e s u := by
  obtain ⟨q, tok, b, k, rfl⟩ := h
  obtain ⟨q', tok', b', k', rfl⟩ := h'
  exact ⟨q', tok', b', k', by simp [State.roll, State.run, Five.get_set]⟩

variable (h : State.Read e s t)
include h

theorem cell : ∃ q tok b k, t.cell = { s.cell with
    roll := { s.roll with q := q, tok := tok }, run := s.cell.run.set e { s.run e with beat := b, known := k } } := by
  obtain ⟨q, tok, b, k, rfl⟩ := h
  exact ⟨q, tok, b, k, by simp⟩
theorem mem : t.mem = s.mem := by obtain ⟨q, tok, b, k, rfl⟩ := h; rfl
theorem dies : t.dies = s.dies := by obtain ⟨q, tok, b, k, rfl⟩ := h; rfl
theorem gov : t.gov = s.gov := by obtain ⟨q, tok, b, k, rfl⟩ := h; rfl
theorem cur : t.cur = s.cur := by obtain ⟨q, tok, b, k, rfl⟩ := h; rfl
theorem now : t.now = s.now := by obtain ⟨q, tok, b, k, rfl⟩ := h; rfl
theorem aedty : t.aedty = s.aedty := by obtain ⟨q, tok, b, k, rfl⟩ := h; rfl
theorem stores : t.stores = s.stores := by obtain ⟨q, tok, b, k, rfl⟩ := h; rfl
theorem poison : t.poison = s.poison := by obtain ⟨q, tok, b, k, rfl⟩ := h; rfl
theorem pubs : t.pubs = s.pubs := by obtain ⟨q, tok, b, k, rfl⟩ := h; rfl
theorem segs : t.segs = s.segs := by obtain ⟨q, tok, b, k, rfl⟩ := h; rfl
theorem draining : t.draining = s.draining := by obtain ⟨q, tok, b, k, rfl⟩ := h; rfl
theorem peerStores : t.peerStores = s.peerStores := by obtain ⟨q, tok, b, k, rfl⟩ := h; rfl
theorem cmdOwners : t.cmdOwners = s.cmdOwners := by obtain ⟨q, tok, b, k, rfl⟩ := h; rfl
theorem roll : ∃ q tok, t.roll = { s.roll with q := q, tok := tok } := by
  obtain ⟨q, tok, b, k, hc⟩ := h.cell
  exact ⟨q, tok, by rw [State.roll, hc]⟩
theorem path (e' : Eng) : t.path e' = s.path e' := by
  obtain ⟨q, tok, hr⟩ := h.roll
  rw [State.path, hr]; rfl
theorem x (r : Fin 32) : t.x r = s.x r := by
  obtain ⟨q, tok, hr⟩ := h.roll
  rw [State.x, State.x, hr]
theorem tile (k : Fin 16) : t.tile k = s.tile k := by
  obtain ⟨q, tok, hr⟩ := h.roll
  rw [State.tile, State.tile, hr]
theorem flight : t.flight = s.flight := by
  obtain ⟨q, tok, b, k, hc⟩ := h.cell
  rw [State.flight, hc]; rfl
theorem misc : t.misc = s.misc := by
  obtain ⟨q, tok, b, k, hc⟩ := h.cell
  rw [State.misc, hc]; rfl
theorem ctx : t.cell.ctx = s.cell.ctx := by
  obtain ⟨q, tok, b, k, hc⟩ := h.cell
  rw [hc]
theorem traps : t.cell.traps = s.cell.traps := by
  obtain ⟨q, tok, b, k, hc⟩ := h.cell
  rw [hc]
theorem ident : t.cell.ident = s.cell.ident := by
  obtain ⟨q, tok, b, k, hc⟩ := h.cell
  rw [hc]
theorem raised : t.cell.raised = s.cell.raised := by
  obtain ⟨q, tok, b, k, hc⟩ := h.cell
  rw [hc]
theorem run (e' : Eng) (he : e' ≠ e) : t.run e' = s.run e' := by
  obtain ⟨q, tok, b, k, hc⟩ := h.cell
  rw [State.run, hc]
  exact Five.get_set_ne _ _ _ _ he
theorem hostPc (e' : Eng) : t.hostPc e' = s.hostPc e' := by rw [State.hostPc, State.hostPc, h.path]
theorem nextPc (e' : Eng) : t.nextPc e' = s.nextPc e' := by rw [State.nextPc, State.nextPc, h.path]
theorem xBusy (r : Fin 32) : t.xBusy r = s.xBusy r := by rw [State.xBusy, State.xBusy, h.flight]

end State.Read

theorem State.read_receive (e : Eng) (s : State) (b : BitVec 48) (k : Known) : State.Read e s (s.receive e b k) :=
  ⟨s.roll.q, s.roll.tok, _, _, rfl⟩

theorem State.read_setQ (e : Eng) (s : State) (q : Fin 16) (l : List QEntry) : State.Read e s (s.setQ q l) :=
  ⟨s.roll.q.set q l, s.roll.tok, (s.run e).beat, (s.run e).known, by rw [State.run_back]; rfl⟩

theorem State.read_setTok (e : Eng) (s : State) (j : Fin 10) (l : List Token) : State.Read e s (s.setTok j l) :=
  ⟨s.roll.q, s.roll.tok.set j l, (s.run e).beat, (s.run e).known, by rw [State.run_back]; rfl⟩

/-- Taking tokens is a read. -/
theorem State.read_takeAll (e : Eng) : ∀ (js : List (Fin 10)) (s t : State) (acc l), s.takeAll e js acc = .ok (l, t) →
    State.Read e s t
  | [], s, t, acc, l, h => by
    simp only [State.takeAll, Except.ok.injEq, Prod.mk.injEq] at h
    rw [h.2]; exact State.Read.refl e t
  | j :: js, s, t, acc, l, h => by
    obtain ⟨⟨x, s1⟩, h1, h2⟩ := bind_eq_ok h
    refine State.Read.trans ?_ (State.read_takeAll e js s1 t _ l h2)
    unfold State.takeToken at h1
    split at h1
    · exact absurd h1 (by simp)
    · simp only [Except.ok.injEq, Prod.mk.injEq] at h1
      rw [← h1.2]
      exact (State.read_setTok e s _ _).trans (State.read_receive e _ _ _)

/-- A word that is admitted has taken its tokens, and no more. -/
theorem State.Admits.read {s u : State} {e : Eng} {t : Tok} {uses : List (Fin 16 × Bool)} (h : s.Admits e t uses u) :
    State.Read e s u := by
  obtain ⟨_, l, h⟩ := h
  exact State.read_takeAll e _ s u [] l h

/-- A pop is a read. -/
theorem State.read_popE {e : Eng} {s t : State} {q : Fin 16} {x : QEntry} (h : s.popE e q = .ok (x, t)) : State.Read e s t := by
  unfold State.popE at h
  obtain ⟨_, _, h⟩ := bind_eq_ok h
  split at h
  · exact absurd h (by simp)
  · split at h
    · simp only [Except.ok.injEq, Prod.mk.injEq] at h
      rw [← h.2]
      exact (State.read_setQ e s _ _).trans (State.read_receive e _ _ _)
    · exact absurd h (by simp)

/-- A pop's value is a read. -/
theorem State.read_pop {e : Eng} {s t : State} {q : Fin 16} {v : Word} (h : s.pop e q = .ok (v, t)) : State.Read e s t := by
  obtain ⟨⟨x, u⟩, h1, h2⟩ := bind_eq_ok h
  simp only [Except.ok.injEq, Prod.mk.injEq] at h2
  rw [← h2.2]; exact State.read_popE h1

/-- A peek is a read. -/
theorem State.read_peekQ {e : Eng} {s t : State} {q : Fin 16} {v : Word} (h : s.peekQ e q = .ok (v, t)) : State.Read e s t := by
  unfold State.peekQ at h
  obtain ⟨_, _, h⟩ := bind_eq_ok h
  split at h
  · exact absurd h (by simp)
  · split at h
    · simp only [Except.ok.injEq, Prod.mk.injEq] at h
      rw [← h.2]
      exact State.read_receive e _ _ _
    · exact absurd h (by simp)

/-- A source operand is a read of A. -/
theorem State.read_src {s t : State} {a : Src} {v : Word} (h : s.src a = .ok (v, t)) : State.Read .A s t := by
  cases a with
  | x r =>
    simp only [State.src] at h
    split at h
    · exact absurd h (by simp)
    · simp only [Except.ok.injEq, Prod.mk.injEq] at h
      rw [← h.2]; exact State.Read.refl .A s
  | pop q => exact State.read_pop h
  | peek q => exact State.read_peekQ h

/-- A destination read as a source is a read of A. -/
theorem State.read_dstRead {s t : State} {d : Dst} {v : Word} (h : s.dstRead d = .ok (v, t)) : State.Read .A s t := by
  cases d with
  | x r =>
    simp only [State.dstRead] at h
    split at h
    · exact absurd h (by simp)
    · simp only [Except.ok.injEq, Prod.mk.injEq] at h
      rw [← h.2]; exact State.Read.refl .A s
  | push q => exact State.read_pop h

/-- A CD source operand is a read of its engine. -/
theorem State.read_qsrc {e : Eng} {s t : State} {q : QSrc} {v : Word} {l} (h : s.qsrc e q = .ok (v, l, t)) :
    State.Read e s t := by
  cases q with
  | pop q =>
    obtain ⟨⟨x, u⟩, h1, h2⟩ := bind_eq_ok h
    simp only [Except.ok.injEq, Prod.mk.injEq] at h2
    rw [← h2.2.2]; exact State.read_popE h1
  | peek q =>
    obtain ⟨⟨x, u⟩, h1, h2⟩ := bind_eq_ok h
    simp only [Except.ok.injEq, Prod.mk.injEq] at h2
    rw [← h2.2.2]; exact State.read_peekQ h1

end Sys2Proof.Machine
end

