-- ==== Sys2Proof/Laws/Fault.lean ====
section
/-! SUPPORT. What taking an exception does: the entry of the trap handler, and the hold. -/

namespace Sys2Proof.Machine

/-- Withdrawing a request for ramp slots changes the dies' requests only. -/
theorem State.dropRslot_shape (s : State) : ∃ d, s.dropRslot = { s with dies := d } := by
  unfold State.dropRslot
  dsimp only
  split
  · exact ⟨_, rfl⟩
  · exact ⟨s.dies, rfl⟩

/-- A state whose cell is written as it stands. -/
theorem State.setCell_cell (s : State) : s.setCell s.cell = s := by
  have h : s.cores.set s.cur.core s.cores[s.cur.core] = s.cores := Vector.set_getElem_self _
  show { s with cores := s.cores.set s.cur.core s.cores[s.cur.core] } = s
  rw [h]

/-- What the watchdog does not count of a wait for room moves the progress of the cell only. -/
theorem State.uncountRoom_shape (s : State) (e : Eng) (w : Why) : ∃ p, s.uncountRoom e w = s.setCell { s.cell with progress := p } := by
  unfold State.uncountRoom
  split
  · split
    · exact ⟨s.cell.progress, s.setCell_cell.symm⟩
    · exact ⟨_, rfl⟩
  · exact ⟨s.cell.progress, s.setCell_cell.symm⟩

/-- What the watchdog does not count of a bar.wait moves the progress of the cell and ends the note of it only. -/
theorem State.uncountWait_shape (s : State) :
    ∃ p w, s.uncountWait = s.setCell { s.cell with progress := p, misc := { s.misc with waitTimed := w } } := by
  unfold State.uncountWait
  split
  · exact ⟨s.cell.progress, s.misc.waitTimed, s.setCell_cell.symm⟩
  · exact ⟨_, none, rfl⟩

/-- Forgetting the stalls changes the engines' running state, the requests for ramp slots, and what the watchdog counts only. -/
theorem State.clearStalls_shape (s : State) :
    ∃ d r p w, s.clearStalls = { s with dies := d }.setCell
      { s.cell with run := r, progress := p, misc := { s.misc with waitTimed := w } } := by
  obtain ⟨d, h⟩ := s.dropRslot_shape
  obtain ⟨p, h1⟩ := State.uncountRoom_shape { s with dies := d } .A .hold
  obtain ⟨p', w, h2⟩ := (State.setCell { s with dies := d } { s.cell with progress := p }).uncountWait_shape
  refine ⟨d, ⟨{ s.cell.run.a with stall := none }, { s.cell.run.c with stall := none }, { s.cell.run.m with stall := none },
    { s.cell.run.v with stall := none }, { s.cell.run.f with stall := none }⟩, p', w, ?_⟩
  unfold State.clearStalls
  rw [h, h1]
  exact (congrArg (fun u : State => u.setCell { u.cell with run := ⟨{ u.cell.run.a with stall := none },
    { u.cell.run.c with stall := none }, { u.cell.run.m with stall := none }, { u.cell.run.v with stall := none },
    { u.cell.run.f with stall := none }⟩ }) h2).trans (by simp [State.setCell, State.setCore, State.cell, State.core, State.misc])

@[simp] theorem State.clearStalls_mem (s : State) : s.clearStalls.mem = s.mem := by
  obtain ⟨d, r, p, w, h⟩ := s.clearStalls_shape; rw [h]; rfl
@[simp] theorem State.clearStalls_stores (s : State) : s.clearStalls.stores = s.stores := by
  obtain ⟨d, r, p, w, h⟩ := s.clearStalls_shape; rw [h]; rfl
@[simp] theorem State.clearStalls_cur (s : State) : s.clearStalls.cur = s.cur := by
  obtain ⟨d, r, p, w, h⟩ := s.clearStalls_shape; rw [h]; rfl
@[simp] theorem State.clearStalls_now (s : State) : s.clearStalls.now = s.now := by
  obtain ⟨d, r, p, w, h⟩ := s.clearStalls_shape; rw [h]; rfl
@[simp] theorem State.clearStalls_aedty (s : State) : s.clearStalls.aedty = s.aedty := by
  obtain ⟨d, r, p, w, h⟩ := s.clearStalls_shape; rw [h]; rfl
theorem State.clearStalls_cell (s : State) :
    ∃ r p w, s.clearStalls.cell = { s.cell with run := r, progress := p, misc := { s.misc with waitTimed := w } } := by
  obtain ⟨d, r, p, w, h⟩ := s.clearStalls_shape
  exact ⟨r, p, w, by rw [h]; simp⟩
@[simp] theorem State.clearStalls_roll (s : State) : s.clearStalls.roll = s.roll := by
  obtain ⟨r, p, w, h⟩ := s.clearStalls_cell; rw [State.roll, h]; rfl
@[simp] theorem State.clearStalls_traps (s : State) : s.clearStalls.cell.traps = s.cell.traps := by
  obtain ⟨r, p, w, h⟩ := s.clearStalls_cell; rw [h]
@[simp] theorem State.clearStalls_status (s : State) : s.clearStalls.cell.status = s.cell.status := by
  obtain ⟨r, p, w, h⟩ := s.clearStalls_cell; rw [h]

/-- A record in the fault page is a store. -/
theorem State.stored_writeFaultPage (s : State) (off : Nat) (r : BitVec 512) : State.Stored s (s.writeFaultPage off r) :=
  (s.stored_perform _ _).trans (State.stored_pokeHome _ _ _ _)

/-- The bytes of a value are as many as asked. -/
@[simp] theorem leBytes_length : ∀ (n v : Nat), (leBytes n v).length = n
  | 0, _ => rfl
  | n + 1, v => by rw [leBytes, List.length_cons, leBytes_length n]

/-- Without tracing no record is written. -/
theorem State.autoTrace_off (s : State) (h : s.misc.trcauto = false) (ty : Nat) (e : Eng) (pc v : Word) :
    s.autoTrace ty e pc v = s := by
  simp [State.autoTrace, h]

/-- The EPC registers saved: nothing else of the cell changes. -/
theorem State.cell_saveEpc (s : State) : s.saveEpc.cell = { s.cell with traps := { s.cell.traps with
    epc := ⟨epcOf (s.path .A).pc, epcOf (s.path .C).pc, epcOf (s.path .M).pc, epcOf (s.path .V).pc,
      epcOf (s.path .F).pc⟩ } } := by
  rw [State.saveEpc, State.cell_setCell]; rfl

/-- ENTERING THE TRAP HANDLER (R286): what the cell holds after it. -/
theorem State.cell_intoHandler (s : State) (f : Flt) (eng : Eng) (pc h : Word) :
    ∃ r p w, (s.intoHandler f eng pc h).cell = { s.cell with
      traps := { s.cell.traps with cause := causeWord f eng s.supv, aside := some s.roll.paths },
      raised := none, run := r, progress := p, misc := { s.misc with waitTimed := w }, roll := { s.roll with paths := handlerPaths h } } := by
  have hw := (s.stored_writeFaultPage 0x200 (trapRecord f eng pc (s.run eng).beat s.supv)).cell
  unfold State.intoHandler
  dsimp only
  generalize s.writeFaultPage 0x200 (trapRecord f eng pc (s.run eng).beat s.supv) = u at hw
  obtain ⟨r, p, w, hr⟩ := (u.setCell { u.cell with
    traps := { u.cell.traps with cause := causeWord f eng u.supv, aside := some u.roll.paths }, raised := none }).clearStalls_cell
  refine ⟨r, p, w, ?_⟩
  rw [State.startAll, State.cell_setRoll, hr, State.clearStalls_roll]
  simp only [State.cell_setCell, State.roll, State.supv, State.misc, hw]

/-- The record stands in the fault page when the handler starts (R143, R286). -/
theorem State.peek_intoHandler (s : State) (f : Flt) (eng : Eng) (pc h : Word) (hm : s.MemWf) :
    (s.intoHandler f eng pc h).peek .device (locPad s.cur.core 0x17F200) 64
      = recordBytes (trapRecord f eng pc (s.run eng).beat s.supv) := by
  have hb : (recordBytes (trapRecord f eng pc (s.run eng).beat s.supv)).length = 64 := leBytes_length _ _
  have h1 := State.peek_pokeHome (hm.perform (fun p =>
      locPad s.cur.core (0x17F000 + 0x200) ≤ p.loc && p.loc < locPad s.cur.core (0x17F000 + 0x200) + 64) 5) .device .device
    (by intro k e a; exact Obs.noConfusion) (locPad s.cur.core (0x17F000 + 0x200))
    (recordBytes (trapRecord f eng pc (s.run eng).beat s.supv))
  rw [hb] at h1
  rw [← h1]
  have key : ∀ (a b : State) (o : Obs) (x n : Nat), a.mem = b.mem → a.stores = b.stores → a.peek o x n = b.peek o x n := by
    intro a b o x n hmem hst
    have : ∀ n d, a.peekFrom o x d n = b.peekFrom o x d n := by
      intro n
      induction n with
      | zero => intro d; rfl
      | succ n ih => intro d; simp only [State.peekFrom, ih, State.peekByte, hmem, hst]
    exact this n 0
  apply key <;> simp [State.intoHandler, State.startAll, State.writeFaultPage]

/-- Every engine at the first prefix of its chain: the paths alone change (R41). -/
theorem State.cell_rewind (s : State) : s.rewind.cell = { s.cell with roll := { s.roll with paths :=
    ⟨(s.path .A).rewind, (s.path .C).rewind, (s.path .M).rewind, (s.path .V).rewind, (s.path .F).rewind⟩ } } := by
  rw [State.rewind, State.cell_setRoll]; rfl

/-- A fault whose handler is there, whose route leads to it, and which is no double fault, enters it (R286). -/
theorem State.enterTrap_handler (s : State) (f : Flt) (eng : Eng) (pc h : Word) (htrc : s.misc.trcauto = false)
    (hact : s.cell.traps.active = false) (hent : s.trapEntry = some h) (hH : f.kind.routeH = true)
    (hvec : s.cell.traps.vec.getLsbD f.kind.num = true) :
    s.enterTrap f eng pc = s.rewind.saveEpc.intoHandler f eng pc h := by
  have h0 : s.rewind.cell.traps = s.cell.traps := by rw [State.cell_rewind]
  have h1 : s.rewind.saveEpc.trapEntry = some h := by rw [← hent]; simp [State.trapEntry, State.cell_saveEpc, State.cell_rewind]
  have h2 : s.rewind.saveEpc.cell.traps.vec = s.cell.traps.vec := by rw [State.cell_saveEpc, State.cell_rewind]
  unfold State.enterTrap
  dsimp only
  rw [State.traceFault, s.autoTrace_off htrc]
  simp [hact, h0, h1, h2, hH, hvec]

end Sys2Proof.Machine
end

