-- ==== Sys2Proof/Laws/Image.lean ====
section
/-! SUPPORT. How long a switch image is (R323), and that the checks of an access change no byte of memory. -/

namespace Sys2Proof.Machine

theorem flatMap_length {α β : Type} (f : α → List β) (n : Nat) (hf : ∀ x, (f x).length = n) (l : List α) :
    (l.flatMap f).length = l.length * n := by
  induction l with
  | nil => simp
  | cons a l ih => rw [List.flatMap_cons, List.length_append, hf, ih, List.length_cons, Nat.succ_mul, Nat.add_comm]

@[simp] theorem freeBytes_length (draw : Nat) : ∀ n off, (freeBytes draw off n).length = n
  | 0, _ => rfl
  | n + 1, off => by rw [freeBytes, List.length_cons, freeBytes_length draw n]

@[simp] theorem tileImage_length (t : Tile) : (tileImage t).length = 4096 := by
  rw [tileImage, flatMap_length _ 4 fun w => leBytes_length 4 _]; simp

@[simp] theorem templateBytes_length (t : Vector (Option (BitVec 256)) 64) : (templateBytes t).length = 2048 := by
  rw [templateBytes, flatMap_length _ 32 fun w => leBytes_length 32 _]; simp

@[simp] theorem writtenBytes_length (p : Option Pub) : (writtenBytes p).length = 8192 := leBytes_length _ _

/-- The image of a cell whose function registers fit the pool section: the fixed sections and the checkpoint copy. -/
theorem State.imageOf_length (s : State) (draw : Nat) (hp : (poolBytes s.cell.roll.f).length ≤ 0x9000)
    (hb : (s.peek .device (locPad s.cur.core 0) 0x180000).length = 0x180000) :
    (s.imageOf draw).length = 0x1ED000 + s.cell.ckBytes.length := by
  have hv : (s.cell.roll.v.toList.flatMap tileImage).length = 65536 := by rw [flatMap_length _ 4096 tileImage_length]; simp
  have ha : (s.cell.acc.toList.flatMap tileImage).length = 262144 := by rw [flatMap_length _ 4096 tileImage_length]; simp
  have ht : (Eng.all.flatMap fun e => templateBytes (s.cell.tmpl.get e)).length = 10240 := by
    rw [flatMap_length _ 2048 fun e => templateBytes_length _]; rfl
  have hw : ((List.finRange 8).flatMap fun k => writtenBytes (s.pubOf k)).length = 65536 := by
    rw [flatMap_length _ 8192 fun k => writtenBytes_length _]; simp
  have hr : ∀ h, (recordBytes h).length = 64 := fun h => leBytes_length _ _
  rw [State.imageOf, State.imageBody]
  simp only [List.length_append, freeBytes_length, hv, ha, ht, hw, hr, hb]
  omega

theorem State.peek_length (s : State) (o : Obs) (x n : Nat) : (s.peek o x n).length = n := by
  have : ∀ n d, (s.peekFrom o x d n).length = n := by
    intro n
    induction n with
    | zero => intro d; rfl
    | succ n ih => intro d; rw [State.peekFrom, List.length_cons, ih]
  exact this n 0

@[simp] theorem State.fillMicro_mem (s : State) (k : Option CoreId) (t : TlbEntry) : (s.fillMicro k t).mem = s.mem := by
  cases k <;> rfl

@[simp] theorem State.fillDie_mem (s : State) (d : DieId) (t : TlbEntry) : (s.fillDie d t).mem = s.mem := by
  rw [State.fillDie]; split <;> rfl

/-- A translation changes no byte of memory. -/
theorem State.translate_mem {s u : State} {k : Option CoreId} {die : DieId} {d : BitVec 16} {p : Word} {a : Acc} {x : Nat}
    (h : s.translate k die d p a = .ok (x, u)) : u.mem = s.mem := by
  simp only [State.translate] at h
  split at h
  · cases h
  · split at h
    · next t v hc =>
      have hv : v.mem = s.mem := by
        rw [State.cached] at hc
        split at hc
        · cases hc; rfl
        · simp only [Option.map_eq_some_iff, Prod.mk.injEq] at hc
          obtain ⟨_, _, _, rfl⟩ := hc
          exact s.fillMicro_mem _ _
      revert h
      cases t.permit p a <;> cases s.physCheck (t.phys (p.toNat % 2 ^ 57)) p a <;> intro h <;> cases h
      exact hv
    · revert h
      cases s.walkTables d (p.toNat % 2 ^ 57) p a with
      | error e => intro h; cases h
      | ok t =>
        dsimp only [bind, Except.bind]
        cases t.permit p a <;> cases s.physCheck (t.phys (p.toNat % 2 ^ 57)) p a <;> intro h <;> cases h
        rw [State.fillMicro_mem, State.fillDie_mem]

/-- The check of a piece of a range changes no byte of memory. -/
theorem State.pieceC_mem {s u : State} {g : Agent} {p : Word} {n : Nat} {a : Acc} {x : Nat} (h : s.pieceC g p n a = .ok (x, u)) :
    u.mem = s.mem := by
  simp only [State.pieceC] at h
  split at h
  · split at h <;> cases h; rfl
  · simp only [State.remotePad] at h
    split at h
    · cases h
    · split at h
      · cases h
      · repeat' (first | cases h | split at h)
        all_goals rfl
  · split at h
    · cases h
    · revert h
      cases s.regionCheck g.domain g.supv (offOf p) n (accFlt .protection 5 p a) <;> intro h <;> cases h; rfl
  · exact State.translate_mem h
  · cases h

/-- The check of a range changes no byte of memory. -/
theorem State.range_mem {s u : State} {g : Agent} {p : Word} {n : Nat} {a : Acc} {ps : List (Nat × Nat)}
    (h : s.range g p n a = .ok (ps, u)) : u.mem = s.mem := by
  suffices H : ∀ (f : Nat) (s u : State) (p : Word) (n : Nat) (ps : List (Nat × Nat)), s.rangeC g p n a f = .ok (ps, u) → u.mem = s.mem from
    H _ s u p n ps h
  intro f
  induction f with
  | zero => intro s u p n ps h; cases h; rfl
  | succ f ih =>
    intro s u p n ps h
    rw [State.rangeC] at h
    split at h
    · cases h; rfl
    · revert h
      dsimp only [bind, Except.bind]
      generalize (if spaceOf p = 0 || spaceOf p = 0xA then Nat.min n (65536 - p.toNat % 65536) else n) = k
      cases hp : s.pieceC g p k a with
      | error e => intro h; cases h
      | ok r =>
        obtain ⟨x, v⟩ := r
        dsimp only
        cases hr : v.rangeC g (p + BitVec.ofNat 64 k) (n - k) a f with
        | error e => intro h; cases h
        | ok q =>
          obtain ⟨rest, w⟩ := q
          intro h
          cases h
          rw [ih _ _ _ _ _ hr, State.pieceC_mem hp]

end Sys2Proof.Machine
end

