-- ==== Sys2Proof/Laws/PerInstr.lean ====
section
/-! SUPPORT. Statements made per instruction. -/

namespace Sys2Proof.Laws.EventsHaveNoWord
open Sys2Proof Sys2Proof.Machine

/-- A step of the opcode table that no text holds has neither a word nor a template form. -/
def Statement (i : Instr) : Prop := isEvent i = true → encode i = none ∧ encodeImage i = none

/-- What is no event is free of the statement. -/
theorem of_word {i : Instr} (h : isEvent i = false) : Statement i := fun he => absurd he (by rw [h]; decide)

theorem add (t : Tok) (d : Dst) (a b : Src) : Statement (.add t d a b) := of_word rfl
theorem sub (t : Tok) (d : Dst) (a b : Src) : Statement (.sub t d a b) := of_word rfl
theorem mul (t : Tok) (d : Dst) (a b : Src) : Statement (.mul t d a b) := of_word rfl
theorem mulh (t : Tok) (d : Dst) (a b : Src) : Statement (.mulh t d a b) := of_word rfl
theorem mulhn (t : Tok) (d : Dst) (a b : Src) : Statement (.mulhn t d a b) := of_word rfl
theorem div (t : Tok) (d : Dst) (a b : Src) : Statement (.div t d a b) := of_word rfl
theorem divn (t : Tok) (d : Dst) (a b : Src) : Statement (.divn t d a b) := of_word rfl
theorem rem (t : Tok) (d : Dst) (a b : Src) : Statement (.rem t d a b) := of_word rfl
theorem remn (t : Tok) (d : Dst) (a b : Src) : Statement (.remn t d a b) := of_word rfl
theorem and (t : Tok) (d : Dst) (a b : Src) : Statement (.and t d a b) := of_word rfl
theorem or (t : Tok) (d : Dst) (a b : Src) : Statement (.or t d a b) := of_word rfl
theorem xor (t : Tok) (d : Dst) (a b : Src) : Statement (.xor t d a b) := of_word rfl
theorem andn (t : Tok) (d : Dst) (a b : Src) : Statement (.andn t d a b) := of_word rfl
theorem shl (t : Tok) (d : Dst) (a b : Src) : Statement (.shl t d a b) := of_word rfl
theorem shr (t : Tok) (d : Dst) (a b : Src) : Statement (.shr t d a b) := of_word rfl
theorem sra (t : Tok) (d : Dst) (a b : Src) : Statement (.sra t d a b) := of_word rfl
theorem min (t : Tok) (d : Dst) (a b : Src) : Statement (.min t d a b) := of_word rfl
theorem max (t : Tok) (d : Dst) (a b : Src) : Statement (.max t d a b) := of_word rfl
theorem minn (t : Tok) (d : Dst) (a b : Src) : Statement (.minn t d a b) := of_word rfl
theorem maxn (t : Tok) (d : Dst) (a b : Src) : Statement (.maxn t d a b) := of_word rfl
theorem clz (t : Tok) (d : Dst) (a : Src) : Statement (.clz t d a) := of_word rfl
theorem ctz (t : Tok) (d : Dst) (a : Src) : Statement (.ctz t d a) := of_word rfl
theorem popc (t : Tok) (d : Dst) (a : Src) : Statement (.popc t d a) := of_word rfl
theorem bext (t : Tok) (d : Dst) (a b : Src) : Statement (.bext t d a b) := of_word rfl
theorem bdep (t : Tok) (d : Dst) (a b : Src) : Statement (.bdep t d a b) := of_word rfl
theorem slt (t : Tok) (d : Dst) (a b : Src) : Statement (.slt t d a b) := of_word rfl
theorem sltn (t : Tok) (d : Dst) (a b : Src) : Statement (.sltn t d a b) := of_word rfl
theorem seq (t : Tok) (d : Dst) (a b : Src) : Statement (.seq t d a b) := of_word rfl
theorem sel (t : Tok) (d : Dst) (a b : Src) : Statement (.sel t d a b) := of_word rfl
theorem addS32 (t : Tok) (d : Dst) (a b : Src) : Statement (.addS32 t d a b) := of_word rfl
theorem subS32 (t : Tok) (d : Dst) (a b : Src) : Statement (.subS32 t d a b) := of_word rfl
theorem mulS32 (t : Tok) (d : Dst) (a b : Src) : Statement (.mulS32 t d a b) := of_word rfl
theorem shlS32 (t : Tok) (d : Dst) (a b : Src) : Statement (.shlS32 t d a b) := of_word rfl
theorem shrS32 (t : Tok) (d : Dst) (a b : Src) : Statement (.shrS32 t d a b) := of_word rfl
theorem sraS32 (t : Tok) (d : Dst) (a b : Src) : Statement (.sraS32 t d a b) := of_word rfl
theorem rslot (t : Tok) (d : Dst) (a : Src) : Statement (.rslot t d a) := of_word rfl
theorem hack (t : Tok) (a : Src) : Statement (.hack t a) := of_word rfl
theorem trc (t : Tok) (a : Src) : Statement (.trc t a) := of_word rfl
theorem addImm (t : Tok) (d : Dst) (a : Src) (imm : Word) : Statement (.addImm t d a imm) := of_word rfl
theorem addS32Imm (t : Tok) (d : Dst) (a : Src) (imm : Word) : Statement (.addS32Imm t d a imm) := of_word rfl
theorem mulImm (t : Tok) (d : Dst) (a : Src) (imm : Word) : Statement (.mulImm t d a imm) := of_word rfl
theorem andImm (t : Tok) (d : Dst) (a : Src) (imm : Word) : Statement (.andImm t d a imm) := of_word rfl
theorem orImm (t : Tok) (d : Dst) (a : Src) (imm : Word) : Statement (.orImm t d a imm) := of_word rfl
theorem xorImm (t : Tok) (d : Dst) (a : Src) (imm : Word) : Statement (.xorImm t d a imm) := of_word rfl
theorem shlImm (t : Tok) (d : Dst) (a : Src) (imm : Word) : Statement (.shlImm t d a imm) := of_word rfl
theorem shrImm (t : Tok) (d : Dst) (a : Src) (imm : Word) : Statement (.shrImm t d a imm) := of_word rfl
theorem sraImm (t : Tok) (d : Dst) (a : Src) (imm : Word) : Statement (.sraImm t d a imm) := of_word rfl
theorem sltImm (t : Tok) (d : Dst) (a : Src) (imm : Word) : Statement (.sltImm t d a imm) := of_word rfl
theorem sltnImm (t : Tok) (d : Dst) (a : Src) (imm : Word) : Statement (.sltnImm t d a imm) := of_word rfl
theorem seqImm (t : Tok) (d : Dst) (a : Src) (imm : Word) : Statement (.seqImm t d a imm) := of_word rfl
theorem li (t : Tok) (d : Dst) (imm : Word) : Statement (.li t d imm) := of_word rfl
theorem beq (t : Tok) (a : Src) (off : Word) : Statement (.beq t a off) := of_word rfl
theorem bne (t : Tok) (a : Src) (off : Word) : Statement (.bne t a off) := of_word rfl
theorem blt (t : Tok) (a : Src) (off : Word) : Statement (.blt t a off) := of_word rfl
theorem bge (t : Tok) (a : Src) (off : Word) : Statement (.bge t a off) := of_word rfl
theorem bgt (t : Tok) (a : Src) (off : Word) : Statement (.bgt t a off) := of_word rfl
theorem ble (t : Tok) (a : Src) (off : Word) : Statement (.ble t a off) := of_word rfl
theorem jmp (t : Tok) (off : Word) : Statement (.jmp t off) := of_word rfl
theorem call (t : Tok) (off : Word) : Statement (.call t off) := of_word rfl
theorem ret (t : Tok) : Statement (.ret t) := of_word rfl
theorem nop (t : Tok) : Statement (.nop t) := of_word rfl
theorem halt (t : Tok) : Statement (.halt t) := of_word rfl
theorem trap (t : Tok) (code : BitVec 18) : Statement (.trap t code) := of_word rfl
theorem eret (t : Tok) : Statement (.eret t) := of_word rfl
theorem ltrig (t : Tok) : Statement (.ltrig t) := of_word rfl
theorem lcmt (t : Tok) : Statement (.lcmt t) := of_word rfl
theorem rply (t : Tok) : Statement (.rply t) := of_word rfl
theorem mark (t : Tok) (scope : BitVec 3) : Statement (.mark t scope) := of_word rfl
theorem rnd (t : Tok) (d : Dst) : Statement (.rnd t d) := of_word rfl
theorem srd (t : Tok) (d : Dst) (r : BitVec 12) : Statement (.srd t d r) := of_word rfl
theorem swr (t : Tok) (a : Src) (r : BitVec 12) : Statement (.swr t a r) := of_word rfl
theorem tset (t : Tok) (n : BitVec 6) (a : Src) (e : Eng) : Statement (.tset t n a e) := of_word rfl
theorem ldN8 (t : Tok) (d : Dst) (base : Src) (imm : Word) : Statement (.ldN8 t d base imm) := of_word rfl
theorem ldN16 (t : Tok) (d : Dst) (base : Src) (imm : Word) : Statement (.ldN16 t d base imm) := of_word rfl
theorem ldN32 (t : Tok) (d : Dst) (base : Src) (imm : Word) : Statement (.ldN32 t d base imm) := of_word rfl
theorem ldN64 (t : Tok) (d : Dst) (base : Src) (imm : Word) : Statement (.ldN64 t d base imm) := of_word rfl
theorem ldS8 (t : Tok) (d : Dst) (base : Src) (imm : Word) : Statement (.ldS8 t d base imm) := of_word rfl
theorem ldS16 (t : Tok) (d : Dst) (base : Src) (imm : Word) : Statement (.ldS16 t d base imm) := of_word rfl
theorem ldS32 (t : Tok) (d : Dst) (base : Src) (imm : Word) : Statement (.ldS32 t d base imm) := of_word rfl
theorem stN8 (t : Tok) (src base : Src) (imm : Word) : Statement (.stN8 t src base imm) := of_word rfl
theorem stN16 (t : Tok) (src base : Src) (imm : Word) : Statement (.stN16 t src base imm) := of_word rfl
theorem stN32 (t : Tok) (src base : Src) (imm : Word) : Statement (.stN32 t src base imm) := of_word rfl
theorem stN64 (t : Tok) (src base : Src) (imm : Word) : Statement (.stN64 t src base imm) := of_word rfl
theorem ldqN8 (t : Tok) (q : Fin 16) (base : Src) (imm : Word) : Statement (.ldqN8 t q base imm) := of_word rfl
theorem ldqN16 (t : Tok) (q : Fin 16) (base : Src) (imm : Word) : Statement (.ldqN16 t q base imm) := of_word rfl
theorem ldqN32 (t : Tok) (q : Fin 16) (base : Src) (imm : Word) : Statement (.ldqN32 t q base imm) := of_word rfl
theorem ldqN64 (t : Tok) (q : Fin 16) (base : Src) (imm : Word) : Statement (.ldqN64 t q base imm) := of_word rfl
theorem ldqS8 (t : Tok) (q : Fin 16) (base : Src) (imm : Word) : Statement (.ldqS8 t q base imm) := of_word rfl
theorem ldqS16 (t : Tok) (q : Fin 16) (base : Src) (imm : Word) : Statement (.ldqS16 t q base imm) := of_word rfl
theorem ldqS32 (t : Tok) (q : Fin 16) (base : Src) (imm : Word) : Statement (.ldqS32 t q base imm) := of_word rfl
theorem amoAdd (t : Tok) (d : Dst) (a b : Src) : Statement (.amoAdd t d a b) := of_word rfl
theorem amoMin (t : Tok) (d : Dst) (a b : Src) : Statement (.amoMin t d a b) := of_word rfl
theorem amoMax (t : Tok) (d : Dst) (a b : Src) : Statement (.amoMax t d a b) := of_word rfl
theorem amoAnd (t : Tok) (d : Dst) (a b : Src) : Statement (.amoAnd t d a b) := of_word rfl
theorem amoOr (t : Tok) (d : Dst) (a b : Src) : Statement (.amoOr t d a b) := of_word rfl
theorem amoXor (t : Tok) (d : Dst) (a b : Src) : Statement (.amoXor t d a b) := of_word rfl
theorem amoXchg (t : Tok) (d : Dst) (a b : Src) : Statement (.amoXchg t d a b) := of_word rfl
theorem amoFaddF32 (t : Tok) (d : Dst) (a b : Src) : Statement (.amoFaddF32 t d a b) := of_word rfl
theorem amoFmaxF32 (t : Tok) (d : Dst) (a b : Src) : Statement (.amoFmaxF32 t d a b) := of_word rfl
theorem cas (t : Tok) (d : Dst) (a b : Src) : Statement (.cas t d a b) := of_word rfl
theorem await (t : Tok) (d : Dst) (a b : Src) : Statement (.await t d a b) := of_word rfl
theorem barInit (t : Tok) (a b : Src) : Statement (.barInit t a b) := of_word rfl
theorem barArr (t : Tok) (a : Src) : Statement (.barArr t a) := of_word rfl
theorem barAdd (t : Tok) (a b : Src) : Statement (.barAdd t a b) := of_word rfl
theorem barWait (t : Tok) (a : Src) : Statement (.barWait t a) := of_word rfl
theorem barTest (t : Tok) (d : Dst) (a : Src) : Statement (.barTest t d a) := of_word rfl
theorem pub (t : Tok) (a : Src) (scope : BitVec 3) : Statement (.pub t a scope) := of_word rfl
theorem push (t : Tok) (a b : Src) : Statement (.push t a b) := of_word rfl
theorem renq (t : Tok) (a b : Src) : Statement (.renq t a b) := of_word rfl
theorem qstat (t : Tok) (d : Dst) (a : Src) : Statement (.qstat t d a) := of_word rfl
theorem lnch (t : Tok) (d : Dst) (a : Src) : Statement (.lnch t d a) := of_word rfl
theorem fpush (t : Tok) (a : Src) : Statement (.fpush t a) := of_word rfl
theorem sgin (t : Tok) (d : Dst) (a b : Src) : Statement (.sgin t d a b) := of_word rfl
theorem sgout (t : Tok) (d : Dst) (a b : Src) : Statement (.sgout t d a b) := of_word rfl
theorem patchWord (e : Eng) (n : BitVec 6) (fsel : BitVec 4) (value : BitVec 74) : Statement (.patchWord e n fsel value) := of_word rfl
theorem cCopy (t : Tok) (o : CForm) : Statement (.cCopy t o) := of_word (by cases o <;> rfl)
theorem cGath (t : Tok) (f : CFields) : Statement (.cGath t f) := of_word rfl
theorem cScat (t : Tok) (f : CFields) : Statement (.cScat t f) := of_word rfl
theorem cFill (t : Tok) (o : CForm) : Statement (.cFill t o) := of_word (by cases o <;> rfl)
theorem cConvF32 (t : Tok) (o : CForm) : Statement (.cConvF32 t o) := of_word (by cases o <;> rfl)
theorem cConvBf16 (t : Tok) (o : CForm) : Statement (.cConvBf16 t o) := of_word (by cases o <;> rfl)
theorem cConvF16 (t : Tok) (o : CForm) : Statement (.cConvF16 t o) := of_word (by cases o <;> rfl)
theorem cDrain (t : Tok) (o : CDrainForm) : Statement (.cDrain t o) := of_word (by cases o <;> rfl)
theorem cDrainSel (t : Tok) (f : CFields) : Statement (.cDrainSel t f) := of_word rfl
theorem cWmap (t : Tok) (w : Fin 8) (q : QSrc) : Statement (.cWmap t w q) := of_word rfl
theorem cWadv (t : Tok) (w : Fin 8) (n : BitVec 6) : Statement (.cWadv t w n) := of_word rfl
theorem cWret (t : Tok) (w : Fin 8) : Statement (.cWret t w) := of_word rfl
theorem cPfx (t : Tok) (q : QSrc) (n : BitVec 6) : Statement (.cPfx t q n) := of_word rfl
theorem cRsend (t : Tok) (f : CFields) : Statement (.cRsend t f) := of_word rfl
theorem cRrecv (t : Tok) (f : CFields) : Statement (.cRrecv t f) := of_word rfl
theorem cMbx (t : Tok) (q : QSrc) (k : BitVec 6) : Statement (.cMbx t q k) := of_word rfl
theorem mLvl (t : Tok) (q : Fin 16) (k : Fin 6) : Statement (.mLvl t q k) := of_word rfl
theorem mGo (t : Tok) (body : Option MBody) : Statement (.mGo t body) := of_word (by cases body <;> rfl)
theorem mZero (t : Tok) (n c : BitVec 6) : Statement (.mZero t n c) := of_word rfl
theorem mStop (t : Tok) : Statement (.mStop t) := of_word rfl
theorem mMma (t : Tok) (shape : Fin 8) (o : MForm) : Statement (.mMma t shape o) := of_word (by cases o <;> rfl)
theorem mMmas (t : Tok) (shape : Fin 8) (o : MForm) : Statement (.mMmas t shape o) := of_word (by cases o <;> rfl)
theorem vLdN8 (t : Tok) (d : Fin 16) (sel : VSel) (row : Word) : Statement (.vLdN8 t d sel row) := of_word rfl
theorem vLdS8 (t : Tok) (d : Fin 16) (sel : VSel) (row : Word) : Statement (.vLdS8 t d sel row) := of_word rfl
theorem vLdN16 (t : Tok) (d : Fin 16) (sel : VSel) (row : Word) : Statement (.vLdN16 t d sel row) := of_word rfl
theorem vLdS16 (t : Tok) (d : Fin 16) (sel : VSel) (row : Word) : Statement (.vLdS16 t d sel row) := of_word rfl
theorem vLd (t : Tok) (d : Fin 16) (sel : VSel) (row : Word) : Statement (.vLd t d sel row) := of_word rfl
theorem vStN8 (t : Tok) (d : Fin 16) (sel : VSel) (row : Word) : Statement (.vStN8 t d sel row) := of_word rfl
theorem vStN16 (t : Tok) (d : Fin 16) (sel : VSel) (row : Word) : Statement (.vStN16 t d sel row) := of_word rfl
theorem vSt (t : Tok) (d : Fin 16) (sel : VSel) (row : Word) : Statement (.vSt t d sel row) := of_word rfl
theorem vLdx (t : Tok) (d a : Fin 16) (q : Fin 16) (e : Elem) : Statement (.vLdx t d a q e) := of_word rfl
theorem vStx (t : Tok) (d a : Fin 16) (q : Fin 16) (e : Elem) : Statement (.vStx t d a q e) := of_word rfl
theorem vAdd (t : Tok) (d a b : Fin 16) (m : Mod) : Statement (.vAdd t d a b m) := of_word rfl
theorem vSub (t : Tok) (d a b : Fin 16) (m : Mod) : Statement (.vSub t d a b m) := of_word rfl
theorem vMul (t : Tok) (d a b : Fin 16) (m : Mod) : Statement (.vMul t d a b m) := of_word rfl
theorem vFma (t : Tok) (d a b : Fin 16) (m : Mod) : Statement (.vFma t d a b m) := of_word rfl
theorem vMin (t : Tok) (d a b : Fin 16) (m : Mod) : Statement (.vMin t d a b m) := of_word rfl
theorem vMax (t : Tok) (d a b : Fin 16) (m : Mod) : Statement (.vMax t d a b m) := of_word rfl
theorem vAbs (t : Tok) (d a : Fin 16) (m : Mod) : Statement (.vAbs t d a m) := of_word rfl
theorem vNeg (t : Tok) (d a : Fin 16) (m : Mod) : Statement (.vNeg t d a m) := of_word rfl
theorem vAnd (t : Tok) (d a b : Fin 16) (m : Mod) : Statement (.vAnd t d a b m) := of_word rfl
theorem vOr (t : Tok) (d a b : Fin 16) (m : Mod) : Statement (.vOr t d a b m) := of_word rfl
theorem vXor (t : Tok) (d a b : Fin 16) (m : Mod) : Statement (.vXor t d a b m) := of_word rfl
theorem vShl (t : Tok) (d a b : Fin 16) (m : Mod) : Statement (.vShl t d a b m) := of_word rfl
theorem vShr (t : Tok) (d a b : Fin 16) (m : Mod) : Statement (.vShr t d a b m) := of_word rfl
theorem vSel (t : Tok) (d a b : Fin 16) (m : Mod) : Statement (.vSel t d a b m) := of_word rfl
theorem vExp2 (t : Tok) (d a : Fin 16) (m : Mod) : Statement (.vExp2 t d a m) := of_word rfl
theorem vLog2 (t : Tok) (d a : Fin 16) (m : Mod) : Statement (.vLog2 t d a m) := of_word rfl
theorem vRcp (t : Tok) (d a : Fin 16) (m : Mod) : Statement (.vRcp t d a m) := of_word rfl
theorem vRsq (t : Tok) (d a : Fin 16) (m : Mod) : Statement (.vRsq t d a m) := of_word rfl
theorem vCmpEq (t : Tok) (d a b : Fin 16) (m : Mod) : Statement (.vCmpEq t d a b m) := of_word rfl
theorem vCmpNe (t : Tok) (d a b : Fin 16) (m : Mod) : Statement (.vCmpNe t d a b m) := of_word rfl
theorem vCmpLt (t : Tok) (d a b : Fin 16) (m : Mod) : Statement (.vCmpLt t d a b m) := of_word rfl
theorem vCmpLe (t : Tok) (d a b : Fin 16) (m : Mod) : Statement (.vCmpLe t d a b m) := of_word rfl
theorem vRotr (t : Tok) (d a : Fin 16) (q : Fin 16) (m : Mod) : Statement (.vRotr t d a q m) := of_word rfl
theorem vRotc (t : Tok) (d a : Fin 16) (q : Fin 16) (m : Mod) : Statement (.vRotc t d a q m) := of_word rfl
theorem vBcr (t : Tok) (d a : Fin 16) (q : Fin 16) (m : Mod) : Statement (.vBcr t d a q m) := of_word rfl
theorem vBcc (t : Tok) (d a : Fin 16) (q : Fin 16) (m : Mod) : Statement (.vBcc t d a q m) := of_word rfl
theorem vScanr (t : Tok) (d a : Fin 16) (m : Mod) : Statement (.vScanr t d a m) := of_word rfl
theorem vIota (t : Tok) (d : Fin 16) (m : Mod) : Statement (.vIota t d m) := of_word rfl
theorem vSplat (t : Tok) (d : Fin 16) (q : Fin 16) (m : Mod) : Statement (.vSplat t d q m) := of_word rfl
theorem vRedrAdd (t : Tok) (d a : Fin 16) (m : Mod) : Statement (.vRedrAdd t d a m) := of_word rfl
theorem vRedrMax (t : Tok) (d a : Fin 16) (m : Mod) : Statement (.vRedrMax t d a m) := of_word rfl
theorem vRedrMin (t : Tok) (d a : Fin 16) (m : Mod) : Statement (.vRedrMin t d a m) := of_word rfl
theorem vRedcAdd (t : Tok) (d a : Fin 16) (m : Mod) : Statement (.vRedcAdd t d a m) := of_word rfl
theorem vRedcMax (t : Tok) (d a : Fin 16) (m : Mod) : Statement (.vRedcMax t d a m) := of_word rfl
theorem vRedcMin (t : Tok) (d a : Fin 16) (m : Mod) : Statement (.vRedcMin t d a m) := of_word rfl
theorem vPack (t : Tok) (d a : Fin 16) (m : Mod) : Statement (.vPack t d a m) := of_word rfl
theorem vUnpack (t : Tok) (d a : Fin 16) (m : Mod) : Statement (.vUnpack t d a m) := of_word rfl
theorem vPart (t : Tok) (d a : Fin 16) (q : Fin 16) (m : Mod) : Statement (.vPart t d a q m) := of_word rfl
theorem vSmass (t : Tok) (d a b : Fin 16) : Statement (.vSmass t d a b) := of_word rfl
theorem vStub (t : Tok) (d a : Fin 16) (q : Fin 16) (m : Mod) : Statement (.vStub t d a q m) := of_word rfl
theorem vBr (t : Tok) (a : Fin 16) (c : VCond) (off : Word) : Statement (.vBr t a c off) := of_word rfl
theorem vCvt (t : Tok) (d a : Fin 16) (dty sty : Ty) (rnd : Rnd) (sat : Bool) : Statement (.vCvt t d a dty sty rnd sat) := of_word rfl
theorem fLd (t : Tok) (d : Fin 16) (q : Fin 16) : Statement (.fLd t d q) := of_word rfl
theorem fSt (t : Tok) (d : Fin 16) (q : Fin 16) : Statement (.fSt t d q) := of_word rfl
theorem fMov (t : Tok) (d a : Fin 16) : Statement (.fMov t d a) := of_word rfl
theorem fConst (t : Tok) (d : Fin 16) (q : Fin 16) : Statement (.fConst t d q) := of_word rfl
theorem fFit (t : Tok) (d a : Fin 16) (q : Fin 16) : Statement (.fFit t d a q) := of_word rfl
theorem fLen (t : Tok) (a : Fin 16) (q : Fin 16) : Statement (.fLen t a q) := of_word rfl
theorem fDomRestrict (t : Tok) (d a : Fin 16) (q : Fin 16) : Statement (.fDomRestrict t d a q) := of_word rfl
theorem fDomRescale (t : Tok) (d a : Fin 16) (q : Fin 16) : Statement (.fDomRescale t d a q) := of_word rfl
theorem fTrunc (t : Tok) (d a : Fin 16) (q : Fin 16) : Statement (.fTrunc t d a q) := of_word rfl
theorem fAdd (t : Tok) (d a b : Fin 16) : Statement (.fAdd t d a b) := of_word rfl
theorem fSub (t : Tok) (d a b : Fin 16) : Statement (.fSub t d a b) := of_word rfl
theorem fMul (t : Tok) (d a b : Fin 16) : Statement (.fMul t d a b) := of_word rfl
theorem fScal (t : Tok) (d a : Fin 16) (q : Fin 16) : Statement (.fScal t d a q) := of_word rfl
theorem fComp (t : Tok) (d a b : Fin 16) : Statement (.fComp t d a b) := of_word rfl
theorem fInt (t : Tok) (d a : Fin 16) : Statement (.fInt t d a) := of_word rfl
theorem fDer (t : Tok) (d a : Fin 16) : Statement (.fDer t d a) := of_word rfl
theorem fEval (t : Tok) (d a b : Fin 16) : Statement (.fEval t d a b) := of_word rfl
theorem fRoot (t : Tok) (a : Fin 16) (q : Fin 16) : Statement (.fRoot t a q) := of_word rfl
theorem fExt (t : Tok) (a : Fin 16) (q : Fin 16) : Statement (.fExt t a q) := of_word rfl
theorem ldqDataArrival (core : CoreId) (k : Nat) : Statement (.ldqDataArrival core k) := fun _ => ⟨rfl, rfl⟩
theorem windowRowArrival (core : CoreId) (w : Fin 8) (row : Nat) : Statement (.windowRowArrival core w row) := fun _ => ⟨rfl, rfl⟩
theorem copyUnitPerformed (core : CoreId) (u : CopyWork) : Statement (.copyUnitPerformed core u) := fun _ => ⟨rfl, rfl⟩
theorem nestBodyCommand (core : CoreId) : Statement (.nestBodyCommand core) := fun _ => ⟨rfl, rfl⟩
theorem commandRun (core : CoreId) (q : Fin 4) : Statement (.commandRun core q) := fun _ => ⟨rfl, rfl⟩
theorem commandComplete (core : CoreId) (q : Fin 4) : Statement (.commandComplete core q) := fun _ => ⟨rfl, rfl⟩
theorem spillRefill (core : CoreId) (q : Fin 4) : Statement (.spillRefill core q) := fun _ => ⟨rfl, rfl⟩
theorem segmentFinalStep (core : CoreId) (k : Nat) : Statement (.segmentFinalStep core k) := fun _ => ⟨rfl, rfl⟩
theorem queueOverflow (core : CoreId) (e : Eng) : Statement (.queueOverflow core e) := fun _ => ⟨rfl, rfl⟩
theorem queueUnderflow (core : CoreId) (e : Eng) : Statement (.queueUnderflow core e) := fun _ => ⟨rfl, rfl⟩
theorem formatQueueOverflow (core : CoreId) : Statement (.formatQueueOverflow core) := fun _ => ⟨rfl, rfl⟩
theorem formatUnderflow (core : CoreId) : Statement (.formatUnderflow core) := fun _ => ⟨rfl, rfl⟩
theorem quotaTimeout (core : CoreId) : Statement (.quotaTimeout core) := fun _ => ⟨rfl, rfl⟩
theorem mailboxStagingOverflow (core : CoreId) : Statement (.mailboxStagingOverflow core) := fun _ => ⟨rfl, rfl⟩
theorem awaitWake (core : CoreId) : Statement (.awaitWake core) := fun _ => ⟨rfl, rfl⟩
theorem awaitTimeout (core : CoreId) : Statement (.awaitTimeout core) := fun _ => ⟨rfl, rfl⟩
theorem barrierTimeout (core : CoreId) : Statement (.barrierTimeout core) := fun _ => ⟨rfl, rfl⟩
theorem rslotWaitExpiry (core : CoreId) : Statement (.rslotWaitExpiry core) := fun _ => ⟨rfl, rfl⟩
theorem deadlock (core : CoreId) : Statement (.deadlock core) := fun _ => ⟨rfl, rfl⟩
theorem enginePreciseFault (core : CoreId) : Statement (.enginePreciseFault core) := fun _ => ⟨rfl, rfl⟩
theorem supervisorEventPost (die : DieId) : Statement (.supervisorEventPost die) := fun _ => ⟨rfl, rfl⟩
theorem datapathCheckFault (core : CoreId) (e : Eng) (code : BitVec 32) (addr : Word) : Statement (.datapathCheckFault core e code addr) := fun _ => ⟨rfl, rfl⟩
theorem layerRollback (core : CoreId) : Statement (.layerRollback core) := fun _ => ⟨rfl, rfl⟩
theorem dump : Statement .dump := fun _ => ⟨rfl, rfl⟩
theorem cellctlResume (core : CoreId) (v : Word) : Statement (.cellctlResume core v) := fun _ => ⟨rfl, rfl⟩
theorem cellctlEnterContextHandler (core : CoreId) (v : Word) : Statement (.cellctlEnterContextHandler core v) := fun _ => ⟨rfl, rfl⟩
theorem cellctlResumeCheckpoint (core : CoreId) (v : Word) : Statement (.cellctlResumeCheckpoint core v) := fun _ => ⟨rfl, rfl⟩
theorem cellctlEnterTrap (core : CoreId) (v : Word) : Statement (.cellctlEnterTrap core v) := fun _ => ⟨rfl, rfl⟩
theorem cellctlEndAndDump (core : CoreId) (v : Word) : Statement (.cellctlEndAndDump core v) := fun _ => ⟨rfl, rfl⟩
theorem cellctlEnd (core : CoreId) (v : Word) : Statement (.cellctlEnd core v) := fun _ => ⟨rfl, rfl⟩
theorem schedcmdPreemptCell (core : CoreId) (v : Word) : Statement (.schedcmdPreemptCell core v) := fun _ => ⟨rfl, rfl⟩
theorem schedcmdPreemptDomain (core : CoreId) (v : Word) : Statement (.schedcmdPreemptDomain core v) := fun _ => ⟨rfl, rfl⟩
theorem tlbinv (core : CoreId) (v : Word) : Statement (.tlbinv core v) := fun _ => ⟨rfl, rfl⟩
theorem eclaim (core : CoreId) (v : Word) : Statement (.eclaim core v) := fun _ => ⟨rfl, rfl⟩
theorem esatClear (core : CoreId) (v : Word) : Statement (.esatClear core v) := fun _ => ⟨rfl, rfl⟩
theorem cqctlResume (core : CoreId) (v : Word) : Statement (.cqctlResume core v) := fun _ => ⟨rfl, rfl⟩
theorem cqctlDiscard (core : CoreId) (v : Word) : Statement (.cqctlDiscard core v) := fun _ => ⟨rfl, rfl⟩
theorem ctxrecWrite (core : CoreId) (v : Word) : Statement (.ctxrecWrite core v) := fun _ => ⟨rfl, rfl⟩
theorem ckslotWrite (core : CoreId) (v : Word) : Statement (.ckslotWrite core v) := fun _ => ⟨rfl, rfl⟩
theorem pblenWrite (core : CoreId) (v : Word) : Statement (.pblenWrite core v) := fun _ => ⟨rfl, rfl⟩
theorem chronographControlWrite (core : CoreId) (n : Fin 16) (v : Word) : Statement (.chronographControlWrite core n v) := fun _ => ⟨rfl, rfl⟩
theorem treeDescriptorWrite (core : CoreId) (tree : Fin 256) (n : Fin 256) (v : Word) : Statement (.treeDescriptorWrite core tree n v) := fun _ => ⟨rfl, rfl⟩
theorem channelRetire (core : CoreId) (c : BitVec 12) (v : Word) : Statement (.channelRetire core c v) := fun _ => ⟨rfl, rfl⟩
theorem channelDrainEnd (c : BitVec 12) : Statement (.channelDrainEnd c) := fun _ => ⟨rfl, rfl⟩
theorem peerStoreAck (k : Nat) : Statement (.peerStoreAck k) := fun _ => ⟨rfl, rfl⟩
theorem reductionInputArrival (r : RedInput) : Statement (.reductionInputArrival r) := fun _ => ⟨rfl, rfl⟩
theorem reductionTimeout (core : CoreId) : Statement (.reductionTimeout core) := fun _ => ⟨rfl, rfl⟩
theorem hostWrite (pa : BitVec 48) (bytes : List Byte) : Statement (.hostWrite pa bytes) := fun _ => ⟨rfl, rfl⟩
theorem hostMemAccess (addr : BitVec 48) (data : Option (List Byte)) : Statement (.hostMemAccess addr data) := fun _ => ⟨rfl, rfl⟩
theorem launchIssue (die : DieId) : Statement (.launchIssue die) := fun _ => ⟨rfl, rfl⟩
theorem cellStart (core : CoreId) (slot : Nat) : Statement (.cellStart core slot) := fun _ => ⟨rfl, rfl⟩
theorem iterationEnd (core : CoreId) : Statement (.iterationEnd core) := fun _ => ⟨rfl, rfl⟩
theorem cellEnd (core : CoreId) : Statement (.cellEnd core) := fun _ => ⟨rfl, rfl⟩
theorem sampleBoundary : Statement .sampleBoundary := fun _ => ⟨rfl, rfl⟩
theorem rampViolation (die : DieId) (slot : Nat) : Statement (.rampViolation die slot) := fun _ => ⟨rfl, rfl⟩
theorem throttleHold : Statement .throttleHold := fun _ => ⟨rfl, rfl⟩
theorem staticCharge : Statement .staticCharge := fun _ => ⟨rfl, rfl⟩
theorem priorityPreemption (die : DieId) : Statement (.priorityPreemption die) := fun _ => ⟨rfl, rfl⟩
theorem timeSlicePreemption (die : DieId) : Statement (.timeSlicePreemption die) := fun _ => ⟨rfl, rfl⟩
theorem preemptionStop (core : CoreId) : Statement (.preemptionStop core) := fun _ => ⟨rfl, rfl⟩
theorem cellResume (core : CoreId) (k : Nat) : Statement (.cellResume core k) := fun _ => ⟨rfl, rfl⟩
theorem hackStop (core : CoreId) : Statement (.hackStop core) := fun _ => ⟨rfl, rfl⟩
theorem hackStepStop (core : CoreId) : Statement (.hackStepStop core) := fun _ => ⟨rfl, rfl⟩
theorem frameWrite (k : Nat) : Statement (.frameWrite k) := fun _ => ⟨rfl, rfl⟩
theorem streamOpen (req : BitVec 512) : Statement (.streamOpen req) := fun _ => ⟨rfl, rfl⟩
theorem streamClose (req : BitVec 512) : Statement (.streamClose req) := fun _ => ⟨rfl, rfl⟩
theorem attestation (req : BitVec 512) : Statement (.attestation req) := fun _ => ⟨rfl, rfl⟩
theorem suspend (req : BitVec 512) : Statement (.suspend req) := fun _ => ⟨rfl, rfl⟩
theorem portQuiesceTimeout (port : Fin 16) : Statement (.portQuiesceTimeout port) := fun _ => ⟨rfl, rfl⟩
theorem resume (req : BitVec 512) : Statement (.resume req) := fun _ => ⟨rfl, rfl⟩
theorem dumpBufferRegister (req : BitVec 512) : Statement (.dumpBufferRegister req) := fun _ => ⟨rfl, rfl⟩
theorem imageLoad (req : BitVec 512) : Statement (.imageLoad req) := fun _ => ⟨rfl, rfl⟩
theorem powerOnBoot : Statement .powerOnBoot := fun _ => ⟨rfl, rfl⟩
theorem envelopeEvent : Statement .envelopeEvent := fun _ => ⟨rfl, rfl⟩
theorem patrolRead (loc : Nat) (correctable : Bool) : Statement (.patrolRead loc correctable) := fun _ => ⟨rfl, rfl⟩
theorem accessPerformed (w : AccessWork) : Statement (.accessPerformed w) := fun _ => ⟨rfl, rfl⟩
theorem matrixUnitPerformed (core : CoreId) : Statement (.matrixUnitPerformed core) := fun _ => ⟨rfl, rfl⟩
theorem fLastStep (core : CoreId) : Statement (.fLastStep core) := fun _ => ⟨rfl, rfl⟩
theorem peerAccess (a : PeerAccess) : Statement (.peerAccess a) := fun _ => ⟨rfl, rfl⟩
theorem peerQuiesce (port : Fin 16) : Statement (.peerQuiesce port) := fun _ => ⟨rfl, rfl⟩
theorem peerPortReopen (port : Fin 16) : Statement (.peerPortReopen port) := fun _ => ⟨rfl, rfl⟩
theorem laneDegrade (port : Fin 16) (lanes : BitVec 3) : Statement (.laneDegrade port lanes) := fun _ => ⟨rfl, rfl⟩
theorem mailboxUnknownOp (req : BitVec 512) : Statement (.mailboxUnknownOp req) := fun _ => ⟨rfl, rfl⟩

end Sys2Proof.Laws.EventsHaveNoWord
end

