-- ==== Sys2Proof/Laws/Translate.lean ====
section
/-! SUPPORT. What translations and the homes of locations depend on: memory with its pending stores and poison, and the cached
translations. -/

namespace Sys2Proof.Machine

/-- Two states have the same tables and the same cached translations. -/
def State.SamePages (s t : State) : Prop :=
  t.mem = s.mem ∧ t.stores = s.stores ∧ t.poison = s.poison ∧ (∀ d : DieId, (t.die d).tlb = (s.die d).tlb)
    ∧ ∀ k : CoreId, t.cores[k].micro = s.cores[k].micro

/-- What the lists of two states' cores have in common, core by core. -/
theorem cores_agree {α : Type} (f : Core → α) {s t : State} (h : t.cores.toList.map f = s.cores.toList.map f) (k : CoreId) :
    f t.cores[k] = f s.cores[k] := by
  have := congrArg (fun l => l[k.val]?) h
  simpa [k.isLt] using this

theorem State.peekByte_same {s t : State} (hm : t.mem = s.mem) (hs : t.stores = s.stores) (o : Obs) (x : Nat) :
    t.peekByte o x = s.peekByte o x := by
  unfold State.peekByte
  rw [hm, hs]

/-- Bytes read depend on memory and its pending stores. -/
theorem State.peek_same {s t : State} (hm : t.mem = s.mem) (hs : t.stores = s.stores) (o : Obs) (x n : Nat) :
    t.peek o x n = s.peek o x n := by
  have : ∀ n d, t.peekFrom o x d n = s.peekFrom o x d n := by
    intro n
    induction n with
    | zero => intro d; rfl
    | succ n ih => intro d; rw [State.peekFrom, State.peekFrom, ih, State.peekByte_same hm hs]
  exact this n 0

namespace State.SamePages

variable {s t : State} (h : State.SamePages s t)
include h

theorem entryAt (x : Nat) : t.entryAt x = s.entryAt x := by
  rw [State.entryAt, State.entryAt, State.peek_same h.1 h.2.1]

theorem entryBadAt (x : Nat) : t.entryBadAt x = s.entryBadAt x := by
  rw [State.entryBadAt, State.entryBadAt, State.poisoned, State.poisoned, h.2.1, h.2.2.1]

theorem walkFrom (va : Nat) (p : Word) (a : Acc) : ∀ (ls : List (Nat × Nat × Nat)) (table : Nat) (top : Bool),
    t.walkFrom va p a table top ls = s.walkFrom va p a table top ls
  | [], _, _ => rfl
  | (lo, w, n) :: ls, table, top => by
    simp only [State.walkFrom, h.entryAt, h.entryBadAt, walkFrom va p a ls]

theorem walkTables (d : BitVec 16) (va : Nat) (p : Word) (a : Acc) : t.walkTables d va p a = s.walkTables d va p a := by
  simp only [State.walkTables, h.entryAt, h.entryBadAt, h.walkFrom]

/-- The cached translation of an address. -/
theorem cached (k : Option CoreId) (die : DieId) (d : BitVec 16) (va : Nat) :
    (t.cached k die d va).map (·.1) = (s.cached k die d va).map (·.1) := by
  have hm : t.microOf k = s.microOf k := by
    cases k with
    | none => rfl
    | some k => exact h.2.2.2.2 k
  rw [State.cached, State.cached, hm, h.2.2.2.1]
  split
  · rfl
  · cases (s.die die).tlb.find? fun t => t.covers d va <;> rfl

theorem lookupPage (k : CoreId) (d : BitVec 16) (va : Nat) : t.lookupPage k d va = s.lookupPage k d va := by
  have hc := h.cached (some k) (dieOf k) d va
  rw [State.lookupPage, State.lookupPage, h.walkTables]
  cases ht : t.cached (some k) (dieOf k) d va <;> cases hs : s.cached (some k) (dieOf k) d va <;> simp_all

/-- The home of a location (R332, R333). -/
theorem home (x : Nat) : t.home x = s.home x := by
  simp only [State.home, State.channelDev, h.entryAt]

/-- The location of a byte of a backing (R248), where the same cells have the cores. -/
theorem backLoc (hc : ∀ k : CoreId, t.cores[k].cell.ident.serial = s.cores[k].cell.ident.serial) (p : Pub) (a : Word) :
    t.backLoc p a = s.backLoc p a := by
  have hh : t.home = s.home := funext h.home
  simp only [State.backLoc, h.lookupPage, hh, hc]

end State.SamePages

end Sys2Proof.Machine
end

