-- ==== Sys2Proof/Tests/Slice0.lean ====
section
/-! SUPPORT. Tests: words written out from the spec's encodings, refused words, ill-formed terms, states that meet the hypotheses
of the statements, and single steps worked out by hand. -/

namespace Sys2Proof.Tests
open Sys2Proof Sys2Proof.Machine

set_option Elab.async false

theorem test_decode_a_1 : ∀ p ∈ ((
    [(0x0202119F, .add 1 (.push 1) (.x 6) (.x 31)), (0x0405FC2F, .sub 2 (.x 31) (.peek 0) (.pop 15)),
     (0x060858B9, .mul 3 (.x 5) (.pop 2) (.peek 9)), (0x080E119F, .mulh 4 (.push 1) (.x 6) (.x 31)),
     (0x0A11FC2F, .mulhn 5 (.x 31) (.peek 0) (.pop 15)), (0x0C1458B9, .div 6 (.x 5) (.pop 2) (.peek 9)),
     (0x0E1A119F, .divn 7 (.push 1) (.x 6) (.x 31)), (0x101DFC2F, .rem 8 (.x 31) (.peek 0) (.pop 15)),
     (0x122058B9, .remn 9 (.x 5) (.pop 2) (.peek 9)), (0x1426119F, .and 10 (.push 1) (.x 6) (.x 31)),
     (0x1629FC2F, .or 11 (.x 31) (.peek 0) (.pop 15)), (0x182C58B9, .xor 12 (.x 5) (.pop 2) (.peek 9)),
     (0x1A32119F, .andn 13 (.push 1) (.x 6) (.x 31)), (0x1C35FC2F, .shl 14 (.x 31) (.peek 0) (.pop 15)),
     (0x1E3858B9, .shr 15 (.x 5) (.pop 2) (.peek 9)), (0x003E119F, .sra 0 (.push 1) (.x 6) (.x 31)),
     (0x0241FC2F, .min 1 (.x 31) (.peek 0) (.pop 15)), (0x044458B9, .max 2 (.x 5) (.pop 2) (.peek 9)),
     (0x064A119F, .minn 3 (.push 1) (.x 6) (.x 31)), (0x084DFC2F, .maxn 4 (.x 31) (.peek 0) (.pop 15)),
     (0x0A5079C0, .clz 5 (.x 7) (.pop 7)), (0x0C5479C0, .ctz 6 (.x 7) (.pop 7)), (0x0E5879C0, .popc 7 (.x 7) (.pop 7)),
     (0x105C58B9, .bext 8 (.x 5) (.pop 2) (.peek 9))]) : List (W32 × Instr)),
    decodeHost [] p.1 = .ok p.2 := by
  decide

theorem test_decode_a_2 : ∀ p ∈ ((
    [(0x1262119F, .bdep 9 (.push 1) (.x 6) (.x 31)), (0x1465FC2F, .slt 10 (.x 31) (.peek 0) (.pop 15)),
     (0x166858B9, .sltn 11 (.x 5) (.pop 2) (.peek 9)), (0x186E119F, .seq 12 (.push 1) (.x 6) (.x 31)),
     (0x1A71FC2F, .sel 13 (.x 31) (.peek 0) (.pop 15)), (0x1C7458B9, .addS32 14 (.x 5) (.pop 2) (.peek 9)),
     (0x1E7A119F, .subS32 15 (.push 1) (.x 6) (.x 31)), (0x007DFC2F, .mulS32 0 (.x 31) (.peek 0) (.pop 15)),
     (0x028058B9, .shlS32 1 (.x 5) (.pop 2) (.peek 9)), (0x0486119F, .shrS32 2 (.push 1) (.x 6) (.x 31)),
     (0x0689FC2F, .sraS32 3 (.x 31) (.peek 0) (.pop 15)), (0x088C79C0, .rslot 4 (.x 7) (.pop 7)),
     (0x0A900C80, .hack 5 (.peek 2)), (0x0C940C80, .trc 6 (.peek 2)),
     (0x0EA2F77D, .addImm 7 (.push 15) (.x 29) 0xfffffffffffffffd),
     (0x10A6F77D, .addS32Imm 8 (.push 15) (.x 29) 0xfffffffffffffffd),
     (0x12AAF77D, .mulImm 9 (.push 15) (.x 29) 0xfffffffffffffffd),
     (0x14AEF77D, .andImm 10 (.push 15) (.x 29) 0xfffffffffffffffd),
     (0x16B2F77D, .orImm 11 (.push 15) (.x 29) 0xfffffffffffffffd),
     (0x18B6F77D, .xorImm 12 (.push 15) (.x 29) 0xfffffffffffffffd),
     (0x1ABAF77D, .shlImm 13 (.push 15) (.x 29) 0xfffffffffffffffd),
     (0x1CBEF77D, .shrImm 14 (.push 15) (.x 29) 0xfffffffffffffffd),
     (0x1EC2F77D, .sraImm 15 (.push 15) (.x 29) 0xfffffffffffffffd),
     (0x00C6F77D, .sltImm 0 (.push 15) (.x 29) 0xfffffffffffffffd)]) : List (W32 × Instr)),
    decodeHost [] p.1 = .ok p.2 := by
  decide

theorem test_decode_a_3 : ∀ p ∈ ((
    [(0x02CAF77D, .sltnImm 1 (.push 15) (.x 29) 0xfffffffffffffffd),
     (0x04CEF77D, .seqImm 2 (.push 15) (.x 29) 0xfffffffffffffffd), (0x06D05020, .li 3 (.x 5) 0xffffffffffffffe0),
     (0x08E2CFFE, .beq 4 (.pop 12) 0xfffffffffffffffe), (0x0AE6CFFE, .bne 5 (.pop 12) 0xfffffffffffffffe),
     (0x0CEACFFE, .blt 6 (.pop 12) 0xfffffffffffffffe), (0x0EEECFFE, .bge 7 (.pop 12) 0xfffffffffffffffe),
     (0x10F2CFFE, .bgt 8 (.pop 12) 0xfffffffffffffffe), (0x12F6CFFE, .ble 9 (.pop 12) 0xfffffffffffffffe),
     (0x14FA0001, .jmp 10 0xfffffffffffe0001), (0x16FE0001, .call 11 0xfffffffffffe0001), (0x19000000, .ret 12),
     (0x1B040000, .nop 13), (0x1D080000, .halt 14), (0x1F0EABCD, .trap 15 0x2ABCD), (0x01100000, .eret 0),
     (0x03140000, .ltrig 1), (0x05180000, .lcmt 2), (0x071C0000, .rply 3), (0x09200004, .mark 4 4),
     (0x0B252000, .rnd 5 (.x 18)), (0x0D282140, .srd 6 (.x 2) 0x140), (0x0F2C223B, .swr 7 (.x 2) 0x23B),
     (0x1132A203, .tset 8 0x2A (.x 8) .V)]) : List (W32 × Instr)),
    decodeHost [] p.1 = .ok p.2 := by
  decide

theorem test_decode_a_4 : ∀ p ∈ ((
    [(0x1342F77D, .ldN8 9 (.push 15) (.x 29) 0xfffffffffffffffd),
     (0x1546F77D, .ldN16 10 (.push 15) (.x 29) 0xfffffffffffffffd),
     (0x174AF77D, .ldN32 11 (.push 15) (.x 29) 0xfffffffffffffffd),
     (0x194EF77D, .ldN64 12 (.push 15) (.x 29) 0xfffffffffffffffd),
     (0x1B52F77D, .ldS8 13 (.push 15) (.x 29) 0xfffffffffffffffd),
     (0x1D56F77D, .ldS16 14 (.push 15) (.x 29) 0xfffffffffffffffd),
     (0x1F5AF77D, .ldS32 15 (.push 15) (.x 29) 0xfffffffffffffffd), (0x016370DF, .stN8 0 (.peek 7) (.x 3) 31),
     (0x036770DF, .stN16 1 (.peek 7) (.x 3) 31), (0x056B70DF, .stN32 2 (.peek 7) (.x 3) 31),
     (0x076F70DF, .stN64 3 (.peek 7) (.x 3) 31), (0x098297A0, .ldqN8 4 9 (.x 30) 0xffffffffffffffe0),
     (0x0B8697A0, .ldqN16 5 9 (.x 30) 0xffffffffffffffe0), (0x0D8A97A0, .ldqN32 6 9 (.x 30) 0xffffffffffffffe0),
     (0x0F8E97A0, .ldqN64 7 9 (.x 30) 0xffffffffffffffe0), (0x119297A0, .ldqS8 8 9 (.x 30) 0xffffffffffffffe0),
     (0x139697A0, .ldqS16 9 9 (.x 30) 0xffffffffffffffe0), (0x159A97A0, .ldqS32 10 9 (.x 30) 0xffffffffffffffe0),
     (0x17A2119F, .amoAdd 11 (.push 1) (.x 6) (.x 31)), (0x19A5FC2F, .amoMin 12 (.x 31) (.peek 0) (.pop 15)),
     (0x1BA858B9, .amoMax 13 (.x 5) (.pop 2) (.peek 9)), (0x1DAE119F, .amoAnd 14 (.push 1) (.x 6) (.x 31)),
     (0x1FB1FC2F, .amoOr 15 (.x 31) (.peek 0) (.pop 15)), (0x01B458B9, .amoXor 0 (.x 5) (.pop 2) (.peek 9))]) : List (W32 × Instr)),
    decodeHost [] p.1 = .ok p.2 := by
  decide

theorem test_decode_a_5 : ∀ p ∈ ((
    [(0x03BA119F, .amoXchg 1 (.push 1) (.x 6) (.x 31)), (0x05BDFC2F, .amoFaddF32 2 (.x 31) (.peek 0) (.pop 15)),
     (0x07C058B9, .amoFmaxF32 3 (.x 5) (.pop 2) (.peek 9)), (0x09C6119F, .cas 4 (.push 1) (.x 6) (.x 31)),
     (0x0BC9FC2F, .await 5 (.x 31) (.peek 0) (.pop 15)), (0x0DCC0121, .barInit 6 (.x 4) (.pop 1)),
     (0x0FD00C80, .barArr 7 (.peek 2)), (0x11D40121, .barAdd 8 (.x 4) (.pop 1)), (0x13D80C80, .barWait 9 (.peek 2)),
     (0x15DC79C0, .barTest 10 (.x 7) (.pop 7)), (0x17E00201, .pub 11 (.x 8) 1), (0x19E40121, .push 12 (.x 4) (.pop 1)),
     (0x1BE80121, .renq 13 (.x 4) (.pop 1)), (0x1DEC79C0, .qstat 14 (.x 7) (.pop 7)), (0x1FF079C0, .lnch 15 (.x 7) (.pop 7)),
     (0x01F40C80, .fpush 0 (.peek 2)), (0x03F9FC2F, .sgin 1 (.x 31) (.peek 0) (.pop 15)),
     (0x05FC58B9, .sgout 2 (.x 5) (.pop 2) (.peek 9))]) : List (W32 × Instr)),
    decodeHost [] p.1 = .ok p.2 := by
  decide

theorem test_decode_patch : ∀ p ∈ ((
    [(0xAB16BEEF, .patchWord .M 0x31 6 0xBEEF)]) : List (W32 × Instr)),
    decodeHost [] p.1 = .ok p.2 := by
  decide

theorem test_decode_c : ∀ p ∈ ((
    [(0x2801109B, .cCopy 4 (.direct (.peek 1) (.pop 2) 27)), (0x2A0D109B, .cFill 5 (.direct (.peek 1) (.pop 2) 27)),
     (0x2C11109B, .cConvF32 6 (.direct (.peek 1) (.pop 2) 27)), (0x2E15109B, .cConvBf16 7 (.direct (.peek 1) (.pop 2) 27)),
     (0x3019109B, .cConvF16 8 (.direct (.peek 1) (.pop 2) 27)), (0x321F3500, .cDrain 9 (.direct 0x33 (.peek 4))),
     (0x342654C0, .cWmap 10 5 (.peek 3)), (0x362A603F, .cWadv 11 6 63), (0x382E7000, .cWret 12 7),
     (0x3A303015, .cPfx 13 (.pop 3) 0x15), (0x3C3DE03F, .cMbx 14 (.peek 14) 0x3F)]) : List (W32 × Instr)),
    decodeHost [] p.1 = .ok p.2 := by
  decide

theorem test_decode_m : ∀ p ∈ ((
    [(0x5E00D005, .mLvl 15 13 5), (0x40040000, .mGo 0 none), (0x420BC003, .mZero 1 60 3), (0x440C0000, .mStop 2),
     (0x465BB280, .mMma 3 6 (.direct 59 10)), (0x487BB280, .mMmas 4 6 (.direct 59 10))]) : List (W32 × Instr)),
    decodeHost [] p.1 = .ok p.2 := by
  decide

theorem test_decode_v_1 : ∀ p ∈ ((
    [(0x6A02E32A, .vLdN8 5 11 (.pop 12) 42), (0x6C06E46A, .vLdS8 6 11 (.peek 1) 42), (0x6E0AC0EA, .vLdN16 7 11 (.win 3) 42),
     (0x700EE32A, .vLdS16 8 11 (.pop 12) 42), (0x7212E46A, .vLd 9 11 (.peek 1) 42), (0x7416C0EA, .vStN8 10 11 (.win 3) 42),
     (0x761AE32A, .vStN16 11 11 (.pop 12) 42), (0x781EE46A, .vSt 12 11 (.peek 1) 42), (0x7A204B18, .vLdx 13 1 2 12 .n8),
     (0x7C244B18, .vStx 14 1 2 12 .n8), (0x7E407A4F, .vAdd 15 1 14 9 ⟨.bf16, .rup, true⟩),
     (0x60447A4F, .vSub 0 1 14 9 ⟨.bf16, .rup, true⟩), (0x62487A4F, .vMul 1 1 14 9 ⟨.bf16, .rup, true⟩),
     (0x644C7A4F, .vFma 2 1 14 9 ⟨.bf16, .rup, true⟩), (0x66507A68, .vMin 3 1 14 9 ⟨.s16, .rne, false⟩),
     (0x68547A68, .vMax 4 1 14 9 ⟨.s16, .rne, false⟩), (0x6A5A1839, .vAbs 5 8 6 ⟨.s8, .rne, true⟩),
     (0x6C5E1839, .vNeg 6 8 6 ⟨.s8, .rne, true⟩), (0x6E607A68, .vAnd 7 1 14 9 ⟨.s16, .rne, false⟩),
     (0x70647A68, .vOr 8 1 14 9 ⟨.s16, .rne, false⟩), (0x72687A68, .vXor 9 1 14 9 ⟨.s16, .rne, false⟩),
     (0x746C7A69, .vShl 10 1 14 9 ⟨.s16, .rne, true⟩), (0x76707A68, .vShr 11 1 14 9 ⟨.s16, .rne, false⟩),
     (0x78747A68, .vSel 12 1 14 9 ⟨.s16, .rne, false⟩)]) : List (W32 × Instr)),
    decodeHost [] p.1 = .ok p.2 := by
  decide

theorem test_decode_v_2 : ∀ p ∈ ((
    [(0x7A7A1812, .vExp2 13 8 6 ⟨.f16, .rtz, false⟩), (0x7C7E1812, .vLog2 14 8 6 ⟨.f16, .rtz, false⟩),
     (0x7E821812, .vRcp 15 8 6 ⟨.f16, .rtz, false⟩), (0x60861812, .vRsq 0 8 6 ⟨.f16, .rtz, false⟩),
     (0x62887A68, .vCmpEq 1 1 14 9 ⟨.s16, .rne, false⟩), (0x648C7A68, .vCmpNe 2 1 14 9 ⟨.s16, .rne, false⟩),
     (0x66907A68, .vCmpLt 3 1 14 9 ⟨.s16, .rne, false⟩), (0x68947A68, .vCmpLe 4 1 14 9 ⟨.s16, .rne, false⟩),
     (0x6AA07A68, .vRotr 5 1 14 9 ⟨.s16, .rne, false⟩), (0x6CA47A68, .vRotc 6 1 14 9 ⟨.s16, .rne, false⟩),
     (0x6EA87A68, .vBcr 7 1 14 9 ⟨.s16, .rne, false⟩), (0x70AC7A68, .vBcc 8 1 14 9 ⟨.s16, .rne, false⟩),
     (0x72B21812, .vScanr 9 8 6 ⟨.f16, .rtz, false⟩), (0x74B60020, .vIota 10 8 ⟨.n32, .rne, false⟩),
     (0x76BA01B8, .vSplat 11 8 6 ⟨.s8, .rne, false⟩), (0x78C21812, .vRedrAdd 12 8 6 ⟨.f16, .rtz, false⟩),
     (0x7AC61838, .vRedrMax 13 8 6 ⟨.s8, .rne, false⟩), (0x7CCA1838, .vRedrMin 14 8 6 ⟨.s8, .rne, false⟩),
     (0x7ECE1812, .vRedcAdd 15 8 6 ⟨.f16, .rtz, false⟩), (0x60D21838, .vRedcMax 0 8 6 ⟨.s8, .rne, false⟩),
     (0x62D61838, .vRedcMin 1 8 6 ⟨.s8, .rne, false⟩), (0x64DA1838, .vPack 2 8 6 ⟨.s8, .rne, false⟩),
     (0x66DE1838, .vUnpack 3 8 6 ⟨.s8, .rne, false⟩), (0x68E07A68, .vPart 4 1 14 9 ⟨.s16, .rne, false⟩)]) : List (W32 × Instr)),
    decodeHost [] p.1 = .ok p.2 := by
  decide

theorem test_decode_v_3 : ∀ p ∈ ((
    [(0x6AE4B5C0, .vSmass 5 2 13 7), (0x6CE87A48, .vStub 6 1 14 9 ⟨.bf16, .rne, false⟩), (0x6EEFF7FF, .vBr 7 15 .nall 0x7FF),
     (0x7114F004, .vCvt 8 3 12 .f16 .f32 .rna true)]) : List (W32 × Instr)),
    decodeHost [] p.1 = .ok p.2 := by
  decide

theorem test_decode_f : ∀ p ∈ ((
    [(0x920102C0, .fLd 9 4 11), (0x940502C0, .fSt 10 4 11), (0x96092C00, .fMov 11 4 11), (0x980D02C0, .fConst 12 4 11),
     (0x9A10B5C0, .fFit 13 2 13 7), (0x9C1412C0, .fLen 14 4 11), (0x9E18B5C0, .fDomRestrict 15 2 13 7),
     (0x8018B5C1, .fDomRescale 0 2 13 7), (0x821CB5C0, .fTrunc 1 2 13 7), (0x8420B5C0, .fAdd 2 2 13 7),
     (0x8624B5C0, .fSub 3 2 13 7), (0x8828B5C0, .fMul 4 2 13 7), (0x8A2CB5C0, .fScal 5 2 13 7),
     (0x8C30B5C0, .fComp 6 2 13 7), (0x8E352C00, .fInt 7 4 11), (0x90392C00, .fDer 8 4 11), (0x9240B5C0, .fEval 9 2 13 7),
     (0x944412C0, .fRoot 10 4 11), (0x964812C0, .fExt 11 4 11)]) : List (W32 × Instr)),
    decodeHost [] p.1 = .ok p.2 := by
  decide
/-- Template images written from R43, R46, R152 and R207: the opcode in bits 255:249, the tokens in 248:245, the fields at their
places. -/
theorem test_images : ∀ p ∈ ([
    (.C, 0x260024300080005800000040000030000000000000020000000000000001000,
      .cGath 3 ⟨0x1000, 0x2000, 0x300, 0x80000004, 0x5, 0x8, 0x3, 0x9⟩),
    (.C, 0x480000300080005800000040000030000000000000020000000000000001000,
      .cScat 4 ⟨0x1000, 0x2000, 0x300, 0x80000004, 0x5, 0x8, 0x3, 0x0⟩),
    (.C, 0x10a0020700060005000000040000000300000000000000020000000000000001,
      .cDrainSel 5 ⟨0x1, 0x2, 0x3, 0x4, 0x5, 0x6, 0x7, 0x8⟩),
    (.C, 0x1ac0000000000005000000040000000000000000000000020000000000000001,
      .cRsend 6 ⟨0x1, 0x2, 0x0, 0x4, 0x5, 0x0, 0x0, 0x0⟩),
    (.C, 0x1ce0000000000005000000040000000000000000000000020000000000000001,
      .cRrecv 7 ⟨0x1, 0x2, 0x0, 0x4, 0x5, 0x0, 0x0, 0x0⟩),
    (.C, 0x100000000060005000000040000000300000000000000020000000000000001,
      .cCopy 8 (.image ⟨0x1, 0x2, 0x3, 0x4, 0x5, 0x6, 0x0, 0x0⟩)),
    (.M, 0x320000000000000000000000000037d00000040000000300000002000000010,
      .mGo 9 (some ⟨0x10, 0x20, 0x30, 0x40, 61, 5, true⟩)),
    (.M, 0x2740000000000000000000000000003d00000000000000000000002000000010,
      .mMma 10 3 (.image ⟨0x10, 0x20, 0, 0, 61, 0, false⟩)),
    (.M, 0x3f60000000000000000000000000003c00000040000000300000002000000010,
      .mMmas 11 7 (.image ⟨0x10, 0x20, 0x30, 0x40, 60, 0, false⟩)),
    (.A, 0x5020000000000000000000000000000000000000000048d159e26af37bc05100,
      .addImm 1 (.x 5) (.x 4) 0x123456789ABCDEF0),
    (.V, 0x8400000000000000000000000000000000000000003fffffffffffffffee300,
      .vLd 2 11 (.pop 12) 0xFFFFFFFFFFFFFFFF),
    (.F, 0x200000000000000000000000000000000000000000000000000000000000b5c0,
      .fEval 0 2 13 7)] : List (Eng × BitVec 256 × Instr)),
    decodeImage p.1 p.2.1 = .ok p.2.2 := by
  decide +kernel
/-! ## What is no instruction -/

/-- R57 and the rules it names: a word for each reason to refuse one. -/
theorem test_refused_words : ∀ p ∈ ([([], 0xE0000000, .reservedEngine), ([], 0x00980000, .unassigned), ([], 0x20040000, .noDirectForm),
    ([], 0x00507101, .reservedField), ([], 0x00030000, .peekDestination), ([], 0x01800000, .ldqDestination), ([], 0x20020000, .selectorClass),
    ([], 0x6040001C, .modField), ([], 0x60200028, .elemField), ([], 0x01280010, .sysReg), ([], 0x01200005, .scope), ([], 0x01300005, .tsetEngine),
    ([], 0x40000006, .level), ([], 0x400BF001, .tiles), ([], 0x2010001C, .format), ([5], 0x00000000, .chain), ([1, 2, 3], 0x00A00000, .chain),
    ([1, 2], 0x00E00000, .chain), ([1, 2], 0x60100000, .chain), ([5], 0x20000000, .chain), ([], 0xB4000000, .patchEngine)] : List (List (BitVec 29) × W32 × DecodeError)),
    decodeHost p.1 p.2.1 = .error p.2.2 := by
  decide

/-- R43, R45, R46: images that no template may run. -/
theorem test_refused_images : ∀ p ∈ ([(.C, 0x1200000000000000000000000000000000000000000000000000000000000000, .notTemplate), (.M, 0x400000000000000000000000000000000000000000000000000000000000000, .notTemplate), (.A, 0x7c00000000000000000000000000000000000000000000000000000000000000, .notTemplate),
    (.A, 0x1000000000000000000000000000000000000000000000000000000000000, .reservedField), (.A, 0x400000000000000000000, .reservedField), (.A, 0x40000, .reservedField), (.C, 0x100000000000000000000000000000000000000000000000000000000, .reservedField),
    (.M, 0x2000000000000000000000000000000000000000000000010000000000000000, .reservedField), (.F, 0xfe00000000000000000000000000000000000000000000000000000000000000, .unassigned)] : List (Eng × BitVec 256 × DecodeError)),
    decodeImage p.1 p.2.1 = .error p.2.2 := by
  decide

theorem test_too_short : decode [0, 0, 0] = .error .tooShort := by decide

/-- R22, R38: a prefix and its host in memory, least significant byte first, with bytes after them. -/
theorem test_decode_bytes : decode [0x01, 0, 0, 0xC0, 0x00, 0x51, 0xA0, 0x00, 7]
    = .ok (.addImm 0 (.x 5) (.x 4) 64, [7]) := by decide

/-- R40: two prefixes give the high bits of a 64-bit immediate, the first the highest. -/
theorem test_decode_two_prefixes : decodeHost [1, 2] 0x00A05103 = .ok (.addImm 0 (.x 5) (.x 4) 0x0000000800000083) := by decide

/-- One ill-formed term for every check of well-formedness, with the check that refuses it. -/
theorem test_ill_formed : ∀ p ∈ ([(.beq 0 (.x 1) 0x10000000000, .offset), (.vBr 0 1 .any 0x10000000000, .offset),
    (.jmp 0 0x400000000000, .offset), (.call 0 0x400000000000, .offset), (.mark 0 5, .scope), (.pub 0 (.x 1) 7, .scope),
    (.srd 0 (.x 1) 0x047, .sysReg), (.swr 0 (.x 1) 0xFFF, .sysReg),
    (.cCopy 0 (.image ⟨0, 0, 0, 0, 0, 0, 1, 0⟩), .reservedField), (.cFill 0 (.image ⟨0, 0, 0, 0, 1, 0, 0, 0⟩), .reservedField),
    (.cConvF32 0 (.direct (.pop 1) (.pop 2) 28), .format), (.cConvBf16 0 (.image ⟨0, 0, 0, 0, 0, 1, 0, 0⟩), .reservedField),
    (.cDrain 0 (.image ⟨0, 0, 0, 0, 0, 0, 0, 1⟩), .reservedField), (.cScat 0 ⟨0, 0, 0, 0, 0, 0, 0, 1⟩, .reservedField),
    (.cRsend 0 ⟨0, 0, 1, 0, 0, 0, 0, 0⟩, .reservedField), (.cRrecv 0 ⟨0, 0, 0, 0, 0, 1, 0, 0⟩, .reservedField), (.mZero 0 63 1, .tiles),
    (.mMma 0 6 (.direct 61 0), .tiles), (.mMma 0 0 (.image ⟨0, 0, 1, 0, 0, 0, false⟩), .reservedField),
    (.mMmas 0 0 (.image ⟨0, 0, 0, 0, 0, 1, false⟩), .reservedField), (.vStx 0 1 2 3 .s8, .elemField),
    (.vAdd 0 1 2 3 ⟨.s32, .rtz, false⟩, .modField), (.vMin 0 1 2 3 ⟨.f32, .rne, true⟩, .modField), (.vAbs 0 1 2 ⟨.f32, .rne, true⟩, .modField),
    (.vShl 0 1 2 3 ⟨.f32, .rne, false⟩, .modField), (.vShr 0 1 2 3 ⟨.s32, .rne, true⟩, .modField), (.vExp2 0 1 2 ⟨.s32, .rne, false⟩, .modField),
    (.vScanr 0 1 2 ⟨.n16, .rdn, false⟩, .modField), (.vIota 0 1 ⟨.bf16, .rne, false⟩, .modField), (.vPack 0 1 2 ⟨.f32, .rne, false⟩, .modField),
    (.vStub 0 1 2 3 ⟨.s32, .rne, false⟩, .modField), (.vCvt 0 1 2 .s32 .s16 .rtz false, .modField)] : List (Instr × DecodeError)),
    p.1.check = .error p.2 := by
  decide
/-! ## Small states -/

/-- A user cell on core 0: its text at address 0, whose first page is mapped; q0 from A to C, q1 from V to A, q2 from A to V,
q3 from A to F, q4 from F to A, q5 from A to M, q6 from V to V's neighbour F. -/
def base : State :=
  let s := { State.reset.withFetchWord 32 0x01040000 with agenda := [] }
  s.setCell { s.cell with ident := { s.cell.ident with serial := 7, qbind := 0x84C08886B082 } }

/-- The same cell in supervisor mode. -/
def super : State := base.setCell { base.cell with ident := { base.cell.ident with supv := true } }

/-- An engine executes. -/
def at_ (s : State) (e : Eng) : State := { s with cur := { s.cur with eng := e } }

/-- The engine leaves a load outstanding. -/
def deferred (s : State) : State := { s with cur := { s.cur with defer := true } }

/-- A queue with one value in it. -/
def hold (s : State) (q : Fin 16) (v : Word) : State := s.setQ q (s.roll.q[q] ++ [⟨v, true, 0, Known.none⟩])

/-- Bytes placed in memory. -/
def place (s : State) (x : Nat) (bs : List Byte) : State := { s with mem := Memory.putList s.mem x bs }

/-- The context registers of the running cell. -/
def ctxed (s : State) (f : Context → Context) : State := s.setCell { s.cell with ctx := f s.cell.ctx }

/-- The identity of the running cell. -/
def named (s : State) (f : Ident → Ident) : State := s.setCell { s.cell with ident := f s.cell.ident }

/-- The traps of the running cell. -/
def trapped (s : State) (f : Traps → Traps) : State := s.setCell { s.cell with traps := f s.cell.traps }

/-- The state after an answer. -/
def after (o : Host.Outcome State Fault Refusal) : State := match o with
  | .next t => t
  | _ => base

/-- A load of 8 bytes at 0x1000 that A has left outstanding. -/
def late (d : LoadDst) (rmw : Option Rmw := none) : Load := ⟨0, 0x1000, locPhys 0x1000, 8, false, d, rmw, none⟩

/-- The cell with loads outstanding. -/
def awaiting (ls : List Load) : State := base.setFlight { base.flight with loads := ls }

/-- The binding checks and token waits of a word. -/
def passes (s : State) (e : Eng) (t : Tok) (uses : List (Fin 16 × Bool)) : Res State := do
  s.bindAll e uses
  let (_, u) ← s.takeTokens e t
  .ok u

/-- What passes answers is the state of the statements' Admits. -/
theorem passes_ok {s u : State} {e : Eng} {t : Tok} {uses : List (Fin 16 × Bool)} (h : passes s e t uses = .ok u) :
    s.Admits e t uses u := by
  unfold passes at h
  unfold State.Admits
  rcases hb : s.bindAll e uses with _ | _ <;> rw [hb] at h
  · cases h
  rcases ht : s.takeTokens e t with _ | ⟨l, v⟩ <;> rw [ht] at h <;> cases h
  exact ⟨rfl, l, rfl⟩

/-- A chain of results that ends in true: its hypotheses hold together. -/
def met (r : Res Bool) : Bool := match r with
  | .ok b => b
  | .error _ => false

/-- A fault check among results. -/
def chk {α : Type} (r : Except Flt α) : Res α := liftFlt r

/-- An outcome that is a next state with a property. -/
def nextIs (o : Host.Outcome State Fault Refusal) (p : State → Bool) : Bool := match o with
  | .next t => p t
  | _ => false

/-! ## States that meet the hypotheses of the statements

Each test computes, on one small state, the hypotheses of the clauses of the statement that it is named after. -/

theorem witness_IntegerResults : met (do
    let s := hold base 1 9
    let s1 ← passes s .A 0 (Src.uses (.pop 1) ++ Src.uses (.x 3) ++ Dst.uses (.push 2))
    let (u, s2) ← s1.src (.pop 1)
    let (v, s3) ← s2.src (.x 3)
    let _ ← s3.dst (.push 2) (u + v)
    let r1 ← passes base .A 0 (Src.uses (.x 4) ++ Src.uses (.x 3) ++ Dst.usesRead (.x 0))
    let (a, r2) ← r1.src (.x 4)
    let (b, r3) ← r2.src (.x 3)
    let (c, r4) ← r3.dstRead (.x 0)
    let _ ← r4.dst (.x 0) (if c = 0 then b else a)
    .ok (u == 9 && v == 0)) = true := by decide

/-- The relations of clz, ctz and popc have a result for the least and the greatest source. -/
theorem witness_IntegerResults_counts : ((∀ i, i < 64 → 64 - 64 ≤ i → (0 : Word).getLsbD i = false)
    ∧ (BitVec.allOnes 64 : Word).getLsbD (63 - 0) = true ∧ (BitVec.allOnes 64 : Word).getLsbD 0 = true
    ∧ (onesOf (BitVec.allOnes 64)).length = 64) := by decide

theorem witness_DivisionAndShiftResults : met (do
    let s := (base.setX 4 0x8000000000000000).setX 3 0xFFFFFFFFFFFFFFFF
    let s1 ← passes s .A 0 (Src.uses (.x 4) ++ Src.uses (.x 3) ++ Dst.uses (.x 5))
    let (u, s2) ← s1.src (.x 4)
    let (v, s3) ← s2.src (.x 3)
    let _ ← s3.dst (.x 5) 0
    .ok (u.toInt == -2 ^ 63 && v.toInt == -1)) = true := by decide

theorem witness_ImmediateResults : met (do
    let s1 ← passes base .A 0 (Src.uses (.x 0) ++ Dst.uses (.x 31))
    let (_, s2) ← s1.src (.x 0)
    let _ ← s2.dst (.x 31) 1
    .ok true) = true := by decide

theorem witness_BitFieldResults : extracted 0xA5F0 0xF0F0 0xAF ∧ deposited 0xAF 0xF0F0 0xA0F0 := by
  unfold extracted deposited
  decide

theorem witness_RegisterOperands : (base.xBusy 0 = false ∧ base.xBusy 31 = false ∧ (awaiting [late (.reg 31)]).xBusy 31 = true
    ∧ base.qLeased .A 2 = false ∧ base.qLeased .A 1 = false ∧ (hold base 1 9).roll.q[1] = [⟨9, true, 0, Known.none⟩]
    ∧ base.roll.q[1] = [] ∧ (base.setQ 1 [⟨0, false, 0, Known.none⟩]).roll.q[1] = [⟨0, false, 0, Known.none⟩]
    ∧ base.roll.q[2].length < 4 ∧ (base.drain .A).isOk = true
    ∧ 4 ≤ (base.setQ 2 (List.replicate 4 ⟨0, true, 0, Known.none⟩)).roll.q[2].length) := by decide

theorem witness_IntegerFrame :
    nextIs (exec (.addImm 0 (.x 5) (.x 4) 3) base) (fun t => (t.path .A).walk == (base.path .A).walk + 1
        && t.cell.status == base.cell.status) = true
      ∧ (∀ l ∈ base.flight.loads, l.rmw = none) ∧ integerForm (.addImm 0 (.x 5) (.x 4) 3) = some (.x 5, []) := by decide

theorem witness_BranchResults : met (do
    let s1 ← passes base .A 0 (Src.uses (.x 4))
    let (_, s2) ← s1.src (.x 4)
    let v ← passes (at_ base .V) .V 0 []
    .ok (s2.outcomeRoom .A && v.outcomeRoom .V && !(at_ base .V).tileLeased .V 3 false
      && ((State.setPath (at_ base .C) .C { base.path .C with outs := [true] }).path .C).outs == [true])) = true := by decide

theorem witness_JumpsAndLinks : met (do
    let _ ← passes base .A 0 []
    let s := base.setPath .A { base.path .A with links := List.replicate 15 8 }
    let f := base.setPath .A { base.path .A with links := List.replicate 16 8 }
    let c := at_ (base.setPath .A { base.path .A with walk := 1 }) .C
    let r := (s.setX 31 8)
    .ok (postsOf .A 0 == [] && !base.xBusy 31 && (s.path .A).links.length < 16 && 16 ≤ (f.path .A).links.length && (base.path .A).links == []
      && (c.path .C).walk < (c.path .A).walk && c.cur.eng != .A && r.x 31 == 8
      && ((c.setPath .C { c.path .C with links := [8] }).path .C).links == [8])) = true := by decide

theorem witness_TrapEntry : met (do
    let _ ← passes base .A 0 []
    let v := trapped base fun t => { t with vec := 0x7FFFFFF }
    let n := named base fun i => { i with htrap := 0xFFFFFFFF }
    let a := trapped base fun t => { t with cause := 1#1 ++ 0#63 }
    .ok (base.cell.raised == none && base.flight.loads == [] && base.flight.quiet && base.flight.fop.isNone && !base.cell.traps.active && base.trapEntry.isSome
      && v.cell.traps.vec.getLsbD 0 && !base.misc.trcauto && !base.supv && n.trapEntry == none && a.cell.traps.active)) = true := by decide

theorem witness_EretReturns : met (do
    let a := trapped base fun t => { t with cause := 1#1 ++ 0#63, aside := some base.roll.paths }
    let _ ← passes a .A 0 []
    .ok (postsOf .A 0 == [] && a.cell.traps.active && a.cell.traps.aside.isSome && !base.cell.traps.active)) = true := by decide

theorem witness_HoldingWords : met (do
    let s1 ← passes base .A 0 []
    let s2 ← chk (s1.performLoads s1.flight.loads.length)
    s2.peersAcked base (fun _ => true)
    let h := [Eng.C, .M, .V, .F].foldl (fun s e => s.setPath e { s.path e with halted := true }) s2
    let a := ctxed base fun c => { c with active := true }
    let a1 ← passes a .A 0 []
    .ok (base.cur.eng == .A && !base.cell.ctx.active && s2.workDone && s2.workOut && !s2.versionDrains && s2.versionFlt == none && s2.stagingRoom && s2.allStand && h.allHalted
      && a.cell.ctx.active && a1.allStand && a1.segsOut && a.ckFlt == none && (at_ base .C).cur.eng != .A)) = true := by decide

/-- The cell of base with a buffer of 64 bytes registered in slot 0: backings at 0x1000 and 0x2000. -/
def buffered : Res State := do
  let s := base.setCell { base.cell with slots := base.cell.slots.set 0 { b0 := 0x1000, b1 := 0x2000, ver := 0, len := 0 } }
  s.writePblen 0x8000000000000040

/-- The state in which that cell stands at pub. -/
def publishing : State := match buffered with
  | .ok s => s
  | .error _ => base

/-- pub of an enabled slot, without a counter and with one; mark at the least and the greatest scope; ltrig of a cell with no DONE
entry and of one with. -/
theorem witness_PublishAndMark : met (do
    let s := publishing
    let s1 ← passes s .A 0 (Src.uses (.x 0))
    let (u, s2) ← s1.src (.x 0)
    let s4 ← s2.waitScope s 0
    let c := s.setCell { s.cell with slots := s.cell.slots.set 0 { s.cell.slots[0] with ver := 0x3000 } }
    let c1 ← passes c .A 0 (Src.uses (.x 0))
    let (_, c2) ← c1.src (.x 0)
    let (x, c3) ← c2.reach (c.cell.slots[0]).ver 8 .store
    let c4 ← c3.waitScope c 4
    let _ ← chk (c4.loadBytes .A 0x3000 x 8)
    let _ ← chk ((c4.publish 0 4).countVersion 0x3000 x)
    let n1 ← passes base .A 0 []
    let n2 ← chk (n1.drainKnown .A 3)
    n2.peersAcked base n2.knowsPeer
    let d := named base fun i => { i with record := 0x800000 <<< 96 }
    let y := d.land d.me (entryLoc 0x800000)
    .ok (u == 0 && (s.cell.slots[0]).en && !(s.cell.slots[0]).lc && (s.cell.slots[0]).ver == 0
      && !s4.cmdWrites 0 && (c.cell.slots[0]).en && (c.cell.slots[0]).ver != 0 && !c4.cmdWrites 0
      && !base.cell.ident.done && !entryValid (base.cell.ident.record.extractLsb' 96 32)
      && entryValid (d.cell.ident.record.extractLsb' 96 32) && ((d.perform (fun p => p.serial == 7) 3).poisoned .device y 32).isNone
      && (n2.barFlt n2.me (n2.cell.ident.record.extractLsb' 96 32) 1).isNone
      && (d.barFlt d.me (d.cell.ident.record.extractLsb' 96 32) 1).isNone && Memory.wf n2.mem)) = true := by decide +kernel

theorem names_micro : (publishing.cores.toList.map (·.micro) == (after (exec (.pub 0 (.x 0) 0) publishing)).cores.toList.map (·.micro))
    = true := by decide +kernel

theorem names_stay : publishing.SamePages (after (exec (.pub 0 (.x 0) 0) publishing)) :=
  ⟨by decide +kernel, by decide +kernel, by decide +kernel, by decide +kernel, cores_agree (·.micro) (eq_of_beq names_micro).symm⟩

/-- The first byte of that buffer is found by its owner and by the device, and no address changes its translation at the pub. -/
theorem witness_PublishAndMark_names : (∃ p, publishing.pubAt none (locPhys 0x1000) = some (p, 0)
      ∧ publishing.pubAt (some 7) (locPhys 0x1000) = some (p, 0) ∧ p.owner = 7 ∧ p.slot = 0)
    ∧ (∀ q b, (after (exec (.pub 0 (.x 0) 0) publishing)).backLoc q b = publishing.backLoc q b)
    ∧ ∀ y, (after (exec (.pub 0 (.x 0) 0) publishing)).home y = publishing.home y := by
  have h := names_stay
  refine ⟨⟨⟨7, 0, 0, 0, 0x1000, 0x2000, 64, false, []⟩, by decide +kernel⟩, ?_, h.home⟩
  exact h.backLoc (cores_agree (·.cell.ident.serial) (by decide +kernel))

theorem witness_RandomTraceHackSlots : met (do
    let _ ← passes base .A 0 []
    let r1 ← passes base .A 0 [(2, true)]
    r1.roomQ .A 2 1
    let _ ← chk (r1.drain .A)
    let s1 ← passes base .A 0 (Src.uses (.x 4))
    let (_, s2) ← s1.src (.x 4)
    let r := base.setMisc { base.misc with trcbase := 0x3000, trcsize := 4, trcpos := 3 }
    let (x, u) ← chk ((r.send .A).access 0x3060 32 .store)
    u.undrained x
    let _ ← chk (u.loadsBefore x 32)
    let b := base.setMisc { base.misc with trcbase := 0x30001, trcsize := 4 }
    let q := base.setX 4 480
    let q1 ← passes q .A 0 (Src.uses (.x 4) ++ Dst.uses (.x 5))
    let (n, q2) ← q1.src (.x 4)
    q2.dstReady (.x 5)
    let _ ← (q2.setMisc { q2.misc with rreq := n.setWidth 10, rgrant := 0 }).dst (.x 5) 0
    .ok (!base.xBusy 0 && !base.xBusy 31 && base.misc.trcsize == 0 && u.storesOut .A < 32 && s2.x 4 == 0
      && ((b.send .A).access 0x30001 32 .store).isOk == false && n.toNat == 480 && q.rslotReq == none
      && (q.die q.dieId).pinUse == 20)) = true := by decide

/-- A supervisor at a hack of core 1, with the request in x4: the core's cell and its freeze. -/
def hacking (req : Word) (st : Status) (frozen : Bool) : State :=
  let h := (super.setX 4 req).setDie 0 { super.die 0 with hackbase := 0x1000 }
  let k := h.cores[(1 : CoreId)]
  { h with cores := h.cores.set 1 { k with cell := { k.cell with status := st, frozen := frozen } } }

/-- A stop of an idle core and of a running cell; a step and a resume of a stopped one; an action that has been performed. -/
theorem witness_RandomTraceHackSlots_hack : met (do
    let ok (h : State) : Res Word := do
      let h1 ← passes h .A 0 (Src.uses (.x 4))
      let (w, _) ← h1.src (.x 4)
      h.hackOk w
      .ok w
    let i := hacking 0x1000000100000000 .idle false
    let w0 ← ok i
    let s := hacking 0x1000000100000000 .running false
    let _ ← ok s
    let p := hacking 0x3000000100000000 .running true
    let w3 ← ok p
    let r := hacking 0x2000000100000000 .running true
    let w2 ← ok r
    let d := s.setRun .A { s.run .A with stall := some { why := .hack, since := 0, limit := none } }
    let _ ← ok d
    .ok (i.supv && w0.extractLsb' 3 29 == 0 && w0.extractLsb' 41 19 == 0 && w0.extractLsb' 60 4 == 1
      && (coreAt (if w0.getLsbD 40 then 1 else 0) (w0.toNat / 2 ^ 32 % 256) == some 1) && (i.die 0).hackbase != 0
      && i.cores[(1 : CoreId)].cell.status == .idle && i.cores[(1 : CoreId)].hackReq == none && !i.hackAsked && Memory.wf i.mem
      && postsOf .A 0 == [] && hackTarget w0 == some 1 && d.hackAsked && !(s.on 1).dumping && hackAction w3 == 3
      && hackAction w2 == 2)) = true := by decide

theorem witness_RegisterReads : met (do
    let _ ← passes base .A 0 []
    .ok (!base.xBusy 31 && (31 : Fin 32) != 0)) = true := by decide

theorem witness_RegisterWrites : met (do
    let s1 ← passes super .A 0 (Src.uses (.x 4))
    let _ ← s1.src (.x 4)
    let b1 ← passes base .A 0 (Src.uses (.x 4))
    let _ ← b1.src (.x 4)
    .ok (super.supv && !base.supv)) = true := by decide

/-- Loads of each size at the last place of a page of 64 KB, at once and left outstanding, into a register and into a queue. -/
theorem witness_LoadResults : met (do
    let s1 ← passes base .A 0 (Src.uses (.x 0) ++ Dst.uses (.push 2))
    let (b, s2) ← s1.src (.x 0)
    let r ← [(1, 0xFFFF), (2, 0x7FFF), (4, 0x3FFF), (8, 0x1FFF)].mapM fun (n, i) => do
      let (x, t) ← s2.reach (b + BitVec.ofNat 64 i * BitVec.ofNat 64 n) n .load
      let t ← chk (t.performLoads t.flight.loads.length)
      let bs ← chk (t.fetchData (b + BitVec.ofNat 64 i * BitVec.ofNat 64 n) x n)
      let t := t.peerReceipt .A x
      let _ ← t.dst (.push 2) (extended true n bs)
      t.roomQ .A 2 1
      .ok (bs.length == n)
    .ok (r.all id && (deferred base).cur.defer && !base.cur.defer && spaceOf 0xFFFF != 0xF && base.flight.loads.length < 32
      && !base.xBusy 5)) = true := by decide

theorem witness_StoreResults : met (do
    let s1 ← passes base .A 0 (Src.uses (.x 0) ++ Src.uses (.x 3))
    let (b, s2) ← s1.src (.x 0)
    let (_, s3) ← s2.src (.x 3)
    let r ← [(1, 0xFFFF), (2, 0x7FFF), (4, 0x3FFF), (8, 0x1FFF)].mapM fun (n, i) => do
      let (x, t) ← s3.reach (b + BitVec.ofNat 64 i * BitVec.ofNat 64 n) n .store
      let _ ← chk (t.loadsBefore x n)
      .ok (decide (t.storesOut .A < 32))
    let (y, w) ← super.reach 0xF000000001100000 8 .store
    let _ ← chk (w.loadsBefore y 8)
    .ok (r.all id && spaceOf 0xF000000001100000 == 0xF && w.storesOut .A < 32)) = true := by decide

/-- The clauses of the access check at places where they meet: a misaligned address, a space that is none, an atomic and a load of the
scratchpad at its last 8 bytes and past them, and a user's access to system space. -/
theorem witness_AccessChecks : (0x1001 % 2 ≠ 0 ∧ spaceOf 0x1000000000000000 ∉ [0x0, 0x8, 0xA, 0xF] ∧ spaceOf 0x8000000000000000 ∈ [0x8, 0xF]
    ∧ spaceOf 0xF000000000000000 = 0xF ∧ base.supv = false ∧ offOf 0x800000000017FFF8 + 8 = 0x180000
    ∧ offOf 0x8000000000180000 + 8 > 0x180000) := by decide

/-- An atomic of each size at a granule of the mapped page, and an await whose value differs and one whose value does not. -/
theorem witness_AtomicResults : met (do
    let s := (base.setX 4 0x1000).setX 3 5
    let s1 ← passes s .A 0 (Src.uses (.x 4) ++ Src.uses (.x 3) ++ Dst.usesRead (.x 5))
    let (p, s2) ← s1.src (.x 4)
    let (v, s3) ← s2.src (.x 3)
    let (e, s4) ← s3.dstRead (.x 5)
    let r ← [4, 8].mapM fun n => do
      let (x, t) ← s4.reach p n .atomic
      let t ← chk (t.performLoads t.flight.loads.length)
      let t := (t.peerSend .A x).settle (t.obs .A p) (t.land t.me x) n
      let bs ← chk (t.loadBytes .A p x n)
      let _ ← ((t.writeAt (t.obs .A p) t.me x (leBytes n v.toNat)).peerReceipt .A x).dst (.x 5) (BitVec.ofNat 64 (leNat bs))
      .ok true
    let (x, s5) ← s4.reach p 8 .await
    let s6 ← chk (s5.performLoads s5.flight.loads.length)
    let s6 := s6.settle (s6.obs .A p) (s6.land s6.me x) 8
    let bs ← chk (s6.loadBytes .A p x 8)
    let _ ← (s6.peerReceipt .A x).dst (.x 5) (leWord bs)
    .ok (r.all id && s4.storesOut .A < 32 && !s.cur.defer && (deferred s).cur.defer && !s.xBusy 5 && s.flight.loads.length < 32
      && leWord bs == e && s.now - s.stallSince .A .await < v.toNat && s.cur.undo == none
      && decide ((0 : Word).toNat ≤ s.now - s.stallSince .A .await))) = true := by decide +kernel

/-- A barrier object with fields of zero but those named. -/
def object (expect gen arrived timeout : BitVec 32) : List Byte :=
  leBytes 32 (BarObj.bits ⟨0, expect, arrived, gen, timeout, 0, false, 0, false, 0⟩).toNat

/-- A barrier object at the last place of shared space; bar.init, bar.arr, bar.add with and without a credit. -/
theorem witness_BarrierWords : met (do
    let p : Word := 0xA00000000BFFFFE0
    let s := (base.setX 4 p).setX 3 0x0000000400000001
    let s1 ← passes s .A 0 (Src.uses (.x 4) ++ Src.uses (.x 3))
    let (_, s2) ← s1.src (.x 4)
    let (w, s3) ← s2.src (.x 3)
    let (x, s4) ← s3.reach p 32 .barrier
    let _ ← s4.objectHere p x
    let c := s4.setCell { s4.cell with blog := [⟨p, .init, 0, true⟩, ⟨p, .arr, 3, true⟩, ⟨p, .add, 64, true⟩] }
    let _ ← c.objectHere p x
    let a := s4.setPath .C { s4.path .C with walk := 1 }
    let o := place a x (object 2 1 0 0)
    let o1 ← o.waitScope s (Nat.min 4 (o.barObj (o.obs .A p) (o.land o.me x)).scope.toNat)
    let (b, _) ← o1.objectAt p x
    .ok (w.extractLsb' 0 32 != 0 && (w.extractLsb' 32 3).toNat == 4 && (s4.creditOf p .init).isNone && s4.cell.blog.length < 32
      && (c.creditOf p .init).isSome && (c.creditOf p .arr).isSome && (c.creditOf p .add).isSome
      && s.roll.arrivals.length < 8 && a.cPast && Memory.wf s4.mem && b.expect == 2
      && ((o.settle (o.obs .A p) (o.land o.me x) 32).poisoned (o.obs .A p) (o.land o.me x) 32).isNone
      && !s.cell.ident.multiWave)) = true := by decide +kernel

theorem witness_BarrierWaits : met (do
    let p : Word := 0xA000000000000020
    let (y, t) ← (base.setX 4 p).reach p 32 .barrier
    let s := place t y (object 2 1 0 0)
    let f := s.uncountWait.firstRead (.x 4)
    let s1 ← passes f .A 0 (Src.uses (.x 4) ++ Dst.uses (.x 5))
    let (_, s2) ← s1.src (.x 4)
    let (x, s3) ← s2.reach p 32 .barrier
    let (o, s4) ← s3.objectAt p x
    let a := s.setRoll { s.roll with arrivals := [(p, 0)] }
    let _ ← s4.dst (.x 5) 0
    .ok (!s.cell.ident.multiWave && o.gen == (s.roll.arrivals.lookup p).getD s4.misc.waitGen && s.cur.undo == none
      && o.timeout == 0 && o.gen != (a.roll.arrivals.lookup p).getD s4.misc.waitGen)) = true := by decide +kernel

/-- A command block: a copy of 64 bytes. -/
def block : Nat := 0x40000000000000100000000000000020000000000000000000000000000000005500000000000000000000000000000000

/-- push on queue 3, renq on the last queue of the last core, qstat; the block a command, and one with a reserved bit. -/
theorem witness_CommandWords : met (do
    let s := place ((base.setX 4 0x1000).setX 3 3) (locPhys 0x1000) (leBytes 64 block)
    let s1 ← passes s .A 0 (Src.uses (.x 4) ++ Src.uses (.x 3))
    let (adr, s2) ← s1.src (.x 4)
    let (_, s3) ← s2.src (.x 3)
    let s4 ← chk (s3.performLoads s3.flight.loads.length)
    let (x, s5) ← (s4.perform (fun p => p.serial == s.cell.ident.serial && p.eng == .A) 1).reach adr 64 .tset
    let bs ← chk (s5.loadBytes .A adr x 64)
    let (y, r5) ← (s4.perform (fun p => p.serial == s.cell.ident.serial && p.eng == .A) 3).reach adr 64 .tset
    let cs ← chk (r5.loadBytes .A adr y 64)
    let last : CoreId := 387
    let b : BitVec 512 := BitVec.ofNat 512 (leNat bs)
    let q := s.setRun .A { s.run .A with stall := some { why := .quota (queueName last 3) b, since := 0, limit := none } }
    let s6 := (s5.peerReceipt .A x).touched x 64
    let r6 := (r5.peerReceipt .A y).touched y 64
    let q5 := s4.perform (fun p => p.serial == s.cell.ident.serial && p.eng == .A) 3
    let takes (s : State) (k : CoreId) : Bool := !s.atQuota k 3 && !s.spills k 3
      && (s.cmdOf b).all fun c => (s.barFlt (some c.owner) c.bar (s.cmdBytes k c)).isNone
    .ok ((s6.cmdOf b).isSome && bs == cs && ((s6.cmdOf b).all fun c => (s6.entryCheck s.domain s.supv c.bar).isOk)
      && s.blockRead (queueName s.cur.core 3) == none && s.blockRead (queueName last 3) == none
      && takes s6 s.cur.core && s.cores[last].enabled && (q.cmdOf b).isSome && (q.run .A).stall.isSome
      && s5.queueNamed ((queueName last 3).setWidth 64) == some (last, 3) && takes r6 last && takes q5 last
      && (s5.cmdOf (BitVec.ofNat 512 (leNat bs + 2 ^ 192))).isNone)) = true := by decide +kernel

/-- A template image of add.imm x5, x4, 1. -/
def image : BitVec 256 := 0x5000000000000000000000000000000000000000000000000000000000045100

theorem witness_TemplateWords : met (do
    let s1 ← passes base .A 0 (Src.uses (.x 4))
    let (p, s2) ← s1.src (.x 4)
    let (x, s3) ← s2.reach p 32 .tset
    let s4 ← chk (s3.performLoads s3.flight.loads.length)
    let _ ← chk (s4.loadBytes .A p x 32)
    let s := base.setTemplate .A 63 image
    let _ ← passes s .A 0 []
    .ok (base.roll.fmtq.length < 16 && !s.tsetAhead .A 63 && s.template .A 63 == some image
      && (decodeImage .A image).isOk && fieldSpan .A (image.extractLsb' 249 7).toNat 2 == some (18, 64)
      && (decodeImage .A (amendImage image 18 64 (2 ^ 64 - 1))).isOk && !base.tsetAhead .A 63 && base.template .A 63 == none
      && !s.xBusy 31 && !s3.aheadHas .F .A (isPatch .F 0))) = true := by decide +kernel

/-- A template image of li x5, 7. -/
theorem witness_TemplateWords_li : (encodeImage (.li 0 (.x 5) 7)).any (fun p => decodeImage .A p.2 == .ok (.li 0 (.x 5) 7)) = true := by
  decide +kernel

/-- A context record of one segment of one block. -/
def record : Nat := 0x20000000000000003000000000000000400000000000000028003e000000000900010000000000010001010010c1000000000000000000000000

/-- sgin of an absent segment; the descriptor absent, resident and unpinned, resident and pinned. -/
theorem witness_SegmentWords : met (do
    let s := place (place (base.setX 4 0x1000) (locPhys 0x1000) (leBytes 64 record)) (locPhys 0x3000) (leBytes 8 0x5000)
    let s1 ← passes s .A 0 (Src.uses (.x 4) ++ Src.uses (.x 3) ++ Dst.uses (.x 5))
    let (adr, s2) ← s1.src (.x 4)
    let (arg, s3) ← s2.src (.x 3)
    let (r, s4) ← s3.ctxRecord adr
    let (ts, s5) ← s4.tiers r 0 0 r.blocks
    let s6 ← s5.touchAll .load r.blockBytes ts
    let s7 ← s6.touchAll .store (r.blocks * r.blockBytes) ((List.range r.limit).map r.slotAt)
    let s8 ← chk (s7.drainKnown .A 3)
    s8.dstReady (.x 5)
    let (v, s9) ← s8.stepIn r 0 ts 0
    let _ ← s9.dst (.x 5) v
    let resident := place s8 (locPhys 0x2000) (leBytes 8 (2 * 262144))
    let pinned := place s8 (locPhys 0x2000) (leBytes 8 (2 * 262144 + 2 ^ 48))
    let (d0, _) ← s8.atomic (r.descAt 0) 8 fun _ => none
    let (d2, _) ← resident.atomic (r.descAt 0) 8 fun _ => none
    let (d3, _) ← pinned.atomic (r.descAt 0) 8 fun _ => none
    let (o, _) ← resident.stepOut r 0 ts 0
    let (_, a9) ← s8.atomic (r.descAt 0) 8 fun _ => none
    let (bs, a10) ← a9.readRecord (r.adr + 16) 8
    let free ← a10.freeSlot r 0 r.limit
    let u1 ← a10.rmwA (r.descAt 0) (fun w => w / 1048576 * 1048576 + 262144 + w / 65536 % 4 * 65536)
    let u2 ← u1.rmwA (r.mapAt 0) (fun w => if w.testBit 0 then w else w + 1)
    let u3 ← u2.rmwA (r.adr + 16) (fun w => (w + 281474976710656) % 2 ^ 64)
    let _ ← (u3.startSeg r true true 0 0 ts 0).dst (.x 5) 0
    let (_, b9) ← resident.atomic (r.descAt 0) 8 fun _ => none
    let v1 ← b9.rmwA (r.descAt 0) (fun w => w / 1048576 * 1048576 + 3 * 262144 + w / 65536 % 4 * 65536)
    let _ ← (v1.startSeg r false false 0 0 ts 0).dst (.x 5) 0
    .ok (arg.toNat % 4294967296 < r.nseg && !entryBad (arg.extractLsb' 32 32) true && v.extractLsb' 62 2 == 0 && r.limit < 65536
      && leNat bs / 281474976710656 != r.limit && free == some 0 && (s4.entryCheck s.domain s.supv 0).isOk
      && (s8.barFlt s8.me 0 (r.blocks * r.blockBytes)).isNone && d0 / 262144 % 4 == 0 && d2 / 262144 % 4 == 2 && d2 / 2 ^ 48 == 0 && d3 / 2 ^ 48 != 0 && o == 0)) = true := by decide +kernel

/-- The cell at C with two addresses in q0 and an accepted tree of one node, the root at site 0: NELEM 1, TIMEOUT 10 us. -/
def copying : State :=
  let s := hold (hold (at_ base .C) 0 0x2000) 0 0x1000
  let s := place s (locSys 0 0x1000000) (leBytes 8 (2 ^ 63 + 2 ^ 48 + 10))
  place s (locSys 0 0x1000010) (leBytes 8 (2 ^ 63 + 2 ^ 62 + 0x1FF * 2 ^ 53 + 0x1FF * 2 ^ 44 + 0x1FE * 2 ^ 35))

/-- Every operation of C, in its direct form and in a template's, on a range that it may use. -/
theorem witness_CopyIssue : met (do
    let s1 ← passes copying .C 0 (QSrc.uses (.pop 0) ++ QSrc.uses (.pop 0))
    let (x, _, s2) ← s1.qsrc .C (.pop 0)
    let (y, _, s3) ← s2.qsrc .C (.pop 0)
    let n : BitVec 6 := 0
    let g := s3.textAgent
    chk (s3.opCheck g true .copy { CFields.zero with f1 := x, f2 := y, f3 := BitVec.ofNat 32 (64 * (n.toNat + 1)) })
    chk (s3.opCheck g true .fill { CFields.zero with f1 := x, f2 := y, f3 := BitVec.ofNat 32 (64 * (n.toNat + 1)) })
    for t in [Ty.f32, .bf16, .f16] do
      chk (s3.opCheck g true (.conv t) { CFields.zero with f1 := x + 0x2000, f2 := y, f3 := 1024, f5 := 27 })
    for (k, f) in [(CKind.copy, (⟨0x2000, 0x1000, 4, 0x800001, 0, 0, 0, 0⟩ : CFields)), (.fill, ⟨0x2000, 0x1000, 8, 0, 0, 0, 0, 0⟩),
        (.conv .f32, ⟨0x2000, 0x1000, 32, 0, 27, 0, 0, 0⟩), (.gath, ⟨0x2000, 0x1000, 0, 0, 1, 32, 5, 0⟩),
        (.scat, ⟨0x2000, 0x1000, 0, 0, 1, 32, 5, 0⟩), (.drain, ⟨0x2000, 63, 1, 0, 1, 0, 0, 0⟩),
        (.drainSel, ⟨0x2000, 0, 0x3F800000, 0, 63, 1, 63, 3⟩), (.rrecv, ⟨0x2000, 0, 0, 0, 0, 0, 0, 0⟩),
        (.rsend, ⟨0x2000, 0, 0, 0, 0, 0, 0, 0⟩)] do
      chk (s1.opCheck s1.textAgent false k f)
    chk (s2.opCheck s2.textAgent true .drain { CFields.zero with f1 := x, f2 := 63, f3 := 1 })
    let b : State := copying
    .ok ((b.barFlt b.me 0x800001 4096).isNone && (s3.barFlt s3.me 0 4096).isNone && s3.cBusy < 16 && Memory.wf copying.mem && copying.resumesAt (copying.path .C).pc == none && entryValid 0x800001)) = true := by
  decide +kernel

/-- The last chunk of a copy that is shorter than the others, the first of a fill, an element of a gather and of a scatter, a tile of a
drain. -/
theorem witness_CopyUnits : met (do
    let g := copying.textAgent
    let f : CFields := ⟨0x4000, 0x8000, 4160, 0, 0, 0, 0, 0⟩
    let (bs, s1) ← chk (copying.readC g (f.f2 + 4096) 64)
    let (_, s2) ← chk (s1.range g (f.f1 + 4096) 64 .store)
    let _ ← chk (s2.writeC g (f.f1 + 4096) bs)
    let _ ← chk (copying.writeC g f.f1 (List.replicate 64 0))
    let e : CFields := ⟨0x2000, 0x1000, 0x17FFFC, 0, 1, 32, 5, 0⟩
    let (ix, i1) ← chk (copying.readC g (0x8000000000000000 + e.f3.setWidth 64) 4)
    let (b1, i2) ← chk (i1.readC g (e.f2 + BitVec.ofNat 64 (leNat ix) <<< 5) 32)
    let _ ← chk (i2.writeC g e.f1 b1)
    let (b2, i3) ← chk (i1.readC g e.f2 32)
    let _ ← chk (i3.writeC g (e.f1 + BitVec.ofNat 64 (leNat ix) <<< 5) b2)
    .ok (1 < opUnits .copy f && bs.length == Nat.min 4096 (4160 - 4096) && 0 < opUnits .fill f && b1.length == 32
      && 1024 * 0 < opUnits .drain ⟨0x2000, 63, 1, 0, 1, 0, 0, 0⟩)) = true := by decide +kernel

/-- A chunk that updates, a copy whose trailer fails its check. -/
theorem witness_CopyUnits_more : met (do
    let g := copying.textAgent
    let f : CFields := ⟨0x4000, 0x8000, 64, 0, 1, 0, 0, 0⟩
    let (bs, s1) ← chk (copying.readC g f.f2 64)
    let (_, s2) ← chk (s1.range g f.f1 64 .store)
    let _ ← chk (s2.updates g f.f5.toNat f.f1 bs 16)
    let (ps, r1) ← chk (copying.range g 0x8000 64 .load)
    let ts ← chk (r1.readPieces g 0x8000 ps)
    .ok (0 < opUnits .copy f && !trailerOk (ts.take 0) (BitVec.ofNat 512 (leNat (ts.drop 0))) none)) = true := by
  decide +kernel

theorem witness_CopyUnits_conv : met (do
    let g := copying.textAgent
    let v : CFields := ⟨0x2000, 0x1000, 64, 0, 27, 0, 0, 0⟩
    let (cs, v1) ← chk (copying.readC g v.f2 (srcBytes .f32 * 32))
    let (codes, scales, _) := quant32 v.f5.toNat (srcVals .f32 cs)
    let v2 ← chk (v1.writeC g v.f1 (packBytes v.f5.toNat codes))
    let _ ← chk (v2.writeC g (v.f1 + BitVec.ofNat 64 (pad64 (elemBytes 27 64))) (scales.map fun x => BitVec.ofNat 8 x))
    .ok (0 + 32 < v.f3.toNat)) = true := by decide +kernel

/-- A selection of one candidate over a tile of NaNs. -/
theorem witness_CopyUnits_select : met (do
    let f : CFields := ⟨0x2000, 0, 0x3F800000, 0, 63, 1, 0, 1⟩
    let s := copying.setAcc 63 (Tile.of fun _ => 0x7FC00000)
    let st := s.selTiles (FFmt.f32.decode f.f3.toNat)
      { m := .inf true, sum := .zero, nan := 0, cand := List.replicate 1 (.inf true, 0xFFFFFFFF) } 63 0 1
    let _ ← chk (s.writeC s.textAgent f.f1 (selRecord 1 st))
    .ok (0 < f.f6.toNat && !f.f8.getLsbD 1 && f.f5.toNat + f.f6.toNat ≤ 64)) = true := by decide +kernel

/-- c.rsend of the tree's one element, and c.rrecv of the result that its root then has. -/
theorem witness_CopyUnits_tree : met (do
    let g := copying.textAgent
    let (bs, _) ← chk (copying.readC g 0x2000 (4 * copying.treeElems 0 (dieOf g.core)))
    let s := copying.nodeInput 0 0 0 0 0 [7] 3
    let node := s.nodeState 0 0 0
    let (vals, _) ← match node.resultOf 0 with
      | some x => (.ok x : Res (List W32 × BitVec 48))
      | none => .error (.fault (Flt.mk' .illegal 0))
    let _ ← chk (s.writeC g 0x2000 (vals.flatMap fun w => leBytes 4 w.toNat))
    .ok (bs.length == 4 && vals == [7] && (node.failed.find? fun x => x.1 == 0).isNone)) = true := by decide +kernel

/-- One tile of a drain can be written. -/
theorem witness_CopyUnits_drain : met (do
    let bs := (copying.accTile 63).toList.flatMap (fun w => leBytes 4 w.toNat)
    let _ ← chk (copying.writeC copying.textAgent 0x2000 bs)
    .ok (bs.length == 4096)) = true := by decide +kernel

/-- A command of one chunk. -/
def command : Cmd :=
  { kind := .copy, f := ⟨0x2000, 0x1000, 64, 0, 0, 0, 0, 0⟩, bar := 0, tag := 5, domain := 0, supv := false, owner := 7, pc := 0x40 }

/-- Queue 3 of core 0 with that command: waiting, running, run to its end, and halted. -/
def queued (running : Bool) (p : Nat) (halted : Bool) : State :=
  base.setQueue 0 3 { CmdQueue.none with entries := [command], running := running, p := p, halted := halted }

/-- A segment copy of one chunk, and core 0 with it in flight. -/
def segCopied (unit : Nat) : SegCopy := ⟨7, 0, 0, false, 0x1000, 0, 0, true, true, 256, unit, [0x5000], 0x4000, 0, 0, 0x40⟩

def segCopying (unit : Nat) : State := { base with segs := [segCopied unit] }

theorem witness_QueueAndCopySteps : met (do
    let o : COp := ⟨.copy, ⟨0x2000, 0x1000, 64, 0, 0, 0, 0, 0⟩, 0, 0, base.path .C, [], [], [], [], 0, 0, 0, 1, [], none, 0⟩
    let s := base.setFlight { base.flight with cops := [o] }
    let m := (s.moved 0 (placeOf .text) (s.workSize 0 .text)).on 0
    let u ← chk (m.opUnit (m.opAgent o) o.kind o.f o.kept o.p)
    let r := queued true 0 false
    let rm := (r.moved 0 (placeOf (.command 3)) (r.workSize 0 (.command 3))).on 0
    let _ ← chk (rm.opUnit (cmdAgent 0 3 command) command.kind command.f (r.queue 0 3).kept 0)
    let c := segCopied 0
    let g := segCopying 0
    let gm : State := { g.moved 0 5 c.chunk.2.2 with segs := g.segs.set 0 { c with unit := 1 } }
    let (ps, g1) ← chk (gm.range c.agent c.chunk.1 c.chunk.2.2 .load)
    let (qs, g2) ← chk (g1.range c.agent c.chunk.2.1 c.chunk.2.2 .store)
    let v := (g2.touchPieces c.agent ps).writePieces c.agent c.chunk.2.1
      ((granulesOf ps).flatMap fun x => g2.readAt (c.agent.obs c.chunk.1) c.agent.who x 8) qs
    chk ((queued false 0 false).opCheck (cmdAgent 0 3 command) false command.kind command.f)
    let bad := { command with f := { command.f with f1 := 0x2001 } }
    let ring := place (queued false 0 false) (locShared 64) (leBytes 64 block)
    let spilled := ring.setDie 0 { base.die 0 with
      spillBase := 0xA000000000000000, spilled := [⟨1, 3, 0, command⟩, ⟨0, 3, 1, command⟩] }
    let (bs, _) ← chk (spilled.readC (spillAgent 0) ((spilled.die 0).spillBase + BitVec.ofNat 64 (64 * 1)) 64)
    .ok (s.workReady 0 .text && s.turn 0 == placeOf .text && (m.barFlt m.me o.f.f4 (u.charge + u.bytes)).isNone && u.last
      && r.workReady 0 (.command 3) && r.turn 0 == placeOf (.command 3) && base.awake && base.peerStores.isEmpty
      && ((queued true 1 false).barFlt (some 7) 0 ((queued true 1 false).cmdBytes 0 command)).isNone
      && g.workReady 0 (.segment 0) && g.turn 0 == 5 && (granulesOf ps).all (fun x => (g2.badAt (c.agent.obs c.chunk.1) c.agent.who x 8).isNone)
      && (v.barFlt c.agent.who c.agent.bar c.chunk.2.2).isNone && !(segCopying 1).segBehind (segCopied 1)
      && !spilled.spillDrains 0 1
      && opUnits command.kind command.f ≤ ((queued true 1 false).queue 0 3).p
      && ((queued false 0 false).opCheck (cmdAgent 0 3 bad) false bad.kind bad.f).isOk == false
      && (cmdFrom 0 false 7 0x40 (BitVec.ofNat 512 (leNat bs))).isSome && (spilled.queue 0 3).entries.length < 16
      && (segCopied 1).units ≤ (segCopied 1).unit
      && coreAt (dieOf 0) ((0x403 : Word).toNat / 4 % 256) == some 0 && Fin.ofNat 4 (0x403 : Word).toNat == 3
      && (0x403 : Word).toNat / 2 ^ 12 == 0 && (0x403 : Word).extractLsb' 10 2 == 1 && (0x803 : Word).extractLsb' 10 2 == 2
      && (0x803 : Word).toNat / 2 ^ 12 == 0 && ((queued false 0 true).queue 0 3).halted)) = true := by
  decide +kernel

/-- A shape record: four rows of 64 bytes at 0x2000, a ring of two rows at scratchpad offset 0x1000. -/
def shapeRecord : Nat := 0x2000 <<< 448 + 64 <<< 384 + 4 <<< 352 + 64 <<< 336 + 2 <<< 320 + 0x1000 <<< 288

/-- c.wmap of window 7, c.wadv to the last row, c.wret, and the arrival of a row of the tensor and of one past it. -/
theorem witness_WindowWords : met (do
    let s := place (hold (at_ base .C) 0 0x1000) (locPhys 0x1000) (leBytes 64 shapeRecord)
    let s1 ← passes s .C 0 (QSrc.uses (.pop 0))
    let (p, _, s2) ← s1.qsrc .C (.pop 0)
    let (bs, s3) ← chk (s2.readC s2.textAgent p 64)
    let sh := shapeOf (BitVec.ofNat 512 (leNat bs))
    let _ ← chk ((s3.setWin 7 Window.none).translateRows sh 0 sh.ringrows)
    let m := (at_ base .C).setWin 7 ⟨some sh, 0, [0, 5], []⟩
    let m1 ← passes m .C 0 []
    let h := Nat.min (0 + (63 : BitVec 6).toNat + 1) sh.rows
    let _ ← chk (m1.translateRows sh (0 + sh.ringrows) (h - 0))
    let (row, r1) ← chk (m.readC m.textAgent (sh.base + BitVec.ofNat 64 (0 * sh.stride.toNat)) sh.rowlen)
    let _ ← chk (r1.writeC m.textAgent (0x8000000000000000 + BitVec.ofNat 64 (sh.ring + 0 % sh.ringrows * sh.pitch))
      (row ++ List.replicate (sh.pitch - row.length) 0))
    let _ ← chk (m.writeC m.textAgent (0x8000000000000000 + BitVec.ofNat 64 (sh.ring + 5 % sh.ringrows * sh.pitch))
      ([] ++ List.replicate (sh.pitch - 0) 0))
    let x := { s2 with aedty := { s2.aedty with streams := [⟨63, 0, 0, 0, 0, 0, 1⟩] } }
    .ok (p.toNat % 64 == 0 && s.flight.cops.isEmpty && !s2.behindDrain s2.textAgent p 64 && (s3.shapeBad 7 (BitVec.ofNat 512 (leNat bs))).isNone && !s.roll.win[7].busy
      && s.cBusy < 16 && m.cBusy < 16 && !(m.on 0).rowHeld 7 0 && h == 4 && m.roll.win[7].canArrive 0 && (m.on 0).working && (x.streamOf x.domain 63).isSome
      && x.roll.staging.length < 64)) = true := by decide +kernel

/-- The cell at C on a die that maps the first 64 GiB of domain 0 and holds what the core's micro-TLB holds. -/
def prefetching : State :=
  let s := place (place (place (hold (at_ base .C) 0 0x40000000) (locSys 0 0x20000) (leBytes 8 0x100001))
    (locPhys 0x100000) (leBytes 8 0x108001)) (locPhys 0x108000) (leBytes 8 0x1F)
  s.setDie 0 { s.die 0 with tlb := s.core.micro }

theorem witness_WindowWords_prefetch : met (do
    let s := prefetching
    let s1 ← passes s .C 0 (QSrc.uses (.pop 0))
    let (v, _, _) ← s1.qsrc .C (.pop 0)
    let x ← chk (s.walkTables s.domain v.toNat v .load)
    chk (s.physCheck (x.phys v.toNat) v .load)
    .ok (v.toNat < 2 ^ 57 && (s.die s.dieId).tlb.length + 1 ≤ 32768 && s.core.micro.all fun x => (s.die s.dieId).tlb.contains x)) = true := by
  decide +kernel

/-- M with a format word, two operand addresses of different bank groups in q5, and a configuration of one body. -/
def multiplying : State :=
  let s := hold (hold (at_ base .M) 5 0x8000000000000000) 5 0x8000000000060000
  let s := hold (hold s 5 0x8000000000010000) 5 0x8000000000070000
  s.setRoll { s.roll with fmtq := [0], shadow := { s.roll.shadow with body := ⟨0, 0x60000, 0, 0, 0, 0, false⟩ } }

/-- m.mma and m.mmas of the last tile. -/
def tileOperands (sparse : Bool) : Res Bool := do
  let s1 ← passes multiplying .M 0 (MForm.uses (.direct 63 5))
  let ((n, a, b, am, bm), s2) ← (s1.setRoll { s1.roll with fmtq := [] }).mAddrs sparse (.direct 63 5)
  let x := s2.mOperands 0 0 0 (a, a) (b, b) (am, am) (bm, bm)
  operandsOk x.1 x.2.1 (if sparse then some (x.2.2.1, x.2.2.2) else none)
  .ok (n + shapeTiles 0 ≤ 64 && !multiplying.drainHolds n (shapeTiles 0))

theorem witness_MatrixWords : met (tileOperands false) = true ∧ met (tileOperands true) = true := by decide +kernel

/-- m.zero of the last tile, m.lvl, m.go, m.stop. -/
theorem witness_MatrixWords_others : met (do
    let s := multiplying
    let s1 ← passes s .M 0 [(5, false)]
    let (v, _) ← s1.pop .M 5
    let g1 ← passes s .M 0 []
    g1.nestOk s.roll.shadow 0 0
    .ok (s.flight.mcmd.isNone && s.flight.nest.isNone && s.roll.fmtq == [0] && formatsOf 0 == some (0, 0) && !v.getLsbD 0
      && !s.drainHolds 63 1 && (63 : BitVec 6).toNat + (0 : BitVec 6).toNat < 64)) = true := by decide +kernel

/-- A command of M of one tile with operands of zeros. -/
def tileCommand : MCmd := ⟨false, 0, 0, 0x8000000000000000, 0x8000000000060000, 0, 0, 0, 0, 0, [], false, []⟩

/-- A nest of one body that has issued nothing. -/
def oneBody : LiveNest := ⟨multiplying.roll.shadow, 0, 0, 0, 1, []⟩

theorem witness_MatrixSteps : met (do
    let s := base.setFlight { base.flight with mcmd := some tileCommand }
    let _ ← chk ((s.on 0).mUnit tileCommand 0 0)
    let x ← chk (s.mGroups 0 (16 * 32) 32 0 tileCommand.a none 0 16)
    let y ← chk (s.mGroups 0 (32 * 64) 32 0 tileCommand.b none 0 64)
    let l := base.setFlight { base.flight with nest := some oneBody }
    .ok ((s.on 0).working && formatsOf tileCommand.fmt == some (0, 0) && s.misc.mctl == 0 && x.length == 16 && y.length == 64
      && !(l.on 0).throttled .M && (l.on 0).flight.mcmd.isNone && oneBody.total ≤ oneBody.next + 1
      && !(l.on 0).drainHolds (oneBody.body 0).n (shapeTiles (oneBody.body 0).shape))) = true := by decide +kernel

/-- V with a value in q2, which it pops. -/
def lanes (v : Word) : State := hold (at_ base .V) 2 v

/-- What the words of V on lanes need: their tiles under no lease, and the queue that some of them pop or push. -/
theorem witness_LaneResults : met (do
    let _ ← passes (at_ base .V) .V 0 []
    base.tileOk .V 15 false
    base.tileOk .V 15 true
    .ok true) = true := by decide

theorem witness_LaneLayout : met (do
    let s1 ← passes (lanes 0xFFFFFFFFFFFFFFFF) .V 0 [(2, false)]
    let (u, _) ← s1.pop .V 2
    let p1 ← passes (at_ base .V) .V 0 [(1, true)]
    let _ ← p1.push .V 1 (BitVec.ofNat 64 1024)
    base.tileOk .V 0 true
    .ok (u.toNat % 64 == 63)) = true := by decide +kernel

theorem witness_LaneReductions : met (do
    let _ ← passes (at_ base .V) .V 0 []
    base.tileOk .V 0 false
    base.tileOk .V 0 true
    .ok true) = true := by decide

/-- A tile's load and store at an address and at the last row that fits the page, through a window, and by index. -/
theorem witness_TileMemory : met (do
    let s1 ← passes (lanes 0xF000) .V 0 (VSel.uses (.pop 2))
    let (b, s2) ← s1.vAddr (.pop 2)
    let (ps, s3) ← s2.rangeV (b + 0 * BitVec.ofNat 64 (64 * 4)) (1024 * 4) 4 .load
    let bs ← chk (s3.readBy .V (b + 0 * BitVec.ofNat 64 (64 * 4)) ps)
    let (_, w3) ← s2.rangeV b (1024 * 4) 4 .store
    base.tileOk .V 9 false
    .ok (bs.length == 4096 && !base.misc.vctl && s3.storesOut .V < 16 && w3.storesOut .V < 16 && (0xF000 : Word).toNat % 4 == 0)) = true := by decide +kernel

theorem witness_TileMemory_indexed : met (do
    let s1 ← passes (lanes 0xFFFC) .V 0 [(2, false)]
    let (b, s2) ← s1.pop .V 2
    let (ps, s3) ← s2.checkLanes b 4 .load 0 ((at_ base .V).tile 3).toList
    let ws ← chk (s3.loadLanes false ps)
    let (_, w3) ← s2.checkLanes b 4 .store 0 ((at_ base .V).tile 3).toList
    .ok (ws.length == 1024 && s3.storesOut .V < 16 && w3.storesOut .V < 16 && b.toNat % 4 == 0)) = true := by decide +kernel

theorem witness_TileMemory_window : met (do
    let sh : Shape := shapeOf (BitVec.ofNat 512 (0x2000 <<< 448 + 256 <<< 384 + 16 <<< 352 + 256 <<< 336 + 16 <<< 320 + 0xFF <<< 280))
    let s := (at_ base .V).setWin 7 ⟨some sh, 0, [], []⟩
    let s1 ← passes s .V 0 []
    let bs ← s1.windowTile 7 0 4
    .ok (bs.length == 4096)) = true := by decide +kernel

/-- A long run of one value that a step leaves alone. -/
theorem fold_same {α β : Type} (f : β → α → β) (b : β) (x : α) (h : f b x = b) : ∀ n, (List.replicate n x).foldl f b = b
  | 0 => rfl
  | n + 1 => by simp only [List.replicate_succ, List.foldl_cons, h, fold_same f b x h n]

/-- No zero is larger than what is not below zero. -/
theorem largest_zeros (best : Nat × Val) (h : best.2.lt .zero = false) : ∀ n i, largest (List.replicate n .zero) i best = best
  | 0, _ => rfl
  | n + 1, i => by simp only [List.replicate_succ, largest, h, Bool.false_eq_true, if_false, largest_zeros best h n]

/-- The stubs of these tests: 0, then minus infinity in every lane. -/
def stubs : List Val := f32Val 0 :: List.replicate 1021 (.inf true)

/-- M of these tests. -/
def m0 : Val := f32Val 0

/-- Z of the stubs above for a Z before them. -/
def zOf (z : Val) : Val := FFmt.f32.near ((FFmt.f32.near (z.mul (massE m0 m0))).add false (massE m0 m0))

/-- With such stubs the largest share is that of stub 0: e^0 / Z. -/
theorem mass_of_stubs (z : Val) (h : (zOf z).isNan = false) (k : (zOf z).isZero = false)
    (l : (FFmt.f32.near ((massE m0 m0).div (zOf z))).lt .zero = false) :
    ∃ top zz sh, massOf m0 z stubs = some (top, zz, sh)
      ∧ largest sh.tail 1 (0, sh.headD .zero) = (0, FFmt.f32.near ((massE m0 m0).div (zOf z))) := by
  have t : (if m0.lt m0 = true then m0 else m0) = m0 := by decide
  have u : (if m0.lt (.inf true) = true then Val.inf true else m0) = m0 := by decide
  have m : (m0 == Val.inf true) = false := by decide
  have n : (Val.inf true == Val.inf true) = true := by decide
  have top : stubs.foldl (fun (a : Val) v => if a.lt v then v else a) m0 = m0 := by
    rw [stubs, List.foldl_cons, show f32Val 0 = m0 from rfl, t]
    exact fold_same _ _ _ u _
  have sum : stubs.foldl (fun (a : Val) v => if v == .inf true then a else FFmt.f32.near (a.add false (massE v m0)))
      (FFmt.f32.near (z.mul (massE m0 m0))) = zOf z := by
    rw [stubs, List.foldl_cons, show f32Val 0 = m0 from rfl, m, if_neg Bool.false_ne_true]
    exact fold_same _ _ _ (by rw [n, if_pos rfl]) _
  simp only [massOf, top, m, Bool.false_eq_true, if_false, sum, h]
  refine ⟨_, _, _, rfl, ?_⟩
  simp only [stubs, show f32Val 0 = m0 from rfl, List.map_cons, List.map_replicate, List.tail_cons, List.headD_cons, m, n, k, Bool.or_false,
    Bool.false_eq_true, if_false, if_true]
  exact largest_zeros _ l _ _

/-- v.smass with its largest share below the threshold of 1/8, and above. -/
theorem witness_StubWords : ((Tile.of fun i => if i = 0 then 0 else 0xFF800000).toList.take 1022).map f32Val = stubs
    ∧ Val.zero.lt (f32Val base.misc.smtheta) = true ∧ m0.isNan = false ∧ (f32Val 0x42C80000).isNan = false
    ∧ (∃ top zz sh g v, massOf m0 (f32Val 0x42C80000) stubs = some (top, zz, sh) ∧ largest sh.tail 1 (0, sh.headD .zero) = (g, v)
      ∧ (f32Val base.misc.smtheta).lt v = false)
    ∧ ∃ top zz sh g v, massOf m0 m0 stubs = some (top, zz, sh) ∧ largest sh.tail 1 (0, sh.headD .zero) = (g, v)
      ∧ (f32Val base.misc.smtheta).lt v = true := by
  refine ⟨by decide +kernel, by decide +kernel, by decide, by decide, ?_, ?_⟩
  · obtain ⟨top, zz, sh, h, k⟩ := mass_of_stubs (f32Val 0x42C80000) (by decide +kernel) (by decide +kernel) (by decide +kernel)
    exact ⟨top, zz, sh, _, _, h, k, by decide +kernel⟩
  · obtain ⟨top, zz, sh, h, k⟩ := mass_of_stubs m0 (by decide +kernel) (by decide +kernel) (by decide +kernel)
    exact ⟨top, zz, sh, _, _, h, k, by decide +kernel⟩

theorem witness_StubWords_stub : met (do
    let s1 ← passes (lanes 0x30F) .V 0 [(2, false)]
    let (u, _) ← s1.pop .V 2
    base.tileOk .V 3 false
    base.tileOk .V 3 true
    .ok (u.extractLsb' 10 54 == 0 && u.extractLsb' 4 4 == 0)) = true := by decide

/-- The function 1 on [-1, 1]. -/
def one : FReg := { lo := 0xBFF0000000000000, hi := 0x3FF0000000000000, coef := [0x3FF0000000000000] }

/-- F with the function 1 in f1 and f2, and three values in q3, which F pops. -/
def fitting (a b c : Word) : State :=
  hold (hold (hold (((at_ base .F).setFreg 1 one).setFreg 2 one) 3 a) 3 b) 3 c

/-- A pool with no chunk left but those of one register: fifteen registers of 17 chunks and one. -/
def full : State := base.setRoll { base.roll with f := Vector.ofFn fun i => { one with coef := List.replicate (if i.val = 15 then 16 else 272) 0 } }

/-- A result of two coefficients where FMAXLEN is 1. -/
theorem witness_FunctionRegisters_cut : (
    let s := base.setMisc { base.misc with fmaxlen := 1 }
    let c : List Word := [0x3FF0000000000000, 0x3FF0000000000000]
    (truncTol (f64Val s.misc.ftol) (c.map f64Val)).1.length = 2 ∧ s.misc.fmaxlen.toNat < 2
      ∧ (s.misc.fmaxlen.toNat + 15) / 16 ≤ s.poolFree + (s.freg 4).chunks) := by decide +kernel

theorem witness_FunctionRegisters : (one.chunks ≤ base.poolFree + (base.freg 0).chunks ∧ truncTol (f64Val base.misc.ftol) (one.coef.map f64Val)
      = (one.coef.map f64Val, false) ∧ 1 ≤ base.misc.fmaxlen.toNat)
    ∧ (full.poolFree + (full.freg 15).chunks < (full.freg 0).chunks ∧ full.misc.fpolicy = false ∧ full.poolFree + (full.freg 15).chunks ≠ 0) := by
  decide +kernel

/-- A function image of two coefficients at 0x1000, loaded; a register of one coefficient, stored. -/
theorem witness_FunctionRegisters_images : met (do
    let hd := leBytes 8 one.lo.toNat ++ leBytes 8 one.hi.toNat ++ leBytes 8 2 ++ leBytes 8 0
    let s := place (place (fitting 0x1000 0 0) (locPhys 0x1000) hd) (locPhys 0x1020) (leBytes 8 0x3FF0000000000000)
    let s1 ← passes s .F 0 [(3, false)]
    let (p, s2) ← s1.pop .F 3
    let (ps, s3) ← s2.rangeV p 32 64 .load
    let b1 ← chk (s3.readBy .F p ps)
    let (qs, s4) ← s3.rangeV (p + 32) (8 * 2) 1 .load
    let b2 ← chk (s4.readBy .F (p + 32) qs)
    let _ ← (s4.answers .F (ps ++ qs)).alloc 4 one
    let (_, w3) ← s2.rangeV p (32 + 8 * 1) 64 .store
    .ok (b1 == hd && domainOk (f64Val one.lo) (f64Val one.hi) && b2.length == 16 && s3.storesOut .F < 8 && w3.storesOut .F < 8
      && s.flight.fop.isNone && (s.freg 1).coef.length == 1)) = true := by decide +kernel

/-- The words of F that complete at once, on f1 and f2; the domains that f.const and f.dom pop are [-1, 1]. -/
theorem witness_FunctionWords : met (do
    let s := fitting 0x3FF0000000000000 one.lo one.hi
    let a := s.freg 1
    let s1 ← passes s .F 0 []
    let _ ← s1.alloc 4 a
    let _ ← s1.produceVals 4 a.lo a.hi (addSeries false a.vals a.vals)
    let _ ← s1.produceVals 4 a.lo a.hi (addSeries true a.vals a.vals)
    let _ ← s1.produceVals 4 a.lo a.hi (mulSeries a.vals a.vals 2047)
    let _ ← s1.produceVals 4 a.lo a.hi (intSeries (f64Val a.lo) (f64Val a.hi) a.vals)
    let _ ← s1.produceVals 4 a.lo a.hi (derSeries (f64Val a.lo) (f64Val a.hi) a.vals)
    let q1 ← passes s .F 0 [(3, false)]
    let (v, q2) ← q1.pop .F 3
    let (lo, q3) ← q2.pop .F 3
    let (hi, q4) ← q3.pop .F 3
    let _ ← q2.produceVals 4 a.lo a.hi (a.vals.map fun c => r64 ((f64Val v).mul c))
    let _ ← q2.alloc 4 { a with coef := a.coef.take 1 }
    let _ ← q4.produce 4 lo hi [v]
    let t := fitting one.lo one.hi 0
    let t1 ← passes t .F 0 [(3, false)]
    let (lo', t2) ← t1.pop .F 3
    let (hi', t3) ← t2.pop .F 3
    let _ ← t3.alloc 4 { lo := lo', hi := hi', coef := a.coef }
    .ok (s.flight.fop.isNone && a.coef != [] && domainOk (f64Val lo) (f64Val hi) && domainOk (f64Val lo') (f64Val hi')
      && (f64Val a.lo).le (f64Val lo') && (f64Val hi').le (f64Val a.hi))) = true := by decide +kernel

/-- f.comp of two constant functions and f.dom to the register's own domain. -/
theorem witness_FunctionWords_composed : met (do
    let s := (at_ base .F).setFreg 1 one
    let a := s.freg 1
    let s1 ← passes s .F 0 []
    let _ ← s1.produceVals 4 a.lo a.hi (compose (f64Val s.misc.ftol) a.vals (innerSeries (f64Val a.lo) (f64Val a.hi) a.vals))
    let _ ← s1.produceVals 4 a.lo a.hi (compose (f64Val s.misc.ftol) a.vals (restrictInner (f64Val a.lo) (f64Val a.hi) (f64Val a.lo) (f64Val a.hi)))
    .ok (!(boundsOf a.vals).1.lt (f64Val a.lo) && !(f64Val a.hi).lt (boundsOf a.vals).2)) = true := by decide +kernel

/-- What F holds in flight: a tile, a register, and a push on q4 whose values fit exactly and that has no room. -/
def inFlight (step : FStep) (n : Nat) : State :=
  let s := (at_ base .F).setFlight { base.flight with fop := some ⟨step, base.path .F, [], [], [], 0, 0, none, 12, 1, 0, some (0, some 0)⟩ }
  s.setQ 4 (List.replicate n ⟨0, true, 0, Known.none⟩)

theorem witness_FunctionsInFlight : met (do
    let s := fitting one.lo one.hi 1024
    let p1 ← passes s .F 0 [(4, true)]
    let s1 ← passes s .F 0 [(3, false)]
    let (lo, s2) ← s1.popE .F 3
    let (hi, s3) ← s2.popE .F 3
    let (len, _) ← s3.popE .F 3
    let r := inFlight (.reg 4 1 one.lo one.hi one.coef false false false) 0
    let _ ← ((r.on 0).flagF false false).allocBy false 4 one
    let q := inFlight (.push 4 [1, 2, 3, 4] none false) 0
    let w := inFlight (.push 4 [1, 2, 3, 4] none false) 1
    let a := s.setRun .A { s.run .A with stall := some { why := .qEmpty 4, since := 0, limit := none } }
    let _ ← passes a .F 0 [(4, true)]
    .ok (p1.flight.fop.isNone && (s.freg 1).coef != [] && domainOk (f64Val lo.value) (f64Val hi.value) && len.value.toNat == 1024
      && (Eng.all.all fun e => (s.run e).stall == none) && (a.run .A).stall.isSome && a.flight.loads == [] && a.cell.raised == none
      && (r.on 0).working && (q.on 0).flight.fop.isSome && (q.on 0).roll.q[(4 : Fin 16)].length + 4 ≤ 4
      && 4 < (w.on 0).roll.q[(4 : Fin 16)].length + 4)) = true := by decide +kernel

/-- An engine of base that has stalled on w for ever, with a limit of n cycles. -/
def stalled (e : Eng) (w : Why) (n : Option Nat) : State :=
  base.setRun e { base.run e with stall := some { why := w, since := 0, limit := n } }

/-- The texts at which A stands: await x5, x4, x3; bar.wait x4; rslot x5, x4. -/
def standing (s : State) (w : Nat) : State := place s (locPhys 0) (leBytes 4 w)

/-- The instruction that A finds at its place. -/
def finds (s : State) : Option Instr := match s.find 0 .A false with
  | .act i _ => some i
  | .done _ => none

theorem witness_WaitsEnd :
    finds (standing (stalled .A .await none) 0x01C85103) = some (.await 0 (.x 5) (.x 4) (.x 3))
      ∧ finds (standing (stalled .A .barWait none) 0x01D80100) = some (.barWait 0 (.x 4))
      ∧ finds (standing (stalled .A .rslot none) 0x008C5100) = some (.rslot 0 (.x 5) (.x 4)) := by decide +kernel

theorem witness_WaitsEnd_barrier : met (do
    let p : Word := 0xA000000000000020
    let s0 : State := { stalled .A .barWait none with now := 3300 }
    let (y, t) ← (s0.setX 4 p).reach p 32 .barrier
    let s := place t y (object 2 0 0 1)
    let f := s.uncountWait.firstRead (.x 4)
    let s1 ← passes f .A 0 (Src.uses (.x 4))
    let (_, s2) ← s1.src (.x 4)
    let (x, s3) ← s2.reach p 32 .barrier
    let (o, s4) ← s3.objectAt p x
    let q : RampReq := ⟨0, some 0, [], 8, 8, 0⟩
    let r := ((base.setX 4 8).setDie 0 { base.die 0 with ramp := [q] })
    let r1 ← passes r .A 0 (Src.uses (.x 4) ++ Dst.uses (.x 5))
    let (n, r2) ← r1.src (.x 4)
    let _ ← ((r2.dropRslot).setMisc { r.misc with rreq := BitVec.ofNat 10 q.want, rgrant := BitVec.ofNat 10 q.got }).dst (.x 5) 8
    .ok (!s.cell.ident.multiWave && o.gen == (s.roll.arrivals.lookup p).getD s4.misc.waitGen && o.timeout == 1
      && o.timeout.toNat * Config.cyclesPerUs ≤ s.now - s.stallSince .A .barWait && n.toNat ≤ 480 && r.rslotReq == some q
      && q.want ≤ q.got)) = true := by decide +kernel

/-- An engine at its limit, on each thing that it may wait for. -/
theorem witness_WaitsEnd_limits : ((∀ p ∈ [(Eng.A, Why.qFull 2), (.C, .qEmpty 0), (.A, .fmtFull), (.M, .fmtEmpty), (.A, .quota 3 0), (.C, .staging)],
      let s := (stalled p.1 p.2 (some 0)).on 0
      s.canWalk p.1 = true ∧ (s.run p.1).stall = some { why := p.2, since := 0, limit := some 0 })
    ∧ ((stalled .C (.qEmpty 0) (some 0)).on 0).blocked (.qEmpty 0) = true ∧ ((stalled .M .fmtEmpty (some 0)).on 0).blocked .fmtEmpty = true
    ∧ (((stalled .A (.qFull 2) (some 0)).setQ 2 (List.replicate 4 ⟨0, true, 0, Known.none⟩)).on 0).blocked (.qFull 2) = true
    ∧ (let s := stalled .A .fmtFull (some 0); (s.setRoll { s.roll with fmtq := List.replicate 16 0 }).on 0).blocked .fmtFull = true
    ∧ (let s := stalled .A (.quota 3 0) (some 0); (s.setMisc { s.misc with cqquota := 0 }).on 0).blocked (.quota 3 0) = true
    ∧ (let s := stalled .C .staging (some 0); (s.setRoll { s.roll with staging := List.replicate 64 ⟨0, 0⟩ }).on 0).blocked .staging = true
    ∧ base.expireF 0 = none ∧ ({ base with now := 0x1000000 }).unwatched 0 = false
    ∧ (let w := (inFlight (.push 4 [1, 2, 3, 4] none false) 1).on 0
       w.working = true ∧ w.cell.raised = none ∧ 4 < w.roll.q[(4 : Fin 16)].length + 4)
    ∧ 0x1000000 ≤ ({ base with now := 0x1000000 } : State).now - (base.on 0).uncountWait.cell.progress) := by decide +kernel

/-- A taken fault that may enter its handler; detected errors of each code; a cell that rolls back. -/
theorem witness_FaultSteps : (
    let s := base.setCell { base.cell with raised := some ⟨Flt.mk' .illegal 0, .V, 4, 0⟩ }
    let r := base.setCell { base.cell with status := .rolling (.replay (Flt.mk' .datapath 1) .A 0) }
    (s.on 0).cell.raised.isSome = true ∧ (s.on 0).working = true ∧ (s.on 0).stopReady = true ∧ (base.on 0).cell.raised = none
      ∧ (s.on 0).sameCycle = false ∧ Kind.illegal ≠ .context ∧ (Flt.mk' .context 0).kind = .context
      ∧ (base.on 0).seenBefore (detectedFlt .C 2 0x1000) = false ∧ (r.on 0).cell.status = .rolling (.replay (Flt.mk' .datapath 1) .A 0)
      ∧ (base.on 0).excluded = false ∧ (r.on 0).workOut = true ∧ (r.on 0).ckFlt = none ∧ (r.on 0).core.dperr.toNat < 2 ∧ (r.on 0).cell.ctx.active = false) := by decide +kernel

/-- A stands at a swr of a register with a value in x5 that the write accepts. -/
def writesReg (r : BitVec 12) (v : Word) : Bool :=
  match (standing (super.setX 5 v) (0x012C5000 + r.toNat)).find 0 .A false with
  | .act (.swr t a r') u => met (do
      let u1 ← passes u .A t (Src.uses a)
      let (w, u2) ← u1.src a
      let _ ← u2.writeReg r w
      .ok (r' == r && w == v))
  | _ => false

/-- A stands at an 8-byte store of x5 to an offset of system space. -/
def writesSys (off : Nat) (v : Word) : Bool :=
  match (standing ((super.setX 5 v).setX 6 (0xF000000000000000 + BitVec.ofNat 64 off)) 0x016C5180).find 0 .A false with
  | .act (.stN64 t src b imm) u => met (do
      let u1 ← passes u .A t (Src.uses b ++ Src.uses src)
      let (p, u2) ← u1.src b
      let (_, u3) ← u2.src src
      let (x, u4) ← u3.reach (p + imm * 8) 8 .store
      let _ ← chk (u4.loadsBefore x 8)
      .ok (p + imm * 8 == 0xF000000000000000 + BitVec.ofNat 64 off && u4.storesOut .A < 32))
  | _ => false

/-- Every listed write of a register. -/
theorem witness_ListedWrites_control : ∀ a : Fin 6, writesReg 0x08A (BitVec.ofNat 64 ((a.val + 1) * 2 ^ 60)) = true := by decide +kernel

theorem witness_ListedWrites_queue : writesReg 0x044 (1 <<< 10) = true ∧ writesReg 0x044 (2 <<< 10) = true := by decide +kernel

theorem witness_ListedWrites_preempt : writesReg 0x180 (1 <<< 60) = true ∧ writesReg 0x180 (2 <<< 60) = true := by decide +kernel

theorem witness_ListedWrites_accounts : writesReg 0x08B 0 = true ∧ writesReg 0x14C 0 = true ∧ writesReg 0x141 0 = true := by decide +kernel

theorem witness_ListedWrites_context : writesReg 0x101 0 = true ∧ writesReg 0x104 0 = true ∧ writesReg 0x23B 0 = true := by decide +kernel

/-- Every listed write of system space, at the least and the greatest place of its table. -/
theorem witness_ListedWrites_tables : writesSys 0x1300000 0 = true ∧ writesSys 0x1300078 0 = true ∧ writesSys 0x1000000 0 = true
    ∧ writesSys 0x107FE28 0 = true ∧ writesSys 0x1100000 0 = true ∧ writesSys 0x1107FF8 0 = true := by decide +kernel

/-- A held cell, after one fault, after a double fault, after a rollback, and after a replay-depth fault with code 0. -/
theorem witness_HeldCells : (
    let held (f : Flt) (double rolled : Bool) : Cell :=
      { base.cell with status := .held ⟨f, .A, 0, double, Five.all 0, rolled⟩ }
    let s := base.setCell (held (Flt.mk' .illegal 0) false false)
    (s.cores[(0 : CoreId)]).cell.status = .held ⟨Flt.mk' .illegal 0, .A, 0, false, Five.all 0, false⟩
      ∧ (0 : Word).extractLsb' 32 8 = BitVec.ofNat 8 (siteOf 0) ∧ (0 : Word).getLsbD 40 = decide (dieOf 0 = 1)
      ∧ (0 : Word).extractLsb' 0 32 = s.cores[(0 : CoreId)].cell.ident.cellno ∧ s.aedty.dumps = []
      ∧ s.peerStores = [] ∧ ({ s with peerStores := [⟨0, 0, 7, .A, 1, 0, 1, 0, 0, some 7, 0⟩] } : State).peerStores ≠ []
      ∧ s.cores[(0 : CoreId)].cell.ident.serial = 7 ∧ base.cell.ident.hctx ≠ 0xFFFFFFFF ∧ base.cell.ident.htrap ≠ 0xFFFFFFFF
      ∧ (Flt.mk' .replayDepth 0).code ≠ 1
      ∧ (6 <<< 60 : Word).extractLsb' 60 4 = 6 ∧ (7 <<< 60 : Word).extractLsb' 60 4 = 7
      ∧ (held (Flt.mk' .replayDepth 0) false true).status = .held ⟨Flt.mk' .replayDepth 0, .A, 0, false, Five.all 0, true⟩) := by
  decide +kernel

/-- ECLAIM and ESAT of any state with canonical memory; SCHEDCMD and TLBINV of the running cell; CTXREC, CKSLOT and PBLEN. -/
theorem witness_AccountsAndRegisters : met (do
    let v : Word := 1 <<< 60
    let s := place base (locPhys 0x1000) (leBytes 64 record)
    let (r, _) ← s.ctxRecord 0x1000
    let b := base.setCell { base.cell with slots := base.cell.slots.set 0 { b0 := 0x1000, b1 := 0x2000, ver := 0, len := 0 } }
    let en : Word := 0x8000000000000040
    let o1 ← chk (base.performLoads base.flight.loads.length)
    let o : State := { o1 with cores := base.cores.set 1 { base.cores[(1 : CoreId)] with cell := (awaiting [late (.reg 5)]).cell } }
    .ok (Memory.wf base.mem && !(2 : Word).getLsbD 0 && v.extractLsb' 32 8 == BitVec.ofNat 8 (siteOf 0)
      && v.getLsbD 40 == decide (dieOf 0 = 1) && base.cores[(0 : CoreId)].cell.status != .idle && base.cores[(0 : CoreId)].leave.isNone
      && !recGang base.cores[(0 : CoreId)].cell.ident.record && (3 <<< 40 : Word).getLsbD 40
      && base.flight.loads.isEmpty && !(base.cores.toList.any fun c => c.loadsOut 0)
      && o.cores[(1 : CoreId)].loadsOut 0 && !o.cores[(1 : CoreId)].cell.frozen && r.ctxno == 9
      && (b.cell.slots[b.misc.pbsel]).b0 == 0x1000 && backingOk 0x1000 && backingOk 0x2000 && en.getLsbD 63
      && en.extractLsb' 32 27 == 0 && en.extractLsb' 59 3 == 0 && en.extractLsb' 0 32 == 64
      && (List.finRange 8).all fun j => j == b.misc.pbsel || !(b.cell.slots[j]).en)) = true := by decide +kernel

/-- A peer channel's entry, valid. -/
def channelled : State := { place base (locSys 0 0x1100000) (leBytes 8 (2 ^ 63)) with draining := [] }

theorem witness_DeviceTables : (Memory.wf base.mem = true ∧ (1 <<< 63 : Word).getLsbD 63 = true ∧ (0 : Word).getLsbD 63 = false
    ∧ (channelled.entryAt (locSys 0 (0x1100000 + 8 * (0 : BitVec 12).toNat))).testBit 63 = true
    ∧ (base.entryAt (locSys 0 (0x1100000 + 8 * (0 : BitVec 12).toNat))).testBit 63 = false ∧ Memory.wf channelled.mem = true
    ∧ (let s : State := { channelled with draining := [(1, 0, 5), (0, 0, 5)], now := 165000 }
       s.draining = [(1, 0, 5)] ++ (0, 0, 5) :: [] ∧ 165000 ≤ s.now - 0)
    ∧ channelled.peerStores = [] ∧ ∀ k : CoreId, channelled.readsOn k 0 = false) :=
  ⟨by decide +kernel, by decide +kernel, by decide +kernel, by decide +kernel, by decide +kernel, by decide +kernel, by decide +kernel,
    by decide +kernel, fun k => by
      have h : channelled.cores.toList.all (fun c => c.cell.flight.loads.isEmpty) = true := by decide +kernel
      have l := List.all_eq_true.1 h channelled.cores[k] (by simp)
      rw [List.isEmpty_iff] at l
      have e : channelled.draining.isEmpty = true := rfl
      simp only [State.readsOn, State.lateRow, l, e, List.any_nil, Bool.or_true, if_true, Option.isSome_none, Bool.or_false]⟩

/-- The record of a launch of n cells, with some further fields: one spatial level. -/
def launch (n : Nat) (more : BitVec 512) : BitVec 512 := BitVec.ofNat 512 (n * 2 ^ 176 + 2 * 2 ^ 198 + 0x2000) ||| more

/-- A sound text header of 16 words without handlers. -/
def header : BitVec 512 := BitVec.ofNat 512 (0x7E470001 + 16 * 2 ^ 288 + 0xFFFFFFFFFFFFFFFF * 2 ^ 320)

/-- Reset with a launch entered on die 0, and what its entry is. -/
def entered (r : BitVec 512) : State := { State.reset.enterBoard 0 0 0x100000000 r header 0x1000 with agenda := [] }

/-- The entry of a launch entered so. -/
def entry (r : BitVec 512) : Option Launch := (entered r).dies[0].board.head?

/-- The entry changed. -/
def entering (r : BitVec 512) (f : Launch → Launch) : State := (entered r).setLaunch 0 0x100000000 f

/-- A launch of two cells and a gang of two: placeable, and started once issued. -/
theorem witness_LaunchWordAndSteps_issue : ∀ g : Bool,
    (let r := launch 2 (if g then 1 <<< 142 else 0)
     let s := ((entered r).prepare 0).prepare 1
     ((s.firstOf 0 ((s.die 0).board.filter (s.mayIssue 0))).map (·.waiting)) == some [0, 1]
      && (let t := entering r fun l => { l with issued := true, mayStart := 2, gang := if g then [0, 1] else [] }
          ((t.die 0).board.find? fun x => x.slot == 0).any fun l => l.waiting == [0, 1] && l.issued
            && decide ((cellsOfEntry 0 l).length - l.waiting.length < l.mayStart) && t.issuing
            && (if g then recGang l.record && l.gang.contains 0 && t.cores[(0 : CoreId)].cell.status == .idle && t.gangWhole 0 l
              else !recGang l.record && t.imagesOf 0 l == [] && t.free l 0 && t.firstClaim 0 l 0))) = true := by
  intro g
  cases g <;> decide +kernel

/-- A halted cell with a temporal level of 2 at its first iteration, and one without levels. -/
theorem witness_LaunchWordAndSteps_end : ∀ b : Bool,
    (let s := (named base fun i => { i with record := if b then BitVec.ofNat 512 (2 * 2 ^ 176 + 2 ^ 198) else 0 })
     let s := s.setCell { s.cell with status := .halted }
     s.cores[(0 : CoreId)].cell.status == .halted && !s.cores[(0 : CoreId)].cell.frozen
      && (nextIteration s.cores[(0 : CoreId)].cell.ident.record s.cores[(0 : CoreId)].cell.ident.index).isSome == b) = true := by
  decide +kernel

/-- lnch with a free entry and with none. -/
theorem witness_LaunchWordAndSteps_word : met (do
    let s := place (place (base.setX 4 0x1000) (locPhys 0x1000) (leBytes 64 (launch 2 0).toNat)) (locPhys 0x2000) (leBytes 64 header.toNat)
    let s1 ← passes s .A 0 (Src.uses (.x 4) ++ Dst.uses (.x 5))
    let (adr, s2) ← s1.src (.x 4)
    let s3 ← chk (s2.performLoads s2.flight.loads.length)
    let (bs, s4) ← (s3.perform (fun p => p.core == s.cur.core && p.eng == .A) 3).readRecord adr 64
    let r := BitVec.ofNat 512 (leNat bs)
    let (hb, s5) ← s4.readRecord (r.extractLsb' 0 64) 64
    let h := BitVec.ofNat 512 (leNat hb)
    let handle := (s.die 0).nextSeq ++ 0#22 ++ BitVec.ofNat 1 0 ++ BitVec.ofNat 9 (s.freeEntry 0)
    let _ ← (s5.enterBoard 0 0 handle r h adr).dst (.x 5) handle
    let _ ← s5.dst (.x 5) 0
    .ok (adr.toNat % 64 == 0 && spaceOf adr == 0 && (recordBad r s.dieId).isNone && (headerBad h).isNone && !r.getLsbD 139
      && r.extractLsb' 143 3 != 7 && r.extractLsb' 160 16 == s.domain && !r.getLsbD 142 && launchDies r s.dieId == [0]
      && decide (s5.entriesOn 0 < 512))) = true := by decide +kernel

theorem witness_LaunchWordAndSteps_full : (
    let s := base.setDie 0 { base.die 0 with
      board := (List.range 512).map fun i => ⟨i, 0, 0, 0, 0, [], 0, true, true, false, [], [], [], i, 0, 0, 0, none⟩ }
    ∃ x ∈ launchDies (launch 2 0) s.dieId, 512 ≤ s.entriesOn x) := by decide +kernel

/-- A running cell that may leave, and a ready launch that needs every core of the die: of a priority and a domain, when the cell has
run its time slice. -/
def contended (prio dom : Nat) : State :=
  let l : Launch := ⟨3, 0x200000003, launch 192 (BitVec.ofNat 512 (prio * 2 ^ 143 + dom * 2 ^ 160)), 0, header, List.range 192, 0, false, true, false, [], [], [], 2, 0, 0, 0, none⟩
  let s := named base fun i => { i with record := launch 1 (1 <<< 140) }
  { s.setDie 0 { s.die 0 with board := [l], imgbase := 0x10000000, imgcount := 198, tlb := [⟨0, 0, 32768, 0, true, true, true⟩] } with
    now := 2000 * 3300 }

/-- The cell is asked to leave. -/
def asked : State := { contended 3 0 with cores := (contended 3 0).cores.set 0 { (contended 3 0).cores[(0 : CoreId)] with leave := some (some 196) } }

theorem witness_PreemptionAndHack_ask : ((contended 3 0).mayLeave 0 = true ∧ (contended 3 0).aedty.suspended = 0
    ∧ ((contended 3 0).die 0).board.all (contended 3 0).ready = true
    ∧ (match exec (.priorityPreemption 0) (contended 3 0) with
        | .next w => w.cores[(0 : CoreId)].leave.isSome
        | _ => false) = true
    ∧ (match exec (.timeSlicePreemption 0) (contended 0 1) with
        | .next w => w.cores[(0 : CoreId)].leave.isSome
        | _ => false) = true
    ∧ asked.cores[(0 : CoreId)].leave = some (some 196) ∧ asked.cores[(0 : CoreId)].cell.canStop = true
    ∧ asked.cores[(0 : CoreId)].cell.flight.loads = []) :=
  ⟨by decide +kernel, by decide +kernel, by decide +kernel, by decide +kernel, by decide +kernel, by decide +kernel, by decide +kernel,
    by decide +kernel⟩

/-- That cell is the one victim, the free cores and its own are what the launch needs, and the image slots translate. -/
theorem witness_PreemptionAndHack_victim : ∀ b : Bool,
    (let u := (if b then contended 3 0 else contended 0 1).prepare 0
     let may (l : Launch) (k : CoreId) : Bool :=
       if b then decide (recPrio u.cores[k].cell.ident.record < recPrio l.record)
       else recPrio u.cores[k].cell.ident.record == recPrio l.record && u.cores[k].cell.ident.domain != recDomain l.record
         && decide ((u.die 0).slice.toNat ≤ u.usSince u.cores[k].cell.ident.since)
     u.issuing && (match (u.die 0).board.filter (fun m => u.ready m && decide (0 < u.needsCores 0 m)) with
        | [l] =>
          sortVictims (if b then u.victimPrio else u.victimSlice)
              ((List.finRange 392).filter fun k => dieOf k == 0 && u.mayLeave k && may l k) == [0]
            && u.needsCores 0 l == (u.comingOn 0 l).length + 1 && !u.keptFrom 0 l
        | _ => false)
      && !recGang u.cores[(0 : CoreId)].cell.ident.record && u.cores[(0 : CoreId)].enabled
      && [196, 197].all (fun n => (u.slotPieces 0 n).isSome) && (u.die 0).imgcount == 198
      && decide (1 ≤ ((List.range (u.die 0).imgcount.toNat).filter fun n => decide (196 ≤ n) && !u.slotTaken 0 n).length)) = true := by
  intro b
  cases b <;> decide +kernel

/-- The cell asked to leave, with the pages of its slot. -/
def placed : State := { asked with cores := asked.cores.set 0 { asked.cores[(0 : CoreId)] with slotAt := [(locPhys 0x40000000, 2 ^ 21)] } }

/-- The stopped cell, when its image is to be written. -/
def saving : State := (((placed.on 0).stopCell).autoTrace 4 .A (((placed.on 0).stopCell).path .A).pc 0).settleCell

/-- Its image fits the pages of the slot. -/
theorem witness_PreemptionAndHack_save : placed.cores[(0 : CoreId)].slotAt = [(locPhys 0x40000000, 2 ^ 21)]
    ∧ peerChannel (locPhys 0x40000000) = none ∧ placed.pubs = [] ∧ placed.cores[(0 : CoreId)].hackReq = none ∧ Memory.wf placed.mem = true
    ∧ placed.cores[(0 : CoreId)].leave = some (some 196) ∧ (saving.imageOf saving.freeCtr).length ≤ 2 ^ 21 := by
  have h : (poolBytes saving.cell.roll.f).length ≤ 0x9000 ∧ saving.cell.ckBytes.length = 0 := by decide +kernel
  refine ⟨by decide +kernel, by decide +kernel, by decide +kernel, by decide +kernel, by decide +kernel, by decide +kernel, ?_⟩
  rw [saving.imageOf_length saving.freeCtr h.1 (State.peek_length _ _ _ _), h.2]
  decide

/-- A stop asked for, and a step that has retired its one instruction. -/
theorem witness_PreemptionAndHack_stop : (Memory.wf base.mem = true ∧ base.cores[(0 : CoreId)].cell.settled = true
    ∧ (1 <<< 60 : Word).extractLsb' 60 4 = 1 ∧ (3 <<< 60 : Word).extractLsb' 60 4 = 3
    ∧ Eng.ofCode ((3 <<< 60 : Word).extractLsb' 0 3).toNat = some .A
    ∧ ((base.setRun .A { base.run .A with stepped := true }).cores[(0 : CoreId)].cell.run.get .A).stepped = true) := by decide +kernel

/-- A sample that is over, ticks below and at the ceiling, static charges that are due, and a ramp that has waited PINWAIT. -/
theorem witness_PowerSteps : (
    let s : State := { base with now := 66000 }
    let g : State := { base with gov := { base.gov with history := [0], ticks := 0 } }
    let l : Launch := ⟨3, 0x200000003, launch 1 (1 <<< 141), 0, header, [0], 0, false, true, false, [], [], [], 2, 0, 0, 0, some 0⟩
    let r := s.setDie 0 { s.die 0 with board := [l], ramp := [⟨0x200000003, none, [], 8, 0, 0⟩] }
    s.aedty.suspended ≠ 2 ∧ s.gov.sampleAt + 330 ≤ s.now ∧ g.hiTicks = some 384000 ∧ g.gov.hold = false ∧ g.gov.heldBefore = false
      ∧ s.aedty.suspended = 0 ∧ s.gov.staticAt + 4096 ≤ s.now
      ∧ (r.die 0).board.find? (fun x => x.slot == 3) = some l ∧ recPin l.record = true ∧ l.askedAt = some 0
      ∧ (r.die 0).board.find? (fun x => x.handle == 0x200000003) = some l ∧ (0 < 8) ∧ s.gov.staticAt + 4096 < s.now
      ∧ (g.metered < 384000 ∧ (∃ q ∈ (r.die 0).ramp, q.launch = l.handle ∧ q.core = none ∧ q.resume = [] ∧ q.got < q.want))
      ∧ (r.die 0).pinUse.toNat * 3300 ≤ r.now - 0) := by decide +kernel

/-- Outside accesses: the host's window is open from 0, 2 GiB; bytes at its start and at the end of HBM4, a peer's atomics. -/
theorem witness_OutsideAccesses : (
    let s := place base (locSys 0 0x1200100) (leBytes 8 (2 * 2 ^ 44))
    let p : State := { s with peerStores := [⟨0, 0, 7, .A, 1, 0, 1, 0, 0, some 7, 0⟩] }
    s.hostWindow = (0, 2 ^ 31) ∧ s.serving = true ∧ Memory.wf s.mem = true ∧ s.pubs = [] ∧ (s.pubAt none (locPhys 0x1000)).isNone = true
      ∧ (s.pubAt none (locPhys 0x1000000000000)).isNone = true ∧ s.badAt .device none (locPhys 0x1000) 8 = none
      ∧ (0x1000 : BitVec 39).toNat % 8 = 0 ∧ (0x1000 : BitVec 39).toNat + 8 ≤ 0x6000000000
      ∧ p.peerStores[0]? = some ⟨0, 0, 7, .A, 1, 0, 1, 0, 0, some 7, 0⟩ ∧ p.channelHeld 0 = false ∧ p.aedty.suspended ≠ 2
      ∧ (let q : PeerStore := ⟨0, 0, 7, .C, 1, 0, 64, 3, 64, some 7, 0⟩
         let w : State := { s with peerStores := [q, q] }
         w.peerStores[1]? = some q ∧ (∃ r ∈ w.peerStores.take 1, q.sameOp r = true) ∧ q.charge ≠ 0)) := by decide +kernel

/-- Tree 0 of one element with its root at a site, own input and Umarn port 0 as its first child. -/
def tree (s : State) (site parent : Nat) : State :=
  place (place s (locSys 0 0x1000000) (leBytes 8 (2 ^ 63 + 2 ^ 48 + 1)))
    (locSys 0 (0x1000010 + 8 * site)) (leBytes 8 (2 ^ 63 + 2 ^ 62 + 0x1E0 * 2 ^ 53 + 0x1FF * 2 ^ 44 + parent * 2 ^ 35))

/-- A c.rrecv that waits. -/
def receiving : COp := ⟨.rrecv, { CFields.zero with f2 := 1 }, 0, 1, Path.at_ 0, [], [], [], [], 0, 0, 0, 1, [], none, 0⟩

theorem witness_ReductionAndPorts : (
    let s := tree base 0 0x1FE
    let s := s.setPort 0 { s.ports[(0 : Fin 16)] with up := true }
    let u : State := { s.setFlight { s.flight with cops := [receiving] } with now := 3300 }
    let p : State := { s with packets := [⟨0, 0, 0, 1, 1, [0], 0⟩] }
    let q := s.setPort 0 { s.ports[(0 : Fin 16)] with qsc := true }
    let w : State := { s with aedty := { s.aedty with suspended := 1, suspendAt := 0 }, now := 165000000 }
    s.portNode 0 0 = some (0, 1) ∧ s.treeOk 0 0 = true ∧ s.treeElems 0 0 = 1 ∧ s.nodeRoom 0 0 0 1 = true
      ∧ p.packets[0]? = some ⟨0, 0, 0, 1, 1, [0], 0⟩ ∧ s.ports[(0 : Fin 16)].up = true ∧ s.ports[(0 : Fin 16)].qsc = false
      ∧ (s.nodeEntry 0 0 0).expects = [0, 1] ∧ (s.nodeState 0 0 0).past 1 = false ∧ (s.nodeState 0 0 0).opens = []
      ∧ (s.nodeEntry 0 0 0).parent = 0x1FE ∧ ((tree base 0 5).nodeEntry 0 0 0).parent = 5 ∧ nodeOf 0 5 = some (0, 5)
      ∧ (u.on 0).working = true ∧ (u.on 0).unitReady receiving = false ∧ (u.on 0).treeHeader (dieOf 0) 0 0 % 2 ^ 32 = 1
      ∧ (u.on 0).treeQuiesced 0 = false ∧ u.aedty.suspended = 0 ∧ s.serving = true ∧ q.ports[(0 : Fin 16)].qsc = true
      ∧ s.aedty.phase = 2 ∧ w.aedty.resumeAsked = false ∧ w.ports[(0 : Fin 16)].up = true ∧ w.rampedDown = true
      ∧ (let v : State := { w with gov := { w.gov with history := List.replicate 20 16000000 } }
         v.aedty.suspended = 1 ∧ v.rampedDown = false)) := by decide +kernel

/-- A request of the mailbox with fields. -/
def request (op : Nat) (more : Nat) : BitVec 512 := BitVec.ofNat 512 (op + more)

/-- A stream K = 1 of domain 2 with 256 frames at 0x1000 and its counter at 0x8000. -/
def streamMail (op : Nat) : BitVec 512 := request op (2 * 2 ^ 8 + 1 * 2 ^ 24 + 8 * 2 ^ 32 + 0x1000 * 2 ^ 128 + 0x8000 * 2 ^ 192)

/-- The stream of that request. -/
def stream : Stream := (streamReq (streamMail 0x10)).1

/-- Mailbox requests: one unknown; streams that open, that are open, that find the table full; a bad one; a frame that waits, in a
ring with room and in a full one; an attestation and a dump buffer. -/
theorem witness_MailboxSteps : (
    let held (s : State) (r : BitVec 512) : State := s.submit r
    let op (r : BitVec 512) (n : Nat) : Bool := base.mailIdle && base.mails r n && !(held base r).mailIdle && (held base r).aedty.mailReq == r
      && (held base r).mails r n
    let open_ : State := { base with aedty := { base.aedty with streams := [stream] } }
    let table : State := { base with aedty := { base.aedty with streams := List.replicate 256 { stream with id := 5 } } }
    let rel : State := { open_ with aedty := { open_.aedty with released := [⟨2, 1, 0, 77, 7, 0⟩, ⟨2, 1, 0, 77, 8, 0⟩] } }
    let shut : State := { rel with aedty := { rel.aedty with streams := [], closed := [stream] } }
    let stuck : State := { rel with aedty := { rel.aedty with streams := [{ stream with frames := 256 }] } }
    let early : State := { base with aedty := { base.aedty with phase := 1 } }
    op (streamMail 0x10) 0x10 = true ∧ op (streamMail 0x11) 0x11 = true ∧ op (request 0x20 0) 0x20 = true ∧ op (request 0x30 0) 0x30 = true
      ∧ op (request 0x31 0) 0x31 = true ∧ op (request 0x40 0) 0x40 = true ∧ base.refused (request 0x99 0) = true
      ∧ early.aedty.phase = 1 ∧ (request 0x50 0).extractLsb' 0 8 = 0x50 ∧ early.refused (request 0x20 0) = true
      ∧ (held early (request 0x20 0)).aedty.phase = 1 ∧ (held base (request 0x99 0)).aedty.phase = 2
      ∧ (held base (request 0x50 0)).aedty.mailReq ≠ request 0x20 0 ∧ (base.mailIdle = true ∧ 8 + (leBytes 8 5).length ≤ 64)
      ∧ streamBad (streamMail 0x10) true = false ∧ streamBad (streamMail 0x10 + 1 <<< 40) true = true
      ∧ streamBad (streamMail 0x11) false = false ∧ streamBad (streamMail 0x11 + 1 <<< 40) false = true
      ∧ base.streamOf 2 1 = none ∧ (open_.streamOf 2 1).isSome = true ∧ base.aedty.streams.length < 256
      ∧ table.streamOf 2 1 = none ∧ 256 ≤ table.aedty.streams.length ∧ rel.entryStream ⟨2, 1, 0, 77, 7, 0⟩ = some stream
      ∧ shut.entryStream ⟨2, 1, 0, 77, 7, 0⟩ = some stream ∧ shut.streamFull stream = false
      ∧ rel.streamFull stream = false ∧ stuck.streamFull { stream with frames := 256 } = true
      ∧ stream.ring.toNat + 16 * 2 ^ stream.logn ≤ stream.ctr.toNat ∧ stream.ctr.toNat % 16 = 0 ∧ stream.ring.toNat % 4096 = 0
      ∧ base.aedty.suspended = 0 ∧ (∃ r ∈ rel.aedty.released.take 1, r.opened = 0) ∧ Memory.wf base.mem = true
      ∧ (base.report 0).length + mailAddr (request 0x20 0) ≤ 2 ^ 48
      ∧ mailAddr (request 0x40 0) + mailSize (request 0x40 0) * 2 ^ 20 ≤ 2 ^ 48) := by
  decide +kernel

/-- Both dies with image slots that translate. -/
def imaged : State :=
  let f (d : Die) : Die := { d with imgbase := 0x10000000, imgcount := 196, tlb := [⟨0, 0, 32768, 0, true, true, true⟩] }
  { base with dies := base.dies.map f }

/-- Suspends with slots, without, during a dump, and when suspended; resumes in each state of a suspend. -/
theorem witness_SuspendAndResume : (
    let ask : State := base.submit (request 0x30 0)
    let back : State := base.submit (request 0x31 0)
    let held (s : State) (r : BitVec 512) (op : Nat) : Bool := !s.mailIdle && s.aedty.mailReq == r && s.mails r op
    let during (s : State) (n : Nat) (going asked : Bool) : State :=
      { s with aedty := { s.aedty with suspended := n, suspending := going, suspendAsked := asked } }
    let quiet : State := { during base 1 false false with ports := base.ports.map fun p => { p with qsc := true } }
    held ask (request 0x30 0) 0x30 = true ∧ held back (request 0x31 0) 0x31 = true
      ∧ (ask.aedty.suspended = 0 ∧ ask.aedty.suspending = false ∧ ask.aedty.suspendAsked = false ∧ (ask.die 0).imgcount.toNat < 196)
      ∧ (∀ p ∈ [(1, false, false), (0, true, false), (0, false, true)], held (during ask p.1 p.2.1 p.2.2) (request 0x30 0) 0x30 = true)
      ∧ imaged.aedty.dumps = [] ∧ imaged.aedty.resumeAsked = false
      ∧ held (imaged.submit (request 0x30 0)) (request 0x30 0) 0x30 = true
      ∧ (imaged.cores.toList.all fun k => k.cell.canSave) = true
      ∧ ((State.reset.cores.toList.all fun k => k.cell.status == .idle && !k.cell.frozen && k.cell.raised.isNone)) = true
      ∧ (0#512).extractLsb' 0 8 ≠ 0x30#8 ∧ (during base 0 true false).aedty.suspending = true
      ∧ (quiet.aedty.suspending = false ∧ quiet.aedty.suspended = 1 ∧ quiet.portsQuiet = true ∧ quiet.rampedDown = true)
      ∧ base.aedty.suspended ≠ 1
      ∧ (∀ p ∈ [(2, false, false), (1, false, false), (0, true, false), (0, false, true), (0, false, false)],
        held (during back p.1 p.2.1 p.2.2) (request 0x31 0) 0x31 = true)) := by decide +kernel

/-- The slots of a suspend, on both dies. -/
theorem witness_SuspendAndResume_slots : (imaged.submit (request 0x30 0)).canSuspend = true := by
  have half (n : Nat) (h : n < 4) : (List.range 98).all (fun i =>
      ((imaged.submit (request 0x30 0)).slotPieces (if n < 2 then 0 else 196) (98 * (n % 2) + i)).isSome) = true := by
    match n, h with
    | 0, _ => decide +kernel
    | 1, _ => decide +kernel
    | 2, _ => decide +kernel
    | 3, _ => decide +kernel
  have all (k : CoreId) (n : Nat) (a : (List.range 98).all (fun i =>
      ((imaged.submit (request 0x30 0)).slotPieces k (98 * 0 + i)).isSome) = true) (b : (List.range 98).all (fun i =>
      ((imaged.submit (request 0x30 0)).slotPieces k (98 * 1 + i)).isSome) = true) (h : n < 196) :
      ((imaged.submit (request 0x30 0)).slotPieces k n).isSome = true := by
    rw [List.all_eq_true] at a b
    by_cases hn : n < 98
    · simpa using a n (List.mem_range.2 hn)
    · have := b (n - 98) (List.mem_range.2 (by omega))
      rwa [show 98 * 1 + (n - 98) = n by omega] at this
  have c0 : coreAt 0 0 = some 0 := by decide
  have c1 : coreAt 1 0 = some 196 := by decide
  have i0 : 196 ≤ ((imaged.submit (request 0x30 0)).die 0).imgcount.toNat := by decide +kernel
  have i1 : 196 ≤ ((imaged.submit (request 0x30 0)).die 1).imgcount.toNat := by decide +kernel
  simp only [State.canSuspend, List.all_cons, List.all_nil, c0, c1, i0, i1, decide_true, Bool.and_true, Bool.true_and, Bool.and_eq_true,
    List.all_eq_true, List.mem_range]
  exact ⟨fun n => all 0 n (half 0 (by decide)) (half 1 (by decide)), fun n => all 196 n (half 2 (by decide)) (half 3 (by decide))⟩

/-- A device before its boot, one that waits for the host's images, one in service. -/
theorem witness_BootAndChecks : (
    let s : State := State.reset
    let h : State := { s with aedty := { s.aedty with phase := 1 } }.submit (request 0x50 0)
    s.aedty.phase = 0 ∧ s.aedty.testen = false ∧ s.bootFailed = false ∧ { s with aedty := { s.aedty with testen := true } }.aedty.testen = true
      ∧ h.mailIdle = false ∧ h.aedty.mailReq = request 0x50 0 ∧ h.aedty.phase = 1 ∧ h.bootFailed = false
      ∧ (request 0x50 0).extractLsb' 0 8 = 0x50 ∧ mailAddr (request 0x50 0) + mailSize (request 0x50 0) ≤ 2 ^ 48
      ∧ base.aedty.phase = 2 ∧ base.aedty.stopped = false) := by decide +kernel

/-- Pending stores at the first and the last level, an outstanding load into a register and a run-ahead load behind it, an event for
a ring with room, a dump. -/
theorem witness_EventsDumpsAccesses : (
    let p (n : Nat) : PStore := ⟨0, 7, .A, 1, 0, 0, locPhys 0, [1], n, 0⟩
    let s : State := { base with stores := [p 0, p 4] }
    let l : Load := ⟨0, 0x1000, locPhys 0x1000, 8, false, .reg 5, none, none⟩
    let q : Load := ⟨4, 0x1008, locPhys 0x1008, 8, false, .slot 2, none, none⟩
    let u := base.setFlight { base.flight with loads := [l, q] }
    let e := base.setDie 0 { base.die 0 with sevBase := 0x1000, sevSize := 4, sevq := [⟨0, 0⟩] }
    s.stores[0]? = some (p 0) ∧ s.stores[1]? = some (p 4) ∧ (u.on 0).working = true ∧ (u.on 0).cell.raised.isNone = true
      ∧ (u.on 0).flight.loads = l :: [q] ∧ ((u.on 0).loadValue l).isOk = true ∧ ((u.on 0).performLoads 2).isOk = true
      ∧ ((u.on 0).loadBytes .A 0x1000 (locPhys 0x1000) 8).isOk = true ∧ (e.die 0).sevSize ≠ 0
      ∧ (leNat (e.peek (.die 0) (locShared 0x1000) 8) + 2 ^ 64 - leNat (e.peek (.die 0) (locShared 0x1000 + 8) 8)) % 2 ^ 64 = 0
      ∧ (let f := base.setFlight { base.flight with loads := [l] }
         let z := f.setCell { f.cell with frozen := true }
         let w : State := { s with stores := [p 3], peerStores := [⟨0, 0, 7, .A, 1, 0, 1, 0, 0, none, 0⟩] }
         let d : State := { base with aedty := { base.aedty with dumps := [⟨0, 0, 0, []⟩] } }
         z.cores[(0 : CoreId)].cell.frozen = true ∧ z.cores[(0 : CoreId)].cell.flight.loads ≠ []
           ∧ w.stores[0]? = some (p 3) ∧ (∃ q ∈ w.peerStores, q.made (p 3) = true)
           ∧ d.aedty.dumps = [⟨0, 0, 0, []⟩] ∧ d.aedty.suspendAsked = false ∧ d.aedty.suspending = false)
      ∧ Memory.wf e.mem = true) := by decide +kernel

/-- Well-formed instructions with a word, and with a template form. -/
theorem witness_EncodeDecode : WellFormed (.addImm 0 (.x 5) (.x 4) 0xFFFFFFFFFFFFFFFF) ∧ WellFormed (.cCopy 3 (.image CFields.zero))
    ∧ (encode (.addImm 0 (.x 5) (.x 4) 0xFFFFFFFFFFFFFFFF)).isSome = true ∧ (encodeImage (.cCopy 3 (.image CFields.zero))).isSome = true := by
  decide

/-- A word, a chain and an image that decode. -/
theorem witness_DecodeEncode : (decodeHost [] 0x00005103).isOk = true ∧ (decodeHost [1] 0x00A05100).isOk = true
    ∧ (decodeImage .A image).isOk = true ∧ isPrefix 0x00005103 = false := by decide

/-- A at a word, from a state with an agenda of one walk: its own word, one of V, a branch, and one that is no instruction. -/
theorem witness_StepRunsDecoded : ∀ p ∈ [(0x00005103, Eng.A, Steer.no, true), (0x604048C0, .V, .no, true), (0x00E05002, .A, .cond, true),
    (0xC0000001, .A, .no, true), (0x00980000, .A, .no, false)], met (do
    let s := State.reset.withFetchWord 32 p.1
    let s : State := { s with agenda := [⟨1, .walk 0 .A false⟩] }
    let l := s.looks [] 1 0 .A false
    let u := l.payOwed .A
    let (w, t) ← chk (u.fetchWord .A (u.hostPc .A))
    .ok (!s.ceilingMet && (s.boundary (s.now + 1)).isNone && l.canWalk .A && l.cell.owed.isNone
      && l.cell.startLeft.isEmpty && (u.run .A).owed.isEmpty && !u.throttled .A && u.slipOk .A
      && (isPrefix w || ownerOf w == p.2.1 && steerOf w == p.2.2.1 && (decodeHost (t.path .A).exts w).isOk == p.2.2.2))) = true := by
  decide +kernel

/-- A fetch from the mapped page, an event, and an empty agenda with and without background work. -/
theorem witness_StepRunsDecoded_rest : (
    let s : State := base.withFetchWord 32 0x00D05007
    let u : State := { base with now := base.gov.sampleAt + 1000000 }
    (match base.translate (some base.cur.core) base.dieId base.domain 0 .fetch with
      | .ok (x, t) => (t.badAt (t.obs .A 0) t.me x 4).isNone
      | .error _ => false) = true
    ∧ isEvent .sampleBoundary = true ∧ s.ceilingMet = false ∧ (s.boundary (s.now + 1)).isNone = true
    ∧ base.agenda = [] ∧ (base.boundary (base.now + 1)).isNone = true ∧ ((base.setCell { base.cell with status := .halted }).elapse (base.now + 1)).background.isSome = true
    ∧ (base.setCell { base.cell with status := .halted }).ceilingMet = false
    ∧ (({ base with now := 1 } : State).elapse (1 + 1)).background.isNone = true ∧ u.ceilingMet = false ∧ (u.boundary (u.now + u.nextDt)).isSome = true) := by
  decide +kernel

/-- A state with the canonical form makes a step. -/
theorem witness_StepKeepsMemWf : Memory.wf base.mem = true ∧ nextIs (step (State.reset.withFetchWord 32 0x00D05007)) (fun _ => true) = true := by decide +kernel

/-! ## A pre-empted cell and its image -/

/-- Stretches that follow one another from a location. -/
def contiguous : Nat → List (Nat × Nat) → Bool
  | _, [] => true
  | x, (y, n) :: ps => x == y && contiguous (x + n) ps

theorem getList_add (m : List Host.Cell) (x a b : Nat) :
    Memory.getList m x (a + b) = Memory.getList m x a ++ Memory.getList m (x + a) b := by
  induction a generalizing x with
  | zero => simp [Memory.getList]
  | succ a ih => rw [Nat.add_right_comm, Memory.getList, ih, Memory.getList]; simp [Nat.add_assoc, Nat.add_comm 1]

theorem peekFrom_plain (s : State) (h : s.stores = []) (o : Obs) (x : Nat) : ∀ n d, s.peekFrom o x d n = Memory.getList s.mem (x + d) n
  | 0, _ => rfl
  | n + 1, d => by
    rw [State.peekFrom, peekFrom_plain s h o x n (d + 1), Memory.getList, State.peekByte, h]; rfl

theorem readPieces_plain (s : State) (h : s.stores = []) (hp : s.pubs = []) (hb : s.poison = []) (g : Agent) :
    ∀ ps p x, contiguous x ps = true → (∀ y ∈ ps, peerChannel y.1 = none) →
      s.readPieces g p ps = .ok (Memory.getList s.mem x (ps.map (·.2)).sum)
  | [], _, _, _, _ => rfl
  | (y, n) :: ps, p, x, hc, ho => by
    simp only [contiguous, Bool.and_eq_true, beq_iff_eq] at hc
    obtain ⟨rfl, hc⟩ := hc
    have hx : s.home x = x := by rw [State.home, ho _ (List.mem_cons_self ..)]
    have hbad : s.badAt (g.obs p) g.who x n = none := by rw [State.badAt, hb]; rfl
    have hr : s.readAt (g.obs p) g.who x n = Memory.getList s.mem x n := by
      rw [State.readAt, hp, hx]; exact peekFrom_plain s h _ x n 0
    rw [State.readPieces, hbad, readPieces_plain s h hp hb g ps _ _ hc fun y hy => ho y (List.mem_cons_of_mem _ hy), hr,
      List.map_cons, List.sum_cons, getList_add]
    rfl

theorem getList_putList (bs : List Byte) (m : List Host.Cell) (x : Nat) (hm : Memory.wf m = true) :
    Memory.getList (Memory.putList m x bs) x bs.length = bs := by
  have : ∀ n d, d + n = bs.length → Memory.getList (Memory.putList m x bs) (x + d) n = bs.drop d := by
    intro n
    induction n with
    | zero => intro d hd; rw [Memory.getList, List.drop_eq_nil_of_le (by omega)]
    | succ n ih =>
      intro d hd
      rw [Memory.getList, Memory.get_putList_in bs m x d hm (by omega), Nat.add_assoc, ih (d + 1) (by omega),
        List.drop_eq_getElem_cons (l := bs) (i := d) (by omega)]
  exact this bs.length 0 (by omega)

theorem leNat_leBytes : ∀ n v : Nat, leNat (leBytes n v) = v % 256 ^ n
  | 0, v => by rw [leBytes, leNat, Nat.pow_zero, Nat.mod_one]
  | n + 1, v => by
    rw [leBytes, leNat, leNat_leBytes n, Nat.pow_succ', Nat.mod_mul (x := v) (a := 256)]
    rfl

theorem recordBytes_back (h : BitVec 512) : BitVec.ofNat 512 (leNat (recordBytes h)) = h := by
  have he : (256 : Nat) ^ 64 = 2 ^ 512 := (Nat.pow_mul 2 8 64).symm
  rw [recordBytes, leNat_leBytes, he, Nat.mod_eq_of_lt h.isLt, BitVec.ofNat_toNat, BitVec.setWidth_eq]

/-- The header of an image with a check value. -/
def head (c : W32) : BitVec 512 := BitVec.ofNat 512 (c.toNat * 2 ^ 64 + 0x7E53 * 2 ^ 48 + 2 ^ 32)

theorem head_fields (c : W32) (lo n v : Nat) (h : (c.toNat * 2 ^ 64 + 0x7E53 * 2 ^ 48 + 2 ^ 32) / 2 ^ lo % 2 ^ n = v % 2 ^ n) :
    (head c).extractLsb' lo n = BitVec.ofNat n v := by
  apply BitVec.eq_of_toNat_eq
  have hc : c.toNat * 2 ^ 64 + 0x7E53 * 2 ^ 48 + 2 ^ 32 < 2 ^ 512 := by
    have h1 := c.isLt
    have h2 : (2 : Nat) ^ 97 ≤ 2 ^ 512 := Nat.pow_le_pow_right (by decide) (by decide)
    omega
  rw [BitVec.extractLsb'_toNat, head, BitVec.toNat_ofNat, Nat.mod_eq_of_lt hc, Nat.shiftRight_eq_div_pow, BitVec.toNat_ofNat, h]

/-- Bytes with a header that names their check value are a good image. -/
theorem image_good (b : List Byte) : imageGood (recordBytes (head (crc32c b)) ++ b) = true := by
  have hl : ∀ h, (recordBytes h).length = 64 := fun h => leBytes_length _ _
  rw [imageGood, List.take_append_of_le_length (Nat.le_of_eq (hl _).symm), List.take_of_length_le (Nat.le_of_eq (hl _)),
    List.drop_append_of_le_length (Nat.le_of_eq (hl _).symm), List.drop_of_length_le (Nat.le_of_eq (hl _)), recordBytes_back,
    List.nil_append]
  generalize crc32c b = c
  have h1 := c.isLt
  simp only [Bool.and_eq_true, beq_iff_eq]
  refine ⟨⟨head_fields c 48 16 0x7E53 ?_, head_fields c 32 16 1 ?_⟩, (head_fields c 64 32 c.toNat ?_).trans (BitVec.ofNat_toNat ..)⟩ <;> omega

/-- The bytes of a saved image: a header that names their check value, and zeros. -/
def body : List Byte := List.replicate (0x1ED000 - 64) 0

/-- The image. -/
def saved : List Byte := recordBytes (head (crc32c body)) ++ body

/-- Its entry on the scoreboard. -/
def parkedEntry : Launch := ⟨0, 0x100000000, launch 1 0, 0, header, [], 0, true, true, false, [], [], [], 1, 0, 0, 0, none⟩

/-- The cell that it saves. -/
def parkedCell : Cell := Cell.start .running { Ident.none with handle := 0x100000000, record := launch 1 0, textlen := 16, entry := 0x2040 } 0

/-- A device with one pre-empted cell, whose image stands in slot 0. -/
def parked : State :=
  let d := { State.reset.dies[0] with imgbase := 0xA000000000000000, imgcount := 512, board := [parkedEntry],
                                      images := [⟨0, 0, parkedCell, none, []⟩] }
  { State.reset with mem := Memory.putList State.reset.mem (locShared 0) saved, dies := State.reset.dies.set 0 d }

theorem parked_mem : parked.mem = Memory.putList State.reset.mem (locShared 0) saved := by rw [parked]

/-- The image that stands there. -/
def parkedImage : Image := ⟨0, 0, parkedCell, none, []⟩

/-- The device when the cell is to resume on core 0. -/
def resuming : State :=
  ((parked.on 0).setDie (dieOf 0) { parked.die (dieOf 0) with images := (parked.die (dieOf 0)).images.filter (· != parkedImage) }).setLeft
    parkedCell.ident.handle 0 false

theorem same_plain (s : State) (k : CoreId) (d : DieId) (x : Die) (h : Word) (b : Bool) :
    (((s.on k).setDie d x).setLeft h k b).mem = s.mem ∧ (((s.on k).setDie d x).setLeft h k b).stores = s.stores
      ∧ (((s.on k).setDie d x).setLeft h k b).pubs = s.pubs ∧ (((s.on k).setDie d x).setLeft h k b).poison = s.poison := ⟨rfl, rfl, rfl, rfl⟩

theorem parked_plain : parked.stores = [] ∧ parked.pubs = [] ∧ parked.poison = [] := by
  rw [parked]; exact ⟨rfl, rfl, rfl⟩

theorem resuming_same : resuming.mem = parked.mem ∧ resuming.stores = [] ∧ resuming.pubs = [] ∧ resuming.poison = [] := by
  obtain ⟨hs, hp, hq⟩ := parked_plain
  obtain ⟨h1, h2, h3, h4⟩ := same_plain parked 0 (dieOf 0)
    { parked.die (dieOf 0) with images := (parked.die (dieOf 0)).images.filter (· != parkedImage) } parkedCell.ident.handle false
  exact ⟨h1, h2.trans hs, h3.trans hp, h4.trans hq⟩

/-- A check of an access touches only the caches, with which no byte changes. -/
def sound (r : Except Flt (List (Nat × Nat) × State)) : Bool := match r with
  | .ok (ps, u) => contiguous (locShared 0) ps && ps.all (fun y => (peerChannel y.1).isNone) && (ps.map (·.2)).sum == 0x1ED000
      && u.stores.isEmpty && u.pubs.isEmpty && u.poison.isEmpty
  | .error _ => false

theorem parked_pieces : sound (resuming.range (imageAgent 0) (resuming.slotAddr (dieOf 0) 0) (0x1ED000 + parkedCell.ckBytes.length) .load) = true := by
  decide +kernel

theorem imageBytes_plain (s : State) (k : CoreId) (i : Image) (x : Nat) (hs : s.stores = []) (hp : s.pubs = []) (hb : s.poison = [])
    (ps : List (Nat × Nat)) (hc : contiguous x ps = true) (ho : ∀ y ∈ ps, peerChannel y.1 = none) :
    s.imageBytes k i ps = .ok (Memory.getList s.mem x (ps.map (·.2)).sum) := by
  rw [State.imageBytes]
  exact readPieces_plain { s with poison := s.poison.filter _ } hs hp (by rw [hb]; rfl) _ ps _ x hc ho

theorem parked_bytes : ∃ ps u, resuming.range (imageAgent 0) (resuming.slotAddr (dieOf 0) 0) (0x1ED000 + parkedCell.ckBytes.length) .load
    = .ok (ps, u) ∧ u.imageBytes 0 parkedImage ps = .ok saved := by
  have h := parked_pieces
  obtain ⟨hm, -⟩ := resuming_same
  cases hr : resuming.range (imageAgent 0) (resuming.slotAddr (dieOf 0) 0) (0x1ED000 + parkedCell.ckBytes.length) .load with
  | error e => rw [hr] at h; cases h
  | ok r =>
    obtain ⟨ps, u⟩ := r
    rw [hr] at h
    simp only [sound, Bool.and_eq_true, beq_iff_eq, List.all_eq_true, Option.isNone_iff_eq_none, List.isEmpty_iff] at h
    obtain ⟨⟨⟨⟨⟨hc, ho⟩, hl⟩, hs⟩, hp⟩, hb⟩ := h
    have hk : u.mem = resuming.mem := State.range_mem hr
    have hn : saved.length = 0x1ED000 := by
      rw [saved, List.length_append, recordBytes, leBytes_length, body, List.length_replicate]
    refine ⟨ps, u, rfl, ?_⟩
    rw [imageBytes_plain u 0 parkedImage (locShared 0) hs hp hb ps hc ho, hl, hk, hm, parked_mem, ← hn, getList_putList saved _ _ (by decide)]

theorem witness_PreemptionAndHack_resume :
    (∃ ps u, resuming.range (imageAgent 0) (resuming.slotAddr (dieOf 0) 0) (0x1ED000 + parkedCell.ckBytes.length) .load = .ok (ps, u)
        ∧ u.imageBytes 0 parkedImage ps = .ok saved) ∧ imageGood saved = true
      ∧ (parked.die (dieOf 0)).images = [parkedImage]
      ∧ (parked.die (dieOf 0)).board.find? (fun l => l.handle == parkedCell.ident.handle) = some parkedEntry
      ∧ parked.issuing = true ∧ parked.resumeGranted (dieOf 0) parkedEntry parkedCell.ident.cellno.toNat = true
      ∧ parkedImage.only = none ∧ recGang parkedEntry.record = false ∧ parked.free parkedEntry 0 = true
      ∧ parked.firstClaim (dieOf 0) parkedEntry 0 = true
      ∧ ({ parkedImage with only := some 195 } : Image).only = some 195 ∧ parked.cores[(195 : CoreId)].cell.status = .idle := by
  exact ⟨parked_bytes, image_good body, rfl, by decide +kernel⟩

/-! ## Single steps, with results worked out by hand -/

/-- An instruction of A on the values of x4 and x3 leaves a value in x5. -/
def gives (i : Dst → Src → Src → Instr) (a b r : Word) : Bool :=
  nextIs (exec (i (.x 5) (.x 4) (.x 3)) ((base.setX 4 a).setX 3 b)) fun t => t.x 5 == r

/-- R100, R101: wrap, the two high products, and the division corners. -/
theorem test_products : gives (.add 0) 0xFFFFFFFFFFFFFFFF 2 1 = true ∧ gives (.sub 0) 1 2 0xFFFFFFFFFFFFFFFF = true
    ∧ gives (.mulh 0) 0xFFFFFFFFFFFFFFFF 0xFFFFFFFFFFFFFFFF 0 = true ∧ gives (.mulhn 0) 0xFFFFFFFFFFFFFFFF 0xFFFFFFFFFFFFFFFF 0xFFFFFFFFFFFFFFFE = true
    ∧ gives (.div 0) 0x8000000000000000 0xFFFFFFFFFFFFFFFF 0x8000000000000000 = true ∧ gives (.div 0) 7 0 0xFFFFFFFFFFFFFFFF = true
    ∧ gives (.rem 0) (-7) 2 (-1) = true ∧ gives (.remn 0) 7 0 7 = true := by decide +kernel

/-- R102: the example of shr.s32, the masks of the amounts. R103: the examples of bext and bdep. -/
theorem test_bits : gives (.shrS32 0) 0x80000000 0 0xFFFFFFFF80000000 = true ∧ gives (.shrS32 0) 0x80000000 1 0x40000000 = true
    ∧ gives (.shl 0) 1 65 2 = true ∧ gives (.sra 0) 0x8000000000000000 63 0xFFFFFFFFFFFFFFFF = true
    ∧ gives (.bext 0) 0xF0F0 0x0FF0 0x000F = true ∧ gives (.bdep 0) 0x000F 0x0FF0 0x00F0 = true
    ∧ gives (.slt 0) 0xFFFFFFFFFFFFFFFF 0 1 = true ∧ gives (.sltn 0) 0xFFFFFFFFFFFFFFFF 0 0 = true := by decide +kernel

/-- R97: x0 discards what is written; A has walked past one word. -/
theorem test_x0 : nextIs (exec (.add 0 (.x 0) (.x 4) (.x 4)) (base.setX 4 1)) (fun t => t.x 0 == 0 && (t.path .A).pc == 4) = true := by
  decide +kernel

/-- R24, R31: li fetched and run from its word. -/
theorem test_li : nextIs (step (State.reset.withFetchWord 32 0x00D05007)) (fun t => t.x 5 == 7 && (t.path .A).pc == 4) = true := by decide

/-- R104: sel reads its destination first; the literal of slt is signed and that of sltn natural. -/
theorem test_sel : nextIs (exec (.sel 0 (.x 5) (.x 4) (.x 3)) (((base.setX 4 8).setX 3 9).setX 5 1)) (fun t => t.x 5 == 8) = true
    ∧ gives (.sel 0) 8 9 9 = true := by decide +kernel

/-- R94: a taken branch goes to its target, and each other engine gets the bit. -/
theorem test_beq : nextIs (exec (.beq 0 (.x 4) 3) base) (fun t => (t.path .A).pc == 12 && (t.path .V).outs == [true]) = true
    ∧ nextIs (exec (.beq 0 (.x 4) 3) (base.setX 4 1)) (fun t => (t.path .A).pc == 4 && (t.path .F).outs == [false]) = true := by
  decide +kernel

/-- R108: a signed and a natural load of the same bytes, the last one first in memory. -/
theorem test_loads : (
    let s := place base (locPhys 0x1000) [0x01, 0x80]
    nextIs (exec (.ldS16 0 (.x 5) (.x 4) 0) (s.setX 4 0x1000)) (fun t => t.x 5 == 0xFFFFFFFFFFFF8001)
      && nextIs (exec (.ldN16 0 (.x 5) (.x 4) 0xFFFFFFFFFFFFFFFF) (s.setX 4 0x1002)) fun t => t.x 5 == 0x8001) = true := by decide +kernel

/-- R108, R244: a stored byte is A's at once and not yet the device's. -/
theorem test_store : nextIs (exec (.stN8 0 (.x 3) (.x 4) 1) ((base.setX 4 0x1000).setX 3 0x1FE)) (fun t =>
    t.peekByte (.engine 0 .A 0x1001) (locPhys 0x1001) == 0xFE && t.peekByte .device (locPhys 0x1001) == 0
      && (t.path .A).pc == 4) = true := by decide +kernel

/-- R107, R282, R286: a misaligned load takes the alignment fault, kind 3, and writes nothing; the handler is entered at word 0. -/
theorem test_misaligned : nextIs (exec (.ldN32 0 (.x 5) (.x 4) 0) ((base.setX 4 0x1002).setX 5 9)) (fun t =>
    t.cell.traps.cause == 0x8003000000000000 && t.cell.traps.epc.a == 0 && t.x 5 == 9) = true := by decide +kernel

/-- R111, R112: an atomic gives the old value; f32 sums round to infinity as in the example of chapter 6. -/
theorem test_atomics : (
    let s := place base (locPhys 0x1000) [0xFF, 0xFF, 0x7F, 0x7F]
    nextIs (exec (.amoFaddF32 0 (.x 5) (.x 4) (.x 3)) ((s.setX 4 0x1000).setX 3 0x7F7FFFFF)) fun t =>
      t.x 5 == 0x7F7FFFFF && t.peek .device (locPhys 0x1000) 4 == [0, 0, 0x80, 0x7F]) = true := by decide +kernel

/-- R89: V halts at a halt word; A waits there for the others, and when all stand there the cell's iteration ends. -/
theorem test_halt : nextIs (exec (.halt 0) (at_ base .V)) (fun t => (t.path .V).halted && !(t.path .A).halted) = true
    ∧ nextIs (exec (.halt 0) base) (fun t => t.cell.status == .running && (t.path .A).pc == 0) = true := by decide +kernel

/-- R282, R286: trap retires, then the software fault, kind 0, carries its code; A's saved PC is past the word. -/
theorem test_trap : nextIs (exec (.trap 0 5) (named base fun i => { i with htrap := 6 })) (fun t =>
    t.cell.traps.cause == 0x8000000000000005 && t.cell.traps.epc.a == 4 && t.cell.traps.epc.v == 0 && (t.path .V).pc == 24) = true := by
  decide +kernel

/-- R115, R282: a user's swr of a register marked read takes the privilege fault, kind 2, with code 2. -/
theorem test_privilege : nextIs (exec (.swr 0 (.x 5) 0x000) base) (fun t => t.cell.traps.cause == 0x8002000000000002) = true := by
  decide +kernel

/-- A tile of one value. -/
def tileOf (w : W32) : Tile := Tile.of fun _ => w

/-- Lane 0 that a word of V on tiles leaves in tile 3. -/
def lane0 (i : Instr) (a b : W32) (r : W32) : Bool :=
  let s := at_ base .V
  nextIs (exec i (s.setRoll { s.roll with v := (s.roll.v.set 1 (tileOf a)).set 2 (tileOf b) })) fun t => (t.tile 3).at_ 0 == r

/-- R175, R67: 1 + 2 = 3, and overflow with and without saturation in f32. -/
theorem test_vadd : lane0 (.vAdd 0 3 1 2 ⟨.f32, .rne, false⟩) 0x3F800000 0x40000000 0x40400000 = true
    ∧ lane0 (.vAdd 0 3 1 2 ⟨.f32, .rne, true⟩) 0x7F7FFFFF 0x7F7FFFFF 0x7F7FFFFF = true := by decide +kernel

/-- R34, R67: to nearest even and toward zero, 1 + 2⁻⁸ + 2⁻²³ to bf16. -/
theorem test_vcvt : lane0 (.vCvt 0 3 1 .bf16 .f32 .rne false) 0x3F808001 0 0x00003F81 = true
    ∧ lane0 (.vCvt 0 3 1 .bf16 .f32 .rtz false) 0x3F808001 0 0x00003F80 = true := by decide +kernel

/-- R176: v.cmp.lt of −1 and 1, and of a NaN, which compares false. -/
theorem test_vcmp : lane0 (.vCmpLt 0 3 1 2 ⟨.f32, .rne, false⟩) 0xBF800000 0x3F800000 1 = true
    ∧ lane0 (.vCmpLt 0 3 1 2 ⟨.f32, .rne, false⟩) 0x7FC00000 0x3F800000 0 = true := by decide +kernel

end Sys2Proof.Tests
end

section
/-! SUPPORT. Proofs of the statements about division, shifts and bit fields of A (R101 to R103). -/

namespace Sys2Proof.Machine
open Sys2Proof

/-! ## Division and shifts -/

/-- A form that the dispatch runs as a word of three operands has the results of its function. -/
theorem result3_of_a3 {mk : Tok → Dst → Src → Src → Instr} {cls : Fin 16} {f g : Word → Word → Word}
    (hexec : ∀ t d a b s, exec (mk t d a b) s = s.a3 cls t d a b g) (hfun : g = f) : Result3 mk cls f := by
  subst hfun
  intro t d a b s s1 s2 s3 s4 u v hadm ha hb hd
  rw [hexec]
  exact State.a3_ok hadm ha hb hd

/-- R101: the quotient that wraps is the one at -2^63 by -1; every other is the truncated one. -/
theorem fDiv_eq (u v : Word) : fDiv u v =
    if v = 0 then BitVec.ofInt 64 (-1)
    else if u.toInt = -2 ^ 63 ∧ v.toInt = -1 then BitVec.ofInt 64 (-2 ^ 63)
    else BitVec.ofInt 64 (u.toInt.tdiv v.toInt) := by
  unfold fDiv
  split_ifs with hzero hwrap
  · rfl
  · rw [hwrap.1, hwrap.2]
    decide
  · rfl

/-- R101: the remainder leaves the dividend as the truncated quotient times the divisor; it is 0 where the quotient wraps. -/
theorem fRem_eq (u v : Word) : fRem u v =
    if v = 0 then u
    else if u.toInt = -2 ^ 63 ∧ v.toInt = -1 then 0
    else BitVec.ofInt 64 (u.toInt - v.toInt * u.toInt.tdiv v.toInt) := by
  unfold fRem
  split_ifs with hzero hwrap
  · rfl
  · rw [hwrap.1, hwrap.2]
    decide
  · rw [Int.tmod_def]

/-- R102: the amount of a 64-bit shift is bits 5:0. -/
theorem shamt_eq (v : Word) : shamt v = (v.extractLsb' 0 6).toNat := by simp [shamt]

/-- R102: the amount of a 32-bit shift is bits 4:0. -/
theorem shamt32_eq (v : Word) : shamt32 v = (v.extractLsb' 0 5).toNat := by simp [shamt32]

/-- Bits 31:0 as an extract. -/
theorem low32_eq (u : Word) : low32 u = u.extractLsb' 0 32 := BitVec.setWidth_eq_extractLsb' (by decide)

/-- Settles O2: each form runs as a word of three operands, and its function is the one the rules give. -/
theorem divisionAndShiftResults : Obligations.DivisionAndShiftResults := by
  refine ⟨⟨?div, ?rem, ?divn, ?remn⟩, ?shl, ?shr, ?sra, ?shlS32, ?shrS32, ?sraS32⟩
  case div => exact result3_of_a3 (fun _ _ _ _ _ => rfl) (funext₂ fDiv_eq)
  case rem => exact result3_of_a3 (fun _ _ _ _ _ => rfl) (funext₂ fRem_eq)
  case divn => exact result3_of_a3 (g := fDivn) (fun _ _ _ _ _ => rfl) rfl
  case remn => exact result3_of_a3 (g := fRemn) (fun _ _ _ _ _ => rfl) rfl
  case shl => exact result3_of_a3 (fun _ _ _ _ _ => rfl) (funext₂ fun u v => congrArg (u <<< ·) (shamt_eq v))
  case shr => exact result3_of_a3 (fun _ _ _ _ _ => rfl) (funext₂ fun u v => congrArg (u >>> ·) (shamt_eq v))
  case sra => exact result3_of_a3 (fun _ _ _ _ _ => rfl) (funext₂ fun u v => congrArg u.sshiftRight (shamt_eq v))
  case shlS32 =>
    exact result3_of_a3 (g := fShl32) (fun _ _ _ _ _ => rfl)
      (funext₂ fun u v => by rw [fShl32, sext32, low32_eq, shamt32_eq])
  case shrS32 =>
    exact result3_of_a3 (g := fShr32) (fun _ _ _ _ _ => rfl)
      (funext₂ fun u v => by rw [fShr32, sext32, low32_eq, shamt32_eq])
  case sraS32 =>
    exact result3_of_a3 (g := fSra32) (fun _ _ _ _ _ => rfl)
      (funext₂ fun u v => by rw [fSra32, sext32, low32_eq, shamt32_eq])

/-! ## Bit fields

The loops of R103 are read from bit i of the mask on: what n further rounds give is a multiple of 2^k, where k is
the place that they write first, so that the bit of one round and the result of the rest never carry into each other. -/

/-- The places of a mask's one bits among the n from i on, ascending. -/
def onesFrom (m : Word) (i n : Nat) : List Nat := (List.range' i n).filter fun p => m.getLsbD p

/-- From bit 0 on these are all places of the mask. -/
theorem onesFrom_all (m : Word) : onesFrom m 0 64 = onesOf m := by rw [onesFrom, onesOf, List.range_eq_range']

/-- The first place is there where its bit is one. -/
theorem onesFrom_succ (m : Word) (i n : Nat) :
    onesFrom m i (n + 1) = if m.getLsbD i then i :: onesFrom m (i + 1) n else onesFrom m (i + 1) n := by
  rw [onesFrom, List.range'_succ, List.filter_cons, onesFrom]

/-- No place from i on is below p, where p is not past i. -/
theorem filter_lt_onesFrom {m : Word} {i n p : Nat} (h : p ≤ i) : (onesFrom m i n).filter (· < p) = [] := by
  simp only [onesFrom, List.filter_eq_nil_iff, List.mem_filter, List.mem_range'_1, decide_eq_true_eq]
  omega

/-- A bit at place k before a multiple of 2^(k+1): the sum has that bit at k and the multiple's bits elsewhere. -/
theorem testBit_bit_add {k q : Nat} (b : Bool) (hq : 2 ^ (k + 1) ∣ q) (p : Nat) :
    ((if b then 2 ^ k else 0) + q).testBit p = if p = k then b else q.testBit p := by
  obtain ⟨c, rfl⟩ := hq
  have hlt : (if b then 2 ^ k else 0) < 2 ^ (k + 1) := by cases b <;> simp [Nat.pow_succ]
  have hbit : (if b then 2 ^ k else 0).testBit p = (b && decide (k = p)) := by cases b <;> simp [Nat.testBit_two_pow]
  rw [Nat.add_comm, Nat.testBit_two_pow_mul_add _ hlt, Nat.testBit_two_pow_mul, hbit]
  rcases lt_trichotomy p k with hp | rfl | hp
  · simp [hp.ne, hp.ne', Nat.lt_succ_of_lt hp, Nat.not_lt.mpr hp.le]
  · simp
  · simp [hp.ne', Nat.not_lt.mpr hp, Nat.succ_le_of_lt hp]

/-- The loop of bext writes from packed bit j on. -/
theorem two_pow_dvd_bextFrom (a m : Word) : ∀ (n i j : Nat), 2 ^ j ∣ bextFrom a m i j n
  | 0, _, _ => dvd_zero _
  | n + 1, i, j => by
    have hrest : 2 ^ j ∣ bextFrom a m (i + 1) (j + 1) n :=
      (pow_dvd_pow 2 j.le_succ).trans (two_pow_dvd_bextFrom a m n (i + 1) (j + 1))
    have hskip := two_pow_dvd_bextFrom a m n (i + 1) j
    rw [bextFrom]
    split_ifs
    · exact (dvd_refl _).add hrest
    · exact (dvd_zero _).add hrest
    · exact hskip

/-- The loop of bdep writes from bit i on. -/
theorem two_pow_dvd_bdepFrom (a m : Word) : ∀ (n i j : Nat), 2 ^ i ∣ bdepFrom a m i j n
  | 0, _, _ => dvd_zero _
  | n + 1, i, j => by
    have hrest (j' : Nat) : 2 ^ i ∣ bdepFrom a m (i + 1) j' n :=
      (pow_dvd_pow 2 i.le_succ).trans (two_pow_dvd_bdepFrom a m n (i + 1) j')
    rw [bdepFrom]
    split_ifs
    · exact (dvd_refl _).add (hrest _)
    · exact (dvd_zero _).add (hrest _)
    · exact hrest _

/-- Packed bit j + k of the loop of bext is the value's bit at the k-th place of the mask, and 0 past the last place. -/
theorem testBit_bextFrom (a m : Word) : ∀ (n i j k : Nat),
    (bextFrom a m i j n).testBit (j + k) = (onesFrom m i n)[k]?.elim false fun p => a.getLsbD p
  | 0, _, _, _ => by simp [bextFrom, onesFrom]
  | n + 1, i, j, k => by
    rw [bextFrom, onesFrom_succ]
    by_cases hm : m.getLsbD i = true
    · rw [if_pos hm, if_pos hm, testBit_bit_add _ (two_pow_dvd_bextFrom a m n (i + 1) (j + 1))]
      cases k with
      | zero => simp
      | succ k =>
        have ih := testBit_bextFrom a m n (i + 1) (j + 1) k
        rw [show j + 1 + k = j + (k + 1) by omega] at ih
        simp [ih]
    · rw [if_neg hm, if_neg hm, testBit_bextFrom a m n (i + 1) j k]

/-- A bit of the loop of bdep: at a place of the mask that the n rounds from i on reach, the value's bit that is as many past
bit j as there are places from i on below. -/
theorem testBit_bdepFrom (a m : Word) : ∀ (n i j p : Nat), (bdepFrom a m i j n).testBit p =
    (decide (i ≤ p ∧ p < i + n) && m.getLsbD p && a.getLsbD (j + ((onesFrom m i n).filter (· < p)).length))
  | 0, i, _, p => by
    have hout : ¬ (i ≤ p ∧ p < i + 0) := by omega
    rw [bdepFrom, Nat.zero_testBit, decide_eq_false hout, Bool.false_and, Bool.false_and]
  | n + 1, i, j, p => by
    have ih (j' : Nat) := testBit_bdepFrom a m n (i + 1) j' p
    have hin : p ≠ i → ((i + 1 ≤ p ∧ p < i + 1 + n) ↔ (i ≤ p ∧ p < i + (n + 1))) := by omega
    rw [bdepFrom, onesFrom_succ]
    by_cases hm : m.getLsbD i = true
    · rw [if_pos hm, if_pos hm, testBit_bit_add _ (two_pow_dvd_bdepFrom a m n (i + 1) (j + 1)), ih]
      rcases lt_trichotomy p i with hlt | rfl | hgt
      · have h1 : ¬ (i + 1 ≤ p ∧ p < i + 1 + n) := by omega
        have h2 : ¬ (i ≤ p ∧ p < i + (n + 1)) := by omega
        rw [if_neg hlt.ne, decide_eq_false h1, decide_eq_false h2, Bool.false_and, Bool.false_and, Bool.false_and]
      · simp [hm, filter_lt_onesFrom p.le_succ]
      · simp only [if_neg hgt.ne', hin hgt.ne', List.filter_cons, hgt, decide_true, if_true, List.length_cons]
        rw [Nat.add_assoc, Nat.add_comm 1]
    · rw [if_neg hm, if_neg hm, ih]
      by_cases hp : p = i
      · subst hp
        simp [hm]
      · simp only [hin hp]

/-- The result of bext is the extracted field. -/
theorem extracted_bextFrom (a m : Word) : extracted a m (BitVec.ofNat 64 (bextFrom a m 0 0 64)) := by
  intro j hj
  have hbit := testBit_bextFrom a m 64 0 0 j
  rw [Nat.zero_add, onesFrom_all] at hbit
  rw [BitVec.getLsbD_ofNat, hbit]
  cases (onesOf m)[j]? <;> simp [hj]

/-- The result of bdep is the deposited field. -/
theorem deposited_bdepFrom (a m : Word) : deposited a m (BitVec.ofNat 64 (bdepFrom a m 0 0 64)) := by
  intro i hi
  rw [BitVec.getLsbD_ofNat, testBit_bdepFrom, onesFrom_all]
  simp [hi]

/-- There is one extracted field. -/
theorem extracted_unique {a m r r' : Word} (h : extracted a m r) (h' : extracted a m r') : r = r' :=
  BitVec.eq_of_getLsbD_eq fun j hj => (h j hj).trans (h' j hj).symm

/-- There is one deposited field. -/
theorem deposited_unique {a m r r' : Word} (h : deposited a m r) (h' : deposited a m r') : r = r' :=
  BitVec.eq_of_getLsbD_eq fun i hi => (h i hi).trans (h' i hi).symm

/-- bext runs as a word of three operands with what its loop computes. -/
theorem exec_bext (t : Tok) (d : Dst) (a b : Src) (s : State) :
    exec (.bext t d a b) s = s.a3 1 t d a b fun u v => BitVec.ofNat 64 (bextFrom u v 0 0 64) := rfl

/-- bdep runs as a word of three operands with what its loop computes. -/
theorem exec_bdep (t : Tok) (d : Dst) (a b : Src) (s : State) :
    exec (.bdep t d a b) s = s.a3 1 t d a b fun u v => BitVec.ofNat 64 (bdepFrom u v 0 0 64) := rfl

/-- Settles O4: the loops compute the fields that R103 describes bit by bit, and each is the only one. -/
theorem bitFieldResults : Obligations.BitFieldResults := by
  intro t d a b s s1 s2 s3 s4 u v r hadm ha hb hd
  constructor
  · intro hr
    rw [extracted_unique hr (extracted_bextFrom u v)] at hd
    rw [exec_bext]
    exact State.a3_ok hadm ha hb hd
  · intro hr
    rw [deposited_unique hr (deposited_bdepFrom u v)] at hd
    rw [exec_bdep]
    exact State.a3_ok hadm ha hb hd

end Sys2Proof.Machine
end
